-- ==== Sys2Proof/Word.lean ====
section
/-! DEFINITION. The word types of the Faloft Vrelrid and their plainest arithmetic (R5, R6, R90). -/

namespace Sys2Proof

abbrev Byte := BitVec 8
abbrev W16 := BitVec 16
/-- A text word, a lane, a K register. -/
abbrev W32 := BitVec 32
/-- An X register, a guest-virtual address as a register holds it. -/
abbrev W64 := BitVec 64
/-- 256 bytes: a scratchpad row, a vector register, a load- or store-queue entry (R22, R24).
Byte i stands at bits [8i + 7 : 8i], so lane i of R182 stands at bits [32i + 31 : 32i] (R6). -/
abbrev Row := BitVec 2048
/-- A partition's generation (R9, R363). -/
abbrev Gen := BitVec 6

/-- Bits [lo + n - 1 : lo] of a word, as a number (R5). -/
def fld {k : Nat} (w : BitVec k) (lo n : Nat) : Nat := w.toNat / 2 ^ lo % 2 ^ n

/-- Lane i of a row (R182). -/
def Row.lane (r : Row) (i : Nat) : W32 := r.extractLsb' (32 * i) 32
/-- Byte i of a row. -/
def Row.byte (r : Row) (i : Nat) : Byte := r.extractLsb' (8 * i) 8

/-- The number written by n chunks of w bits, chunk 0 lowest. -/
def packNat (w : Nat) (f : Nat → Nat) : Nat → Nat
  | 0 => 0
  | n + 1 => packNat w f n + 2 ^ (w * n) * (f n % 2 ^ w)

/-- A row from its 64 lanes. -/
def Row.ofLanes (f : Nat → W32) : Row := BitVec.ofNat 2048 (packNat 32 (fun i => (f i).toNat) 64)
/-- A row from its 256 bytes. -/
def Row.ofBytes (f : Nat → Byte) : Row := BitVec.ofNat 2048 (packNat 8 (fun i => (f i).toNat) 256)

/-- A number from its bytes, the least significant first (R6). -/
def leNat : List Byte → Nat
  | [] => 0
  | b :: bs => b.toNat + 256 * leNat bs

/-- The n bytes of a number, the least significant first (R6). -/
def natLe (x : Nat) : Nat → List Byte
  | 0 => []
  | n + 1 => BitVec.ofNat 8 x :: natLe (x / 256) n

end Sys2Proof
end

