-- ==== Sys2Proof/Syntax.lean ====
section
/-! DEFINITION. The steps of the device: every row of the operation table as one constructor of Instr,
with the fields, payloads and code tables its operands use. -/

namespace Sys2Proof

/-- The five engines (00, Names). -/
inductive Engine | s | a | v | m | p
deriving DecidableEq, Repr, Inhabited

/-- A token field: the engine it names, or none (R19). -/
abbrev Tok := Option Engine

/-- Register fields of R94. -/
abbrev XR := Fin 32
abbrev VR := Fin 32
abbrev KR := Fin 16
abbrev AccR := Fin 8
abbrev BcR := Fin 16
/-- An ordering class (R95). -/
abbrev Ocl := Fin 16
/-- A copy tag (R148). -/
abbrev Ctag := Fin 64
/-- A scratchpad row number. -/
abbrev RowIx := Fin 8192

/-- Rounding modes (R67). -/
inductive RMode | rne | rtz | rup | rdn | rna
deriving DecidableEq, Repr, Inhabited

/-- Level and scope codes 0 to 4 (R95). -/
inductive Lvl | core | hamlet | die | module | group
deriving DecidableEq, Repr, Inhabited

/-- The K test of R96. -/
inductive Kcc | eq | ne | lt | ge | gt | le | always
deriving DecidableEq, Repr, Inhabited

/-- Access sizes of the SM layout (R99). -/
inductive Sz | b | h | w | d
deriving DecidableEq, Repr, Inhabited

/-- The two segment codes of the AT layout (R101). -/
inductive Seg | strict | segment
deriving DecidableEq, Repr, Inhabited

/-- Where a copy puts its rows: scratchpad rows or a load queue (R155). -/
inductive DstSel | rows (r : RowIx) | lq (q : Fin 4)
deriving DecidableEq, Repr, Inhabited

/-- Where a copy takes its rows: scratchpad rows or a store queue (R155). -/
inductive SrcSel | rows (r : RowIx) | sq (q : Fin 2)
deriving DecidableEq, Repr, Inhabited

/-- The queue a BIND word with OFF releases, and its PLQ and PEER fields, which a release does not read (R101, R155, R180). -/
structure Release where
  q : Fin 2
  plq : Fin 4
  peer : Fin 128
deriving DecidableEq, Repr, Inhabited

/-- The reductions of VRED and VSCAN (R199). -/
inductive RedOp | sum | max | min
deriving DecidableEq, Repr, Inhabited

/-- The kinds of VNORM (R201). -/
inductive NormKind | rms | mv
deriving DecidableEq, Repr, Inhabited

/-- Why the decoder rejects a word, by name (R93, R11). -/
inductive Reject
  | unassigned | longForm | reservedField | reservedCode | tokenField | oddPair | fieldLimit | reservedTag
  | fnCode | tfmtCode | roundMode | extField
deriving DecidableEq, Repr, Inhabited

/-- Who issues a command (R378): the hypervisor, or a virtual function. -/
inductive Issuer | hyp | vf (n : Nat)
deriving DecidableEq, Repr, Inhabited

/-- A command's header (R378), with the digest of the requester's public key of the session that carries it, and the Uarov port of that
session (R286, R377). -/
structure CmdHdr where
  issuer : Issuer
  reqid : W32
  part : Nat
  vfn : Nat
  digest : BitVec 256
  port : Fin 2
deriving DecidableEq, Repr, Inhabited

/-- One grant of the colour part of a PART.CREATE or PART.RESIZE payload (R390). -/
structure GrantReq where
  slice : Nat
  colour : Nat
  stw : Nat
  wayMask : W16
deriving DecidableEq, Repr, Inhabited

/-- The PART.LIMITS payload (R379). -/
structure Limits where
  mask : W16
  xbBase : Nat
  xbCount : Nat
  scrBase : Nat
  scrCount : Nat
  parkBase : Nat
  parkCount : Nat
  slots : Nat
  precfg : W32
  slip : W32
  qos : W32
deriving DecidableEq, Repr, Inhabited

/-- A page reply record (R346). -/
structure PageReplyRec where
  addr : Nat
  size : Nat
  kind : Nat
  status : Nat
  vfn : Nat
  gen : Nat
  mark0 : Bool
  badLayout : Bool
deriving DecidableEq, Repr, Inhabited

/-- What an evidence request covers (R385). -/
inductive EvScope | module | part (p : Nat) | vf (n : Nat)
deriving DecidableEq, Repr, Inhabited

/-- A Stile policy record (R419), with the digests of the keys it carries and whether each signature verifies. -/
structure PolicyRec where
  policyId : Nat
  labels : List Nat
  vfn : Nat
  destOwn : Bool
  gbase : Nat
  gsize : Nat
  bytes : Nat
  notAfter : Nat
  layoutOk : Bool
  keyDigests : List (BitVec 256)
  sigsOk : Bool
deriving DecidableEq, Repr, Inhabited

/-- A frame rota entry (R371): none is an idle frame. -/
structure RotaEntry where
  vfn : Option Nat
  lenu : Nat
  swin : Nat
deriving DecidableEq, Repr, Inhabited

/-- The REPLAY.ARM payload (R415). -/
structure ReplayArmReq where
  base : Nat
  size : Nat
  mode : Nat
  part : Nat
  mask : W16
deriving DecidableEq, Repr, Inhabited

/-- The SPARE.SWAP payload (R411). -/
structure SwapReq where
  kind : Nat
  retire : Nat
  spare : Nat
  hrow : Nat
deriving DecidableEq, Repr, Inhabited

/-- What a link peer shows at training (R380, R382): whether it is there, offers version 1.4, offers the four algorithms of the subset, and holds its
chain in slot 0; its root, its signature, and whether its measurement is the one its certificate binds. -/
structure LinkPeer where
  present : Bool
  version14 : Bool
  algorithms : Bool
  slot0 : Bool
  rootDigest : BitVec 256
  sigOk : Bool
  measOk : Bool
deriving DecidableEq, Repr, Inhabited

/-- A core within its partition (R10). -/
structure CoreId where
  part : Nat
  num : Nat
deriving DecidableEq, Repr, Inhabited

/-- Why a monitored wait ends (R134). -/
inductive MonEvent | write | lost | wake
deriving DecidableEq, Repr, Inhabited

/-- What an uncorrectable error strikes (R414): a core, a line of memory, a saved context, or a partition's words in the Crossroads and the commons
scratchpad. -/
inductive ErrUnit
  | core (c : CoreId)
  | line (hpa : Nat)
  | saved (c : CoreId) (task : Nat)
  | windows (part : Nat)
deriving DecidableEq, Repr, Inhabited

/-- A sensor of the thermal limits (R423): the junction of a compute die or of the Commons die, which is the last; an HBM4E stack; the coolant
outlet. -/
inductive Sensor
  | junction (die : Fin 5)
  | hbm (stack : Fin 16)
  | outlet
deriving DecidableEq, Repr, Inhabited

/-- The module configuration block (R410). -/
structure ConfigBlock where
  format : Nat
  node : Nat × Nat × Nat
  dims : Nat × Nat × Nat
  pcap : Nat
  mage : Nat
  cethr : Nat
  rbase : Nat
  rsize : Nat
  reservedZero : Bool
deriving DecidableEq, Repr, Inhabited

/-- What a bring-up meets at each of its steps (R424): whether rails and memory come up, the block read, and the control node that asks for the
Uarov session, with the digest of its key (R383). -/
structure BringUpEnv where
  railsOk : Bool
  selfTestOk : Bool
  block : ConfigBlock
  memoryOk : Bool
  control : LinkPeer
  controlKey : BitVec 256
  romDigest : BitVec 256
  fwDigest : BitVec 256
deriving DecidableEq, Repr, Inhabited

/-- The steps of the device, one constructor per row of the operation table. A text word carries its token fields w and g (R19). -/
inductive Instr
  /- control words (R98) -/
  | loop (k : KR) (e : Fin 2048)
  | loopCount (e : Fin 2048) (count : W32)
  | brk (k : KR) (c : Kcc) (l : Fin 8)
  | jmp (o : BitVec 15)
  | brK (k : KR) (c : Kcc) (o : BitVec 9)
  | call (o : BitVec 15)
  | ppoint (t : BitVec 8) (g : BitVec 4)
  /- S words (R99, R100) -/
  | add (w g : Tok) (d a b : XR)
  | addImm (w g : Tok) (d a : XR) (imm : W32)
  | sub (w g : Tok) (d a b : XR)
  | subImm (w g : Tok) (d a : XR) (imm : W32)
  | and (w g : Tok) (d a b : XR)
  | andImm (w g : Tok) (d a : XR) (imm : W32)
  | or (w g : Tok) (d a b : XR)
  | orImm (w g : Tok) (d a : XR) (imm : W32)
  | xor (w g : Tok) (d a b : XR)
  | xorImm (w g : Tok) (d a : XR) (imm : W32)
  | andn (w g : Tok) (d a b : XR)
  | andnImm (w g : Tok) (d a : XR) (imm : W32)
  | shl (w g : Tok) (d a b : XR)
  | shlImm (w g : Tok) (d a : XR) (imm : W32)
  | shr (w g : Tok) (d a b : XR)
  | shrImm (w g : Tok) (d a : XR) (imm : W32)
  | sra (w g : Tok) (d a b : XR)
  | sraImm (w g : Tok) (d a : XR) (imm : W32)
  | mul (w g : Tok) (d a b : XR)
  | mulImm (w g : Tok) (d a : XR) (imm : W32)
  | mulh (w g : Tok) (d a b : XR)
  | mulhImm (w g : Tok) (d a : XR) (imm : W32)
  | div (w g : Tok) (d a b : XR)
  | divImm (w g : Tok) (d a : XR) (imm : W32)
  | rem (w g : Tok) (d a b : XR)
  | remImm (w g : Tok) (d a : XR) (imm : W32)
  | min (w g : Tok) (d a b : XR)
  | minImm (w g : Tok) (d a : XR) (imm : W32)
  | max (w g : Tok) (d a b : XR)
  | maxImm (w g : Tok) (d a : XR) (imm : W32)
  | sel (w g : Tok) (d a b : XR)
  | selImm (w g : Tok) (d a : XR) (imm : W32)
  | li (w g : Tok) (d : XR) (i : BitVec 11)
  | liLong (w g : Tok) (d : XR) (imm : W32)
  | liHi (w g : Tok) (d : XR) (imm : W32)
  | movk (w g : Tok) (a : XR) (k : KR)
  | movkImm (w g : Tok) (k : KR) (imm : W32)
  | movx (w g : Tok) (d : XR) (k : KR)
  | clz (w g : Tok) (d a : XR)
  | popc (w g : Tok) (d a : XR)
  | bfx (w g : Tok) (d a : XR) (wm1 pos : Fin 64)
  | bfi (w g : Tok) (d a : XR) (wm1 pos : Fin 64)
  | cmpEq (w g : Tok) (d a b : XR)
  | cmpEqImm (w g : Tok) (d a : XR) (imm : W32)
  | cmpNe (w g : Tok) (d a b : XR)
  | cmpNeImm (w g : Tok) (d a : XR) (imm : W32)
  | cmpLt (w g : Tok) (d a b : XR)
  | cmpLtImm (w g : Tok) (d a : XR) (imm : W32)
  | cmpGe (w g : Tok) (d a b : XR)
  | cmpGeImm (w g : Tok) (d a : XR) (imm : W32)
  | cmpLtu (w g : Tok) (d a b : XR)
  | cmpLtuImm (w g : Tok) (d a : XR) (imm : W32)
  | cmpGeu (w g : Tok) (d a b : XR)
  | cmpGeuImm (w g : Tok) (d a : XR) (imm : W32)
  | ld (w g : Tok) (d a : XR) (c : Ocl) (z : Sz)
  | ldOffset (w g : Tok) (d a : XR) (c : Ocl) (z : Sz) (off : W32)
  | st (w g : Tok) (d a : XR) (c : Ocl) (z : Sz)
  | stOffset (w g : Tok) (d a : XR) (c : Ocl) (z : Sz) (off : W32)
  | amoAdd (w g : Tok) (d a b : XR) (w32 : Bool)
  | amoAddClass (w g : Tok) (d a b : XR) (w32 : Bool) (c : Ocl)
  | amoFadd (w g : Tok) (d a b : XR)
  | amoFaddClass (w g : Tok) (d a b : XR) (c : Ocl)
  | amoMin (w g : Tok) (d a b : XR) (w32 : Bool)
  | amoMinClass (w g : Tok) (d a b : XR) (w32 : Bool) (c : Ocl)
  | amoMax (w g : Tok) (d a b : XR) (w32 : Bool)
  | amoMaxClass (w g : Tok) (d a b : XR) (w32 : Bool) (c : Ocl)
  | amoFmin (w g : Tok) (d a b : XR)
  | amoFminClass (w g : Tok) (d a b : XR) (c : Ocl)
  | amoFmax (w g : Tok) (d a b : XR)
  | amoFmaxClass (w g : Tok) (d a b : XR) (c : Ocl)
  | amoAnd (w g : Tok) (d a b : XR) (w32 : Bool)
  | amoAndClass (w g : Tok) (d a b : XR) (w32 : Bool) (c : Ocl)
  | amoOr (w g : Tok) (d a b : XR) (w32 : Bool)
  | amoOrClass (w g : Tok) (d a b : XR) (w32 : Bool) (c : Ocl)
  | amoXor (w g : Tok) (d a b : XR) (w32 : Bool)
  | amoXorClass (w g : Tok) (d a b : XR) (w32 : Bool) (c : Ocl)
  | amoSwap (w g : Tok) (d a b : XR) (w32 : Bool)
  | amoSwapClass (w g : Tok) (d a b : XR) (w32 : Bool) (c : Ocl)
  | amoCas (w g : Tok) (d a b : XR) (w32 : Bool)
  | amoCasClass (w g : Tok) (d a b : XR) (w32 : Bool) (c : Ocl)
  | fenceC (w g : Tok) (mask : W16) (scope : Lvl)
  | waitm (w g : Tok) (d a b : XR)
  | waitmLong (w g : Tok) (d a b : XR) (timeout : W32)
  | bar (w g : Tok) (d a : XR) (l : Lvl)
  | barinit (w g : Tok) (d a b : XR)
  | barinitImm (w g : Tok) (d a : XR) (imm : W32)
  | barkill (w g : Tok) (d a : XR)
  | curNext (w g : Tok) (d : XR)
  | tlaunch (w g : Tok) (d a : XR)
  | fmtw (w g : Tok) (a : XR)
  | fmtwImm (w g : Tok) (fw : W32)
  | rmode (w g : Tok) (r : RMode)
  | trap (w g : Tok) (c : BitVec 8)
  | eret (w g : Tok)
  | mfsr (w g : Tok) (d : XR) (n : BitVec 11)
  | mtsr (w g : Tok) (a : XR) (n : BitVec 11)
  | ttbWrite (w g : Tok) (a : XR)
  | nflWrite (w g : Tok) (a : XR)
  | hvecWrite (w g : Tok) (a : XR)
  | bkptWrite (w g : Tok) (a : XR)
  /- firmware writes of privileged registers (R110) -/
  | slipWrite (c : CoreId) (v : W32)
  | precfgWrite (c : CoreId) (v : W32)
  | mctlWrite (die : Fin 4) (v : W32)
  /- A words (R101, R102, R155) -/
  | tld (w g : Tok) (kc : KR) (t : Ctag) (c : Ocl) (seg : Seg) (tid : Fin 256) (dst : DstSel)
  | tst (w g : Tok) (kc : KR) (t : Ctag) (c : Ocl) (seg : Seg) (tid : Fin 256) (src : SrcSel)
  | tcpy (w g : Tok) (kc : KR) (t : Ctag) (c : Ocl) (seg : Seg) (tid tid2 : Fin 256)
  | tcpyo (w g : Tok) (kc : KR) (t : Ctag) (c : Ocl) (tid tid2 : Fin 256)
  | gath (w g : Tok) (ka : KR) (t : Ctag) (c : Ocl) (z : Sz) (irow : RowIx) (dst : DstSel)
  | scat (w g : Tok) (ka : KR) (t : Ctag) (c : Ocl) (z : Sz) (irow : RowIx) (src : SrcSel)
  | spld (w g : Tok) (q : Fin 4) (r : RowIx)
  | spldK (w g : Tok) (q : Fin 4) (r : RowIx) (ken : Bool) (k : KR)
  | spst (w g : Tok) (q : Fin 2) (r : RowIx)
  | spstK (w g : Tok) (q : Fin 2) (r : RowIx) (ken : Bool) (k : KR)
  | tref (w g : Tok) (mb : Bool) (hi : BitVec 13) (lo : W32)
  | aacc (w g : Tok) (ka : KR) (t : Ctag) (c : Ocl) (q : Fin 2)
  | aaccOffset (w g : Tok) (ka : KR) (t : Ctag) (c : Ocl) (q : Fin 2) (off : W32)
  | flushc (w g : Tok)
  | sumst (w g : Tok) (ka : KR) (t : Ctag) (c : Ocl) (q : Fin 4)
  | sumstOffset (w g : Tok) (ka : KR) (t : Ctag) (c : Ocl) (q : Fin 4) (off : W32)
  | waitany (w g : Tok) (half : Bool) (mask : W32)
  | waitanyK (w g : Tok) (km : KR)
  | waitall (w g : Tok) (half : Bool) (mask : W32)
  | waitallK (w g : Tok) (km : KR)
  | ffr (w g : Tok) (half : Bool) (q : Fin 4) (mask : W32)
  | ffrK (w g : Tok) (km : KR) (q : Fin 4)
  | mcast (w g : Tok) (ka : KR) (t : Ctag) (c : Ocl) (q : Fin 2)
  | mcastOffset (w g : Tok) (ka : KR) (t : Ctag) (c : Ocl) (q : Fin 2) (off : W32)
  | pref (w g : Tok) (ka : KR) (t : Ctag) (c : Ocl) (z : Fin 3)
  | prefOffset (w g : Tok) (ka : KR) (t : Ctag) (c : Ocl) (z : Fin 3) (off : W32)
  | shpub (w g : Tok) (tid : Fin 256) (c : Ocl)
  | shinv (w g : Tok) (tid : Fin 256)
  | bind (w g : Tok) (q : Fin 2) (plq : Fin 4) (peer : Fin 128)
  | bindOff (w g : Tok) (q : Release)
  /- V words (R103, R104, R186) -/
  | vadd (w g : Tok) (d a b : VR)
  | vaddImm (w g : Tok) (d a : VR) (imm : W32)
  | vsub (w g : Tok) (d a b : VR)
  | vsubImm (w g : Tok) (d a : VR) (imm : W32)
  | vmul (w g : Tok) (d a b : VR)
  | vmulImm (w g : Tok) (d a : VR) (imm : W32)
  | vfma (w g : Tok) (d a b : VR)
  | vfmaImm (w g : Tok) (d a : VR) (imm : W32)
  | vmin (w g : Tok) (d a b : VR)
  | vminImm (w g : Tok) (d a : VR) (imm : W32)
  | vmax (w g : Tok) (d a b : VR)
  | vmaxImm (w g : Tok) (d a : VR) (imm : W32)
  | vabs (w g : Tok) (d a : VR)
  | vneg (w g : Tok) (d a : VR)
  | vrcp (w g : Tok) (d a : VR)
  | vrsq (w g : Tok) (d a : VR)
  | vexp2 (w g : Tok) (d a : VR)
  | vlog2 (w g : Tok) (d a : VR)
  | vcvt (w g : Tok) (d a : VR) (rm : RMode) (sat : Bool) (tfmt : Fin 10)
  | vpackq (w g : Tok) (d a : VR) (rm : RMode) (sat : Bool) (tfmt : Fin 10)
  | vfxc (w g : Tok) (d a : VR) (rm : RMode) (sat : Bool) (tfmt : Fin 10)
  | vunpq (w g : Tok) (d a : VR)
  | vsel (w g : Tok) (d a b : VR)
  | vand (w g : Tok) (d a b : VR)
  | vandImm (w g : Tok) (d a : VR) (imm : W32)
  | vor (w g : Tok) (d a b : VR)
  | vorImm (w g : Tok) (d a : VR) (imm : W32)
  | vxor (w g : Tok) (d a b : VR)
  | vxorImm (w g : Tok) (d a : VR) (imm : W32)
  | vshl (w g : Tok) (d a b : VR)
  | vshlImm (w g : Tok) (d a : VR) (imm : W32)
  | vshr (w g : Tok) (d a b : VR)
  | vshrImm (w g : Tok) (d a : VR) (imm : W32)
  | viadd (w g : Tok) (d a b : VR)
  | viaddImm (w g : Tok) (d a : VR) (imm : W32)
  | vimul (w g : Tok) (d a b : VR)
  | vimulImm (w g : Tok) (d a : VR) (imm : W32)
  | vbcast (w g : Tok) (d a : VR) (n : Fin 64)
  | vperm (w g : Tok) (d a b : VR)
  | vshuf (w g : Tok) (d a b : VR)
  | vred (w g : Tok) (d a : VR) (bc : Bool) (o : RedOp)
  | vscan (w g : Tok) (d a : VR) (exc : Bool) (o : RedOp)
  | vnorm (w g : Tok) (d a : VR) (e : Fin 16) (k : NormKind)
  | vsmax (w g : Tok) (d a : VR)
  | vcmpEq (w g : Tok) (d a b : VR)
  | vcmpEqImm (w g : Tok) (d a : VR) (imm : W32)
  | vcmpNe (w g : Tok) (d a b : VR)
  | vcmpNeImm (w g : Tok) (d a : VR) (imm : W32)
  | vcmpLt (w g : Tok) (d a b : VR)
  | vcmpLtImm (w g : Tok) (d a : VR) (imm : W32)
  | vcmpLe (w g : Tok) (d a b : VR)
  | vcmpLeImm (w g : Tok) (d a : VR) (imm : W32)
  | vcmpGt (w g : Tok) (d a b : VR)
  | vcmpGtImm (w g : Tok) (d a : VR) (imm : W32)
  | vcmpGe (w g : Tok) (d a b : VR)
  | vcmpGeImm (w g : Tok) (d a : VR) (imm : W32)
  | vcmpUn (w g : Tok) (d a b : VR)
  | vcmpUnImm (w g : Tok) (d a : VR) (imm : W32)
  | vpop (w g : Tok) (d : VR) (q : Fin 4)
  | vpush (w g : Tok) (a : VR) (q : Fin 2)
  | vaccrd (w g : Tok) (d : VR) (c : AccR) (r : Fin 128) (hi : Bool)
  | vaccrdK (w g : Tok) (d : VR) (c : AccR) (r : Fin 128) (hi : Bool) (ken : Bool) (k : KR)
  | vaccwr (w g : Tok) (a : VR) (c : AccR) (r : Fin 128) (hi : Bool)
  | vaccwrK (w g : Tok) (a : VR) (c : AccR) (r : Fin 128) (hi : Bool) (ken : Bool) (k : KR)
  | vsetsh (w g : Tok) (v : W32)
  | vidx (w g : Tok) (d : VR) (seg : Bool)
  /- M words (R105) -/
  | mma (w g : Tok)
  | mmaStamp (w g : Tok) (t : W32)
  | mmat (w g : Tok)
  | mmatStamp (w g : Tok) (t : W32)
  | mzero (w g : Tok) (c : AccR)
  | mload (w g : Tok) (c : AccR) (r : RowIx)
  | msave (w g : Tok) (c : AccR) (r : RowIx)
  | mprog (w g : Tok) (c : AccR)
  /- P words (R106, R234) -/
  | pbuild (w g : Tok) (ka : KR) (slot : Fin 8)
  | psend (w g : Tok) (bc : BcR) (ben : Bool) (slot : Fin 8)
  | pcountWait (w g : Tok) (ka : KR) (bc : BcR)
  | pcountWaitImm (w g : Tok) (bc : BcR) (t : W32)
  | pcountRd (w g : Tok) (bc : BcR) (clr : Bool)
  | precv (w g : Tok) (ka : KR)
  | pcoll (w g : Tok) (ka : KR)
  | pparkRd (w g : Tok) (ka : KR) (slot : BitVec 8)
  | presume (w g : Tok) (slot : BitVec 8)
  | presumeOptions (w g : Tok) (ka : KR) (slot : BitVec 8) (addb : BitVec 8) (npc : Fin 16) (newpc loadw : Bool)
  | pdrop (w g : Tok) (slot : BitVec 8)
  /- errand instructions (R245) -/
  | errandPushi (i : BitVec 11)
  | errandPushw (n : Fin 4)
  | errandPopw (n : Fin 4)
  | ctrRd (n : Fin 2048)
  | ctrAdd (n : Fin 2048)
  | ctrTest (n : Fin 2048)
  | scrRd (o : Fin 2048)
  | scrAdd (o : Fin 2048)
  | scrCas (o : Fin 2048)
  | clone (k : BitVec 8)
  | dir (p : Fin 6)
  | jz (o : Fin 16)
  | jnz (o : Fin 16)
  | park (c : BitVec 8)
  /- events a step turns to by itself -/
  | illegalWord (r : Reject)
  | poisonedRead (c : CoreId) (hpa : Nat)
  | breakpointHit (c : CoreId)
  | stampIssue (c : CoreId)
  /- commands (R379) -/
  | partCreate (h : CmdHdr) (sites : List Nat) (colours : List GrantReq) (qos : W32) (quantum : Nat) (isSealed : Bool)
  | partDestroy (h : CmdHdr)
  | partResize (h : CmdHdr) (add remove : List Nat) (colours : List GrantReq)
  | partLimits (h : CmdHdr) (l : Limits)
  | partGate (h : CmdHdr)
  | partGen (h : CmdHdr)
  | vfAssign (h : CmdHdr) (vfn part weight : Nat) (s2root : Option Nat) (trapBase sz : Nat)
  | vfReset (h : CmdHdr) (unassign : Bool)
  | vfWeight (h : CmdHdr) (weight : Nat)
  | vfS1root (h : CmdHdr) (v : W64)
  | progLoad (h : CmdHdr) (gpa off : Nat) (img : List Byte) (last : Bool) (frame : Option Nat)
  | taskLaunch (h : CmdHdr) (addr : Nat)
  | taskCancel (h : CmdHdr) (addr : Nat)
  | memRead (h : CmdHdr) (gpa len : Nat)
  | memWrite (h : CmdHdr) (gpa : Nat) (data : List Byte)
  | ctxResume (h : CmdHdr) (core : Nat)
  | pageReply (h : CmdHdr) (recs : List PageReplyRec)
  | migStart (h : CmdHdr) (w0 w1 : W64)
  | migStop (h : CmdHdr)
  | evidence (h : CmdHdr) (nonce : BitVec 256) (scope : EvScope)
  | labelSet (h : CmdHdr) (label : Nat) (digest : BitVec 256)
  | stileInstall (h : CmdHdr) (r : PolicyRec)
  | stileRevoke (h : CmdHdr) (policyId : Nat)
  | rotaSet (h : CmdHdr) (cores : List Nat) (start : W64) (entries : List RotaEntry)
  | slotReserve (h : CmdHdr) (group : W64) (count : Nat)
  | slotRelease (h : CmdHdr) (group : W64)
  | replayArm (h : CmdHdr) (r : ReplayArmReq)
  | replayDump (h : CmdHdr)
  | spareSwap (h : CmdHdr) (r : SwapReq)
  | telemetryRead (h : CmdHdr) (block first last : Nat)
  | trustAnchor (h : CmdHdr) (digests : List (BitVec 256))
  /- events of the dispatcher and the cores (R26 to R52) -/
  | taskRecordCheck (vf : Nat)
  | taskStart (vf : Nat)
  | jobHandout (c : CoreId)
  | taskCompletion (task : Nat)
  | deficitExhausted (vf : Nat)
  | softRequestArrival (c : CoreId)
  | graceExpiry (c : CoreId)
  | killExpiry (c : CoreId)
  | contextSave (c : CoreId)
  | contextResume (task : Nat)
  | contextStop (c : CoreId)
  | mutualStall (c : CoreId)
  /- events of ports and homes -/
  | copyCompletion (c : CoreId)
  | homeApply (c : CoreId) (i : Nat)
  | aaccArrival (i : Nat)
  | aaccApply (slice : Nat)
  | quotaWindowStart
  | heldPacketEntry (slice : Nat)
  | refusalReceipt (i : Nat)
  | carryResend (c : CoreId) (entry : Nat)
  | sliceService (slice : Nat)
  | monitorEvent (c : CoreId) (e : MonEvent)
  | monitorTimeout (c : CoreId)
  | mcastTargetWrite (i : Nat)
  | kstep (c : CoreId)
  | boundEntryArrival (i : Nat)
  /- events of the Crossroads and the collective engine -/
  | crossroadsEntry (i : Nat)
  | packetHop (i : Nat)
  | escapeTimeout (i : Nat)
  | stuckTimeout (i : Nat)
  | packetDelivery (i : Nat)
  | parkArrival (i : Nat)
  | combineArrival (i : Nat)
  | reservationRequest (r : Nat)
  | slotGrant
  | slotFreeNotice (i : Nat)
  | leaseExpiry (r : Nat)
  | collectivePlanning (vf : Nat)
  | collectiveStep (vf : Nat)
  | collectiveEnd (vf : Nat)
  /- events of the Commons die -/
  | pageRecordEnqueue (vf : Nat)
  | scrubComplete (part : Nat)
  | ungate (part : Nat)
  | frameEdge (c : CoreId)
  | sealWindow (c : CoreId)
  | linkTraining (port : Fin 6) (peer : LinkPeer)
  | flitTagFailure (port : Fin 6)
  | flitCountKeyUpdate (port : Fin 6)
  | heartbeatMissed (port : Fin 6)
  | linkRetry (port : Fin 6) (peer : LinkPeer)
  | managementWatchdog (core : Fin 6)
  | eccCorrection (u : Nat)
  | uncorrectableError (u : ErrUnit)
  | powerStep (watts : Nat)
  | thermalThrottle (sensor : Sensor) (temp : Nat)
  | thermalShutdown (sensor : Option Sensor) (value : Nat)
  | coolantFlowLow (flow : Nat)
  | bringUp (env : BringUpEnv)
  | replayDivergence
  | meshArbitration (die stop : Nat) (port : Fin 6)
  | ringInsertion (die station lane : Nat)
  | mWordFinish (c : CoreId)
  | dispatcherRound (part : Nat)
  | throttleRelease (sensor : Sensor) (temp : Nat)
  | bankGroupMapChange (c : CoreId) (perm : List Nat)
  /- control words without operands (R98) -/
  | endl
  | ret
  | nopa
  | halt
  | jobnext
  /- errand instructions without operands (R245) -/
  | errandDup | errandSwap | errandDrop
  | errandAdd | errandSub | errandAnd | errandOr | errandXor | errandShl | errandShr
  | errandCmpeq | errandCmplt
  | dirPop | dirmin | dirload
  | bud
  | deliv | dropk | fwd
deriving DecidableEq, Repr, Inhabited

end Sys2Proof
end

