-- ==== Sys2Proof/Machine/Types.lean ====
section
/-! DEFINITION. The plain data the machine is made of: earmarks, tagged values, engines, queues, port commands, matrix
operations, packets, tasks, partitions, virtual functions and the device's own units. -/

namespace Sys2Proof.Machine

/-- A table by key in canonical form: keys strictly rising, no entry equal to what an unlisted key reads as. -/
abbrev Sparse (α : Type) := List (Nat × α)

/-- An earmark in canonical form (R283): the non-zero labels ascending, at most four, and the overflow bit. -/
structure Mark where
  labels : List Nat
  ovf : Bool
deriving DecidableEq, Repr, Inhabited

/-- The empty earmark. -/
def Mark.empty : Mark := ⟨[], false⟩

/-- A value with the generation and the earmark it carries (R22, R24). -/
structure Tagged (α : Type) where
  val : α
  gen : Gen
  mark : Mark
deriving DecidableEq, Repr, Inhabited

/-- An entry of LQ0 to LQ3, SQ0 and SQ1, a scratchpad row, a vector register (R22, R24). -/
abbrev QEntry := Tagged Row

/-! ### Faults -/

/-- Cause codes (R44). -/
inductive Cause
  | illegal | illegalTag | privilege | mutualStall | fqUnderflow | bankConflict | scheduleMiss | boundary | queueBound
  | frameOverrun | stage1 | stage2 | permission | reservedBit | integrity | align
deriving DecidableEq, Repr, Inhabited

/-- A page miss of a faulting access: what its page record will say (R344). -/
structure PageMiss where
  event : Bool
  gpa : Nat
  va : W64
  write : Bool
  table : Bool
  tens : Bool
  level : Nat
  page : Nat
deriving DecidableEq, Repr, Inhabited

/-- A fault raised by an engine and not yet recorded (R41, R42), with the page records it raises. -/
structure FaultRec where
  cause : Cause
  eng : Engine
  textix : Nat
  six : W32
  istatus : W64
  addr : W64
  handler : Bool
  pages : List PageMiss
deriving DecidableEq, Repr, Inhabited

/-! ### Engines -/

/-- Blocking reasons 0 to 16 (R43). -/
inductive Block
  | running | tokenWait | tokenFull | dataEmpty | dataFull | slip | journal | copyTag | monitor | barrier | jobnext | port
  | bead | atHalt | faulted | credit | kAhead
deriving DecidableEq, Repr, Inhabited

/-- An entry of a loop stack (R117). -/
inductive Frame
  | loop (body fin : Nat) (left : W32)
  | call (back : Nat)
deriving DecidableEq, Repr, Inhabited

/-- The control state of one engine: text index, stream index, loop stack, blocking reason, whether its word has popped its
wait token, whether its word has finished but for its signal, and whether it stopped at a taken PPOINT (R14, R19, R43, R47, R117). -/
structure Eng where
  pc : Nat
  six : W32
  stack : List Frame
  blk : Block
  popped : Bool
  done : Bool
  atPoint : Bool
  /-- The word was let past an armed breakpoint (R369, R374). -/
  seen : Bool
  /-- Something has changed since the engine blocked: it looks at its word again on its turn. -/
  look : Bool
deriving DecidableEq, Repr, Inhabited

def Eng.init : Eng := ⟨0, 0, [], .running, false, false, false, false, false⟩

/-- What a journal entry writes: a K register, or TTB (R17, R270). -/
inductive JVal
  | k (r : KR) (v : Tagged W32)
  | ttb (v : W64)
deriving DecidableEq, Repr, Inhabited

/-- A K journal entry: the stream index of the write, and the write (R17). -/
structure JEntry where
  pos : W32
  val : JVal
deriving DecidableEq, Repr, Inhabited

/-- A PPOINT passed: its stream index, live tiles and live groups (R46). -/
structure PPoint where
  pos : W32
  tiles : BitVec 8
  groups : BitVec 4
deriving DecidableEq, Repr, Inhabited

/-- The answer to a JOBNEXT at a stream index: the job given, or none (R31). -/
structure JobGive where
  pos : W32
  job : Option Nat
deriving DecidableEq, Repr, Inhabited

/-! ### Queue bindings (R23, R180) -/

/-- A store queue bound to a peer's load queue: the peer, its queue, and the credits left. -/
structure Binding where
  peer : Nat
  plq : Fin 4
  credits : Nat
deriving DecidableEq, Repr, Inhabited

/-- A load queue bound from a peer: the peer and its store queue. -/
structure BoundFrom where
  peer : Nat
  sq : Fin 2
deriving DecidableEq, Repr, Inhabited

/-! ### Packets (R226 to R228) -/

/-- A torus packet. -/
structure Packet where
  dst : Nat
  src : Nat
  tc : Nat
  vc : Nat
  esc : Bool
  part : Nat
  vfn : Nat
  mark : Mark
  budget : Nat
  visits : Nat
  clone : Bool
  cld : Nat
  msg : Bool
  w : Vector W32 4
  /-- The four places of the stack, bottom first, and its depth. -/
  places : Vector W32 4
  sp : Nat
  /-- The next errand instruction; 16 while a lane stands past the last one. -/
  pc : Nat
  next : Nat
  nv : Bool
  /-- The direction of the last hop, 6 at the source (R230). -/
  came : Nat
  nbead : Nat
  gen : Gen
  score : Nat
  dcore : Nat
  dbead : Nat
  daddr : W64
  code : Option (List W16)
  payload : List Byte
deriving DecidableEq, Repr, Inhabited

/-! ### The port -/

/-- Where an access lands: a byte address of memory with the frame that keeps its page's earmark (R336), or a byte of a scratchpad
row of a core of the die (R254). -/
inductive Loc
  | mem (hpa frame : Nat)
  | win (core row off : Nat)
deriving DecidableEq, Repr, Inhabited

/-- Where a copy puts a row: a scratchpad row, or a load queue. -/
inductive PDst
  | row (r : Nat)
  | lq (q : Fin 4)
deriving DecidableEq, Repr, Inhabited

/-- One access of a port command that its home has still to apply, with the earmark the data takes on besides its own. -/
inductive Micro
  /-- 256 bytes of memory into a row or a load queue (R158). -/
  | load (hpa frame : Nat) (dst : PDst) (mark : Mark)
  /-- A zero row or entry (R158). -/
  | zero (dst : PDst) (mark : Mark)
  /-- Data already read, on its way into a row or a load queue (R159). -/
  | put (dst : PDst) (d : Row) (mark : Mark)
  /-- A scratchpad row into memory (R158). -/
  | storeRow (r : Nat) (hpa frame : Nat) (mark : Mark)
  /-- A popped entry into memory (R158). -/
  | storeData (d : QEntry) (hpa frame : Nat) (mark : Mark)
  /-- n bytes of memory into memory: a TCPY row, or a TCPYO line with whether the page's earmark is replaced (R158, R160). -/
  | copy (src sframe dst dframe n : Nat) (mark : Mark) (replace : Bool)
  /-- Element i of a GATH into the buffer (R165). -/
  | elemLoad (i sz : Nat) (loc : Loc)
  /-- Element i of a SCAT out of the buffer (R165). -/
  | elemStore (i sz : Nat) (loc : Loc)
  /-- The buffer of a GATH, written or pushed once, whole (R165). -/
  | gathEnd (dst : PDst)
  /-- The bytes of an S store (R129). -/
  | store (loc : Loc) (bytes : List Byte) (mark : Mark)
  /-- The saturation flags of the 4 KiB pieces of a SUMST, each with its frame and whether it is a sum region (R177). -/
  | sumFlags (pages : List (Nat × Nat × Bool)) (q : Fin 4)
  /-- A prefetch of bytes at an address (R179). -/
  | prefetch (hpa n : Nat)
  /-- An accumulate on its way, by its number, with the bytes it is for, and whether it has been refused and is carried (R170, R173). -/
  | away (id hpa n : Nat) (carried : Bool)
  /-- A multicast on its way, by its number, with the row and the cores of this module it is for (R178). -/
  | cast (id row : Nat) (cores : List Nat)
  /-- A PSEND the port has accepted: its slot, the packet with the beats read so far, the bead counter it adds to, and where the beats still to be read
  lie (R238). -/
  | send (slot : Fin 8) (p : Packet) (bc : Option BcR) (todo : List (Nat × Nat))
deriving DecidableEq, Repr, Inhabited

/-- A command or store the port has accepted and whose accesses have not all been applied (R126, R147); `sent` once its last request
has gone to the ring. -/
structure Pend where
  eng : Engine
  cls : Ocl
  gen : Gen
  tag : Option Ctag
  ops : List Micro
  buf : Row
  mark : Mark
  sent : Bool
deriving DecidableEq, Repr, Inhabited

/-- A carry entry with its descriptor (R173 to R175): 256 bytes, the descriptor's fields, the earmark of the addend and the
cycle at which its retry timer runs out. -/
structure CarryEntry where
  data : Row
  valid : Bool
  busy : Bool
  fx : Bool
  pair2 : Bool
  tries : Nat
  cls : Ocl
  satf : Nat
  hpa : Nat
  tags : List Ctag
  mark : Mark
  timer : Option W64
  /-- The frame that keeps the page's earmark. -/
  frame : Nat
  /-- Reserved by an AACC to a reduction window (R294), and the reservation whose credit that AACC spent (R297). -/
  red : Bool
  credit : Option Nat
  /-- The generation of the addend (R9, R267), and the number of its AACC. -/
  gen : Gen
  id : Nat
deriving DecidableEq, Repr, Inhabited

def CarryEntry.free : CarryEntry := ⟨0, false, false, false, false, 0, 0, 0, 0, [], ⟨[], false⟩, none, 0, false, none, 0, 0⟩

/-- A collective among its members (R302): the partition and the function that post it, the group, and which block of the group it is, counted on
every member from its first. -/
structure CollKey where
  part : Nat
  vfn : Nat
  group : Nat
  seq : Nat
deriving DecidableEq, Repr, Inhabited
/-- What a combining slot has to know of a collective's packets: the collective, its phase, the piece, the format and the reduction (R292, R303). -/
structure CollTag where
  key : CollKey
  phase : Nat
  piece : Nat
  dtype : Nat
  red : Nat
deriving DecidableEq, Repr, Inhabited

/-- The key of a combining slot and of the packets that may meet in it (R291): partition, group, home node and function, block at the
home, and the scale when the lanes are FX64. -/
structure RedKey where
  part : Nat
  group : Nat
  home : Nat
  hvf : Nat
  gpa : Nat
  scale : Option Int
  /-- The collective whose data the packets carry; none for AACCs (R303). -/
  coll : Option CollTag
deriving DecidableEq, Repr, Inhabited

/-- Who an accumulate came from: the node, the core within its partition, the copy tag, and the number of the AACC there (R291, R294). -/
structure TagNote where
  node : Nat
  core : CoreId
  tag : Ctag
  id : Nat
deriving DecidableEq, Repr, Inhabited

/-- An accumulate packet (R170, R290): 64 lanes, FP32 or FX64, and what travels with them. -/
structure AaccPkt where
  core : CoreId
  gen : Gen
  cls : Ocl
  hpa : Nat
  frame : Nat
  fx : Bool
  lanes : List W64
  tries : Nat
  satf : Nat
  tags : List TagNote
  mark : Mark
  carryIx : Option Nat
  red : Option RedKey
  /-- The port it came over and its dateline class, once it has left a module (R230). -/
  hop : Option (Nat × Nat)
  /-- The reservation whose credit sent it, or whose slot did; none for an AACC sent without a credit (R293, R297). -/
  resv : Option Nat
deriving DecidableEq, Repr, Inhabited

/-- An MCAST row on its way to the members of one die, or of another module (R178): its number, where it comes from and goes to, the
entry, the row, the members, and the cycle in which it is written, once its port has issued it. -/
structure McastPkt where
  id : Nat
  fromNode : Nat
  node : Nat
  die : Nat
  src : CoreId
  gen : Gen
  cls : Ocl
  data : Row
  mark : Mark
  row : Nat
  members : List Nat
  due : Option W64
deriving DecidableEq, Repr, Inhabited

/-- A combined translation or a stage-2 translation held by a port (R338). -/
structure TcEntry where
  vf : Nat
  /-- Stage-2 only (a table page), or combined. -/
  s2only : Bool
  base : Nat
  size : Nat
  hpa : Nat
  w1 : Bool
  w2 : Bool
  dirty : Bool
  sum : Bool
  scale : Int
  /-- Where the stage-2 leaf stands, for its D bit. -/
  leafAt : Nat
  leafBig : Bool
  gpaPage : Nat
  /-- The descriptor of a window leaf, as its 128 bytes. -/
  desc : Option (List Byte)
  kind : Nat
deriving DecidableEq, Repr, Inhabited

/-- A walk-cache entry: a table entry of one level, tagged by the address bits that led to it (R338). -/
structure WalkEntry where
  vf : Nat
  level : Nat
  tagBits : Nat
  next : Nat
deriving DecidableEq, Repr, Inhabited

/-- A shape record, its boundary windows, its tensor-table entry and its tile-table entries, as a port caches them (R162, R278). -/
structure ShapeEntry where
  tid : Nat
  entry : List Byte
  record : List Byte
  windows : List (Nat × List Byte × Mark)
  tiles : List (Nat × W64 × Mark)
  mark : Mark
deriving DecidableEq, Repr, Inhabited

/-- A tensor as its entry and record describe it, with the earmark of their pages (R271, R272). -/
structure Tensor where
  tid : Nat
  fmt : Nat
  rank : Nat
  brows : Nat
  ragged : Bool
  ext : List Nat
  pitch0 : Nat
  nseg : Nat
  btab : Nat
  ttab : Nat
  ntile : Nat
  mark : Mark
deriving DecidableEq, Repr, Inhabited

/-- A copy as it was issued (R162): its tensors, the linear rows of its block in each, none for an outside row, and the earmark of the K
registers and of what was read for the plan. -/
structure Plan where
  t : Tensor
  u : Tensor
  rows : List (Option (Int × Int))
  mark : Mark
deriving DecidableEq, Repr, Inhabited

/-- The line an S load may take its bytes from although it has been read early (R130): where it lies, its bytes and its page's earmark, and
the classes whose order still allows it. -/
structure EarlyLine where
  line : Nat
  bytes : List Byte
  mark : Mark
  gen : Gen
  classes : Nat
deriving DecidableEq, Repr, Inhabited

/-- The buffer of the command at A's current word: the entries a TST has popped, or the buffer and done mask of a GATH or SCAT
that faulted (R53, R159, R167); the plan of a copy that faulted after it was accepted (R161, R162); the entry an FFR has still to push
(R156). -/
structure ABuf where
  /-- The command was accepted before it faulted, so its tag is counted (R161). -/
  counted : Bool
  popped : List QEntry
  buf : Row
  mark : Mark
  done : W64
  plan : Option Plan
deriving DecidableEq, Repr, Inhabited

/-! ### The matrix engine -/

/-- A tile of accumulators: its half rows, 2m and 2m + 1 holding row m, and what it carries (R24, R219). -/
structure AccTile where
  rows : Sparse Row
  gen : Gen
  mark : Mark
  kcount : W32
deriving DecidableEq, Repr, Inhabited

def AccTile.init : AccTile := ⟨[], 0, ⟨[], false⟩, 0⟩

/-- An MMA or MMAT issued and not finished (R213, R221): what it popped, its mode, its progress, its issue cycle, its flags, the
signal it pushes when it finishes, the K-step a hard stop lets it reach, and the rows read for the K-steps whose results are still to come,
by K-step (R215, R216). -/
structure MatOp where
  trans : Bool
  fw : W32
  fwMark : Mark
  ra : W64
  rb : W64
  mode : RMode
  steps : Nat
  kdone : Nat
  issue : W64
  minv : Bool
  qinv : Bool
  sig : Tok
  stopAt : Nat
  rows : List (Nat × Sparse QEntry)
deriving DecidableEq, Repr, Inhabited

/-- MZERO, MLOAD, MSAVE or MPROG started and not finished (R215). -/
inductive MWord
  | zero (c : AccR)
  | load (c : AccR) (r : Nat)
  | save (c : AccR) (r : Nat)
  | prog (c : AccR)
deriving DecidableEq, Repr, Inhabited

/-! ### Waits of S (R134, R136) -/

structure WaitmState where
  hpa : Nat
  deadline : Option W64
  mark : Mark
  status : Option Nat
deriving DecidableEq, Repr, Inhabited

structure BarState where
  hpa : Nat
  /-- The frame that keeps the earmark of the object's page. -/
  frame : Nat
  gen : W32
  mark : Mark
  status : Option (Nat × W32)
  /-- A stop has found it waiting: it reads the object again when its context goes on (R138). -/
  again : Bool
deriving DecidableEq, Repr, Inhabited

/-! ### Staging and parking (R237, R248) -/

/-- A staging slot of P: the packet its template gave, and the address of its payload (R237). -/
structure Staged where
  pkt : Packet
  beats : Nat
  payaddr : W64
deriving DecidableEq, Repr, Inhabited

/-- Park reasons (R248). -/
inductive ParkReason
  | budget | forbid | stack | endcode | illegal | range | clonedepth | user (c : BitVec 8) | group | link | stuck
deriving DecidableEq, Repr, Inhabited

/-- A parked packet: why, where, and the GCC at the park (R248, R249); on its way home, the port of its last hop and that hop's dateline
class (R230). -/
structure ParkedPkt where
  pkt : Packet
  reason : ParkReason
  node : Nat
  gcc : W32
  hop : Option (Nat × Nat)
deriving DecidableEq, Repr, Inhabited

/-- A slot of the park bay: its packet, its place in the order of parking, the cores that have read its record, whether it is being resumed. -/
structure ParkSlot where
  p : ParkedPkt
  order : Nat
  read : List Nat
  busy : Bool
deriving DecidableEq, Repr, Inhabited

/-- A packet on a lane, with the clone that waits for its visit to end (R246). -/
structure LaneJob where
  pkt : Packet
  clones : List Packet
  fromSlot : Option Nat
deriving DecidableEq, Repr, Inhabited

/-- A packet waiting for a credit toward a port: since which cycle, and whether it is a park's return home (R232, R248). -/
structure TxPkt where
  pkt : Packet
  port : Nat
  since : W64
  back : Option ParkedPkt
deriving DecidableEq, Repr, Inhabited

/-! ### Combining slots and collectives (R291 to R306) -/

structure Slot where
  part : Nat
  group : Nat
  expect : Nat
  gen : Gen
  key : Option RedKey
  fx : Bool
  got : Nat
  sum : List W64
  satf : Nat
  mark : Mark
  tags : List TagNote
deriving DecidableEq, Repr, Inhabited

/-- A reservation held at this Crossroads: its slots, and its lease, none for SLOT.RESERVE (R295, R299, R314). -/
structure Reservation where
  id : Nat
  part : Nat
  vf : Nat
  group : Nat
  slots : List Nat
  leased : Bool
deriving DecidableEq, Repr, Inhabited

/-- A request for slots waiting at this Crossroads, with its stamp and the home its tree leads to (R296). -/
structure SlotReq where
  id : Nat
  stamp : W64
  part : Nat
  vf : Nat
  group : Nat
  count : Nat
  home : Nat
  leased : Bool
  /-- The one slot of a line, which stands at its home alone (R303). -/
  line : Bool
deriving DecidableEq, Repr, Inhabited

/-- What the collective engine of this module has asked for along a group's tree (R295): its slots per Crossroads, the nodes that
have granted it, the node where it waits, and its lease. -/
structure Booking where
  id : Nat
  part : Nat
  vf : Nat
  group : Nat
  count : Nat
  home : Nat
  granted : List Nat
  waitAt : Option Nat
  leased : Bool
  /-- Whether it asks for the one slot of a line, at its home alone (R303). -/
  line : Bool
  /-- The real time at which its lease ends (R3, R299). -/
  deadline : Nat
deriving DecidableEq, Repr, Inhabited

/-- The block of a collective as PCOLL accepted it (R300), with its ticket, its place among its members' collectives and where its STATUS goes. -/
structure CollBlock where
  ticket : W32
  key : CollKey
  core : CoreId
  addr : W64
  op : Nat
  dtype : Nat
  red : Nat
  algo : Nat
  fallback : Nat
  nslot : Nat
  bead : Nat
  root : Nat
  group : W64
  members : List Nat
  send : W64
  recv : W64
  count : Nat
deriving DecidableEq, Repr, Inhabited

/-- A piece of a collective's data: a range of bytes. -/
structure Piece where
  off : Nat
  len : Nat
deriving DecidableEq, Repr, Inhabited
/-- What a member does for a collective, in order (R303). -/
inductive CollAct
  /-- Wait for the reservation of a phase, whose tree leads to a home among some members (R295). -/
  | book (phase home : Nat) (nodes : List Nat)
  /-- A step: a piece of the partial result goes to other members. -/
  | send (phase : Nat) (dsts : List Nat) (p : Piece)
  /-- A step: a piece goes through the combining slots toward a home. -/
  | up (phase home : Nat) (nodes : List Nat) (p : Piece)
  /-- A step: a piece of SEND goes to other members. -/
  | fwd (dsts : List Nat) (p : Piece)
  /-- Wait for a piece of a member and combine it with one's own, one's own first or second. -/
  | fold (phase src : Nat) (p : Piece) (mineFirst : Bool)
  /-- Wait for a piece of a member, which takes the place of one's own. -/
  | take (phase src : Nat) (p : Piece)
  /-- Wait at the home of a phase for the contributions of n members to a piece. -/
  | gather (phase n : Nat) (p : Piece)
  /-- A piece of the result is written to RECV. -/
  | store (p : Piece) (off : Nat)
  /-- Wait for a piece of a member's SEND and write it to RECV. -/
  | put (src : Nat) (p : Piece) (off : Nat)
  /-- A piece of SEND is written to RECV. -/
  | copy (p : Piece) (off : Nat)
  /-- Every member has done what is its own to do (R304, R306). -/
  | sync
deriving DecidableEq, Repr, Inhabited
/-- A piece of the partial result as the engine holds it: its bytes, their earmark, and its 128-byte lines in which a sum has saturated,
ascending. -/
structure Work where
  data : List Byte
  mark : Mark
  sat : List Nat
deriving DecidableEq, Repr, Inhabited
/-- Where a collective of this module stands: planned or not, the algorithm, whether it is the fallback, its bookings by phase, the reservations that
stand by phase and home, how far it is in what it does, the steps issued, whether a member has issued the first, the partial results, the members known to
have done what is theirs, the pages its step waits for, and the outcome once it has one (R295, R298, R302 to R306). -/
structure Coll where
  blk : CollBlock
  planned : Bool
  algo : Nat
  fellBack : Bool
  bookings : List (Nat × Nat)
  booked : List (Nat × Nat)
  pos : Nat
  step : Nat
  begun : Bool
  work : List (Nat × Work)
  finished : List Nat
  misses : List Nat
  outcome : Option Nat
deriving DecidableEq, Repr, Inhabited

/-- A paired block that another member posted (R302): its node and the fields that must agree. -/
structure PeerBlock where
  node : Nat
  key : CollKey
  op : Nat
  dtype : Nat
  red : Nat
  algo : Nat
  fallback : Nat
  nslot : Nat
  root : Nat
  count : Nat
deriving DecidableEq, Repr, Inhabited

/-- A chunk from one member to another: which piece of its sender's data, and the piece (R303). -/
structure Chunk where
  src : Nat
  dst : Nat
  key : CollKey
  phase : Nat
  piece : Nat
  work : Work
deriving DecidableEq, Repr, Inhabited

/-- What a Crossroads or a collective engine sends another (R178, R294 to R299, R302 to R306). -/
inductive Note
  /-- A multicast row for cores of the module it goes to (R178). -/
  | row (p : McastPkt)
  /-- A chunk of a collective's step (R303). -/
  | chunk (c : Chunk)
  /-- Completion notice of a reduction packet applied on its home module. -/
  | done (tags : List TagNote)
  /-- A multicast row has been written. -/
  | written (core : CoreId) (id node : Nat)
  /-- A request for slots, its release, and its answer by a node: 0 waits, 1 granted, 2 refused. -/
  | ask (q : SlotReq)
  | drop (id : Nat)
  | answer (id node a : Nat)
  /-- A slot has forwarded a sum that this module contributed to (R297). -/
  | slotFree
  /-- A block posted, a collective failed with an outcome, a phase whose reservation stands toward a home, the fallback taken, a member that has done
  what is its own, and a step issued or else a request granted, which restarts the leases (R299). -/
  | posted (b : PeerBlock)
  | failed (k : CollKey) (outcome : Nat)
  | booked (k : CollKey) (phase home : Nat)
  | replan (k : CollKey)
  | finished (k : CollKey) (node : Nat)
  | alive (k : CollKey) (step : Bool)
deriving DecidableEq, Repr, Inhabited
/-- A note on its way to a node: the port of its last hop and that hop's dateline class. Notes travel on the escape class (R230). -/
structure NotePkt where
  dst : Nat
  note : Note
  hop : Option (Nat × Nat)
deriving DecidableEq, Repr, Inhabited

/-! ### Tasks (R26 to R33) -/

structure Level where
  lo : Int
  hi : Int
  step : Int
deriving DecidableEq, Repr, Inhabited

/-- A task record and its nest record as the dispatcher read them (R26, R27). -/
structure TaskRec where
  addr : W64
  text : W64
  param : W64
  cores : Nat
  prio : Nat
  persist : Bool
  sigCtr : W32
  sigAdd : W32
  waits : List (W32 × W32)
  group : W64
  /-- Where the descriptor of the GROUP window stands, plus 1; 0 for none (R35, R333). -/
  window : Nat
  static : Bool
  order : List Nat
  levels : List Level
deriving DecidableEq, Repr, Inhabited

/-- A place of a launch queue: the record's address, and the record once checked (R34). -/
structure Launch where
  addr : W64
  checked : Option TaskRec
  /-- Its place in the order in which the function's tasks were launched (R36). -/
  age : Nat
deriving DecidableEq, Repr, Inhabited

/-- How a core of a task stands: running a job, halted and waiting for one, or released (R32). -/
inductive Seat | running | waiting | released
deriving DecidableEq, Repr, Inhabited

/-- A started task (R28 to R33). -/
structure Task where
  id : Nat
  vf : Nat
  part : Nat
  r : TaskRec
  jobs : Nat
  nextJob : Nat
  cores : List (Nat × Seat)
  /-- DOMC, DOMH, DOMD, DOMM and DOMG of each core, fixed at the start (R35). -/
  doms : List (Nat × Vector W64 5)
  lastServed : List (Nat × Nat)
  residue : Bool
  text : Sparse W32
  discarded : Nat
  outcome : Option Nat
  failCore : Nat
  /-- Its place in the order in which the function's tasks were launched (R36). -/
  age : Nat
deriving DecidableEq, Repr, Inhabited

/-! ### Page records (R344) -/

structure PageRec where
  gpa : Nat
  va : W64
  event : Bool
  write : Bool
  table : Bool
  tens : Bool
  vfn : Nat
  gen : Gen
  level : Nat
  count : Nat
  core : Nat
  seq : W32
  page : Nat
  /-- The contexts that wait for it: logical core and task (R345, R347). -/
  waiters : List (Nat × Nat)
deriving DecidableEq, Repr, Inhabited

/-- A fault's page record that found its queue full (R345). -/
structure PageWait where
  pr : PageRec
  core : CoreId
  task : Nat
deriving DecidableEq, Repr, Inhabited

/-! ### Partitions and virtual functions (R353 to R357) -/

inductive PState | free | live | gated | draining
deriving DecidableEq, Repr, Inhabited

/-- A partition's counters of telemetry block 1 (R422). -/
structure PartCounters where
  lostParks : Nat
  discarded : Nat
  bypasses : Nat
  kills : Nat
deriving DecidableEq, Repr, Inhabited

structure Part where
  st : PState
  /-- Physical site of each logical core, in logical order (R359). -/
  sites : List Nat
  gen : Gen
  used : Bool
  stale : List Gen
  emask : W16
  xbBase : Nat
  xbCount : Nat
  scrBase : Nat
  scrCount : Nat
  xbMark : Mark
  scrMark : Mark
  parkBase : Nat
  parkCount : Nat
  slots : Nat
  precfg : W32
  slip : W32
  qos : W32
  quantum : Nat
  isSealed : Bool
  /-- The number of a sealed partition's cipher, which no other has; 0 for none (R154, R370). -/
  world : Nat
  alarm : Bool
  meas : BitVec 256
  cnt : PartCounters
  /-- Grant table places that leave the partition once the next scrub pass completes (R356, R392). -/
  leaving : List Nat
  /-- The round of the dispatcher: the function number it goes on from, and the functions visited whose candidate has still to start, in the
  order of their visits (R37). -/
  visited : Nat
  turns : List Nat
  /-- The PART.DESTROY under way, by its REQID: its kills are made, and its bump waits for a free generation value (R355, R366). -/
  doomed : Option W32
deriving DecidableEq, Repr, Inhabited

def Part.init : Part :=
  ⟨.free, [], 0, false, [], 0, 0, 0, 0, 0, ⟨[], false⟩, ⟨[], false⟩, 0, 0, 0, 0x00640064, 256, 0, 1000, false, 0, false, 0, ⟨0, 0, 0, 0⟩, [], 0, [], none⟩

structure VfCounters where
  stale : Nat
  unmatched : Nat
  lostTraps : Nat
  outcomes : Vector Nat 8
deriving DecidableEq, Repr, Inhabited

/-- The keys of a world: two of AES-256 and one of KMAC128 (R370). -/
structure WorldKeys where
  aes1 : BitVec 256
  aes2 : BitVec 256
  mac : BitVec 256
deriving DecidableEq, Repr, Inhabited
/-- A 256-byte block of a stored context image that something outside has changed, with the tag that now stands beside it (R370; log entry 85). -/
structure AlteredBlock where
  core : CoreId
  task : Nat
  block : Nat
  bytes : List Byte
  tag : BitVec 64
deriving DecidableEq, Repr, Inhabited

structure Vf where
  part : Option Nat
  weight : Nat
  deficit : Int
  s2root : Nat
  s1tb : W64
  trapBase : Nat
  trapSz : Nat
  gen : Gen
  launch : List Launch
  /-- How many tasks have been launched (R36). -/
  launched : Nat
  reqQ : List PageRec
  evQ : List PageRec
  pageWait : List PageWait
  reqSeq : W32
  evSeq : W32
  dlog0 : W64
  dlog1 : W64
  ticket : W32
  colls : List Coll
  /-- Blocks posted for each group so far (R302). -/
  posted : Sparse Nat
  meas : BitVec 256
  /-- A world whose frame overran: idle until it launches again (R373). -/
  idle : Bool
  /-- The world keys of a function of a sealed partition (R370). -/
  keys : Option WorldKeys
  /-- The VF.RESET with UNASSIGN under way, by its REQID: it is made, and waits for the STATUS of the tasks it has killed (R358). -/
  leaving : Option W32
  cnt : VfCounters
deriving DecidableEq, Repr, Inhabited

def Vf.init : Vf :=
  ⟨none, 0, 0, 0, 0, 0, 0, 0, [], 0, [], [], [], 0, 0, 0, 0, 0, [], [], 0, false, none, none, ⟨0, 0, 0, Vector.replicate 8 0⟩⟩

/-- An entry on its way to a bound load queue (R23): from which store queue of which core, of which task, to which queue of which peer. -/
structure BoundEntry where
  src : CoreId
  sq : Fin 2
  task : Nat
  peer : Nat
  plq : Fin 4
  e : QEntry
deriving DecidableEq, Repr, Inhabited

/-! ### The Granary -/

/-- What a home holds beside a 128-byte line: the partition and generation of the last write, the way that holds it if it is
resident, whether it is dirty, its saturation flag, and the HBM bytes below a dirty line (R267, R287, R391). -/
structure LineMeta where
  part : Option Nat
  gen : Gen
  way : Option Nat
  dirty : Bool
  sat : Bool
  below : Option (List Byte)
deriving DecidableEq, Repr, Inhabited

def LineMeta.init : LineMeta := ⟨none, 0, none, false, false, none⟩

/-- A grant table entry (R390). -/
structure Grant where
  part : Nat
  stw : Nat
  mask : W16
deriving DecidableEq, Repr, Inhabited

/-- The accumulate input queue of a slice, its waiting packet and the packets held behind it (R288). -/
structure SliceQ where
  q : List AaccPkt
  waiting : List AaccPkt
  held : List AaccPkt
deriving DecidableEq, Repr, Inhabited

def SliceQ.init : SliceQ := ⟨[], [], []⟩

/-- A monitor armed at a home, and what has ended it, if anything has (R134). -/
structure Monitor where
  line : Nat
  core : CoreId
  why : Option MonEvent
deriving DecidableEq, Repr, Inhabited

/-- A line request of a partition, waiting at a slice for service (R395): how many lines from an address on, the bytes that travel with it, which are
those of a write in the request and those of a read in the response (R397), the station that asked (die × 128 + station), the core and the function
it asks for, whether it reads, and whether it is an accumulate packet, which the slices' weights leave out. -/
structure SliceReq where
  slice : Nat
  part : Nat
  lines : Nat
  owner : Nat
  addr : Nat
  data : List Byte
  core : Nat
  vf : Nat
  reads : Bool
  accum : Bool
deriving DecidableEq, Repr, Inhabited

/-! ### The ring and the mesh (R396 to R406) -/

/-- A message on a ring: from which station to which, and the line request it is or answers (R397). -/
structure RingMsg where
  src : Nat
  dst : Nat
  req : SliceReq
  back : Bool
deriving DecidableEq, Repr, Inhabited

/-- A flit: the input port it stands at, its channel, packet and partition, where it goes on this die (stop × 8 + port), and, for a packet to
another die, that die and where it goes there; whether it is the last of its packet, and where a response to it goes (R401 to R405). -/
structure Flit where
  port : Nat
  vc : Nat
  pkt : Nat
  part : Nat
  multicast : Bool
  last : Bool
  dsts : List Nat
  beyond : Option (Nat × List Nat)
  reply : Option Nat
deriving DecidableEq, Repr, Inhabited

/-- A flit on its way: the cycle from which it may stand at an input of a stop, or in which it has reached a core or the Commons die. -/
structure MeshAir where
  due : W64
  die : Nat
  stop : Nat
  flit : Flit
deriving DecidableEq, Repr, Inhabited

/-- One mesh output: packet ages, the turn and its budget, the channel each input served last, the cycles since VC3 last used it, what it
has sent, newest first, the last cycle it was arbitrated in, the packet under way on each channel, of which flits have left and flits are
still to come, and the packets promoted and not yet gone (R404, R405). -/
structure MeshOut where
  ages : List (Nat × Nat)
  turn : Nat
  budget : Nat
  lastVc : List (Nat × Nat)
  vc3Ago : Nat
  sent : List Flit
  last : Option W64
  under : List (Nat × Nat)
  promoted : List Nat
deriving DecidableEq, Repr, Inhabited

def MeshOut.init : MeshOut := ⟨[], 0, 0, [], 3, [], none, [], []⟩

/-! ### The device's management (chapters 16 and 18) -/

/-- One direction of a link's session (R381). -/
structure LinkDir where
  seq : W64
  flits : Nat
  epoch : Nat
  key : BitVec 256
deriving DecidableEq, Repr, Inhabited
def LinkDir.init : LinkDir := ⟨0, 0, 0, 0⟩

/-- A torus port (R231, R380, R381). -/
structure TorusPort where
  up : Bool
  /-- Credits of the eight virtual channels, and the cycle from which each channel that has none has had none (R232). -/
  credits : Vector Nat 8
  dryAt : Vector W64 8
  dateline : Bool
  tagFails : Nat
  /-- Each direction's session: the number of its next flit, from which the nonce is formed, the flits since its last key update, its epoch and its
  data key; and whether this module was the requester (R380, R381). -/
  outDir : LinkDir
  inDir : LinkDir
  requester : Bool
  lanesUsed : List Nat
  /-- The real time from which a link that failed its training is trained again (R424). -/
  retryAt : Nat
deriving DecidableEq, Repr, Inhabited

def TorusPort.init : TorusPort := ⟨false, Vector.replicate 8 0, Vector.replicate 8 0, false, 0, LinkDir.init, LinkDir.init, false, [], 0⟩

inductive NoticeKind | trap | debug | pageReq (r : PageRec) | pageEvt (r : PageRec) | sealAlarm | lostPark
deriving DecidableEq, Repr, Inhabited

/-- An unsolicited notice (R368). -/
structure Notice where
  kind : NoticeKind
  vfn : Nat
  core : Nat
  textix : Nat
  gcc : W64
deriving DecidableEq, Repr, Inhabited

/-- A session with the root of trust on a Uarov port (R377, R383): who opened it, the control node or a function of a sealed partition, and the
digest of its public key. -/
structure UarovSession where
  port : Fin 2
  owner : Issuer
  key : BitVec 256
deriving DecidableEq, Repr, Inhabited

/-- A message as it came: the port, the key of its session, its bytes (R377, R378). -/
structure Message where
  port : Fin 2
  key : BitVec 256
  bytes : List Byte
deriving DecidableEq, Repr, Inhabited

/-- A command with its operands, as its row of the operation table has them (R379). -/
inductive Cmd
  | partCreate (sites : List Nat) (colours : List GrantReq) (qos : W32) (quantum : Nat) (isSealed : Bool)
  | partDestroy
  | partResize (add remove : List Nat) (colours : List GrantReq)
  | partLimits (l : Limits)
  | partGate
  | partGen
  | vfAssign (vfn part weight : Nat) (s2root : Option Nat) (trapBase sz : Nat)
  | vfReset (unassign : Bool)
  | vfWeight (weight : Nat)
  | vfS1root (v : W64)
  | memWrite (gpa : Nat) (data : List Byte)
  | progLoad (gpa off : Nat) (img : List Byte) (last : Bool) (frame : Option Nat)
  | memRead (gpa len : Nat)
  | taskLaunch (addr : Nat)
  | taskCancel (addr : Nat)
  | ctxResume (core : Nat)
  | pageReply (recs : List PageReplyRec)
  | migStart (w0 w1 : W64)
  | migStop
  | evidence (nonce : BitVec 256) (scope : EvScope)
  | labelSet (label : Nat) (digest : BitVec 256)
  | trustAnchor (digests : List (BitVec 256))
  | stileInstall (r : PolicyRec)
  | stileRevoke (policyId : Nat)
  | rotaSet (cores : List Nat) (start : W64) (entries : List RotaEntry)
  | slotReserve (group : W64) (count : Nat)
  | slotRelease (group : W64)
  | replayArm (r : ReplayArmReq)
  | replayDump
  | spareSwap (r : SwapReq)
  | telemetryRead (block first last : Nat)
deriving DecidableEq, Repr, Inhabited
/-- A command that has come and has not answered: a message, or one that came as the step of its row, with the port of its session. The commands
stand in the journal in the order in which they came (R377, R413). -/
inductive Command
  | bytes (m : Message)
  | typed (h : CmdHdr) (x : Cmd)
deriving DecidableEq, Repr, Inhabited

/-- What a response carries beside its status (R378). -/
inductive Payload
  | empty
  | bytes (b : List Byte)
  | words (w : List W64)
  | report (nonce : BitVec 256) (gcc : W64) (scope : EvScope) (meas : List (BitVec 256)) (states : List (Nat × Nat)) (sig : List Byte)
  | replay (mode ovf diverged count : Nat) (first last div : W64) (unit kind : Nat)
deriving DecidableEq, Repr, Inhabited

structure Response where
  reqid : W32
  status : Nat
  payload : Payload
deriving DecidableEq, Repr, Inhabited

/-- An installed Stile record: the record and the bytes left of its budget (R419, R421). -/
structure StileRec where
  r : PolicyRec
  left : Nat
deriving DecidableEq, Repr, Inhabited

/-- One replay record (R416). -/
structure ReplayRec where
  gcc : W64
  kind : Nat
  part : Nat
  unit : Nat
  who : W32
deriving DecidableEq, Repr, Inhabited

/-- The replay capture unit (R415 to R418). -/
structure Replay where
  mode : Nat
  part : Option Nat
  base : Nat
  size : Nat
  mask : W16
  begun : Bool
  ovf : Bool
  diverged : Bool
  log : List ReplayRec
  /-- In replay, the records no choice has used yet, the cycle in which the task started, and the cycle of the last one that each recording
  unit has used. -/
  todo : List ReplayRec
  since : W64
  used : List (Nat × W64)
  divGcc : W64
  divUnit : Nat
  divKind : Nat
deriving DecidableEq, Repr, Inhabited

def Replay.init : Replay := ⟨0, none, 0, 0, 0, false, false, false, [], [], 0, [], 0, 0, 0⟩

/-- A core's frame rota (R371): the entries, the index of the current frame, its next edge, whether the seal-window request was made, and, until
then, the cycle in which the first word of the frame may execute (R372). -/
structure Rota where
  part : Nat
  core : Nat
  start : W64
  entries : List RotaEntry
  ix : Nat
  edge : W64
  windowOpen : Bool
  opens : Option W64
deriving DecidableEq, Repr, Inhabited

/-- Where bring-up stands (R424). -/
inductive PinCode | ok | power | config | memory | control | fatal | off
deriving DecidableEq, Repr, Inhabited

/-- Power and cooling (R423). -/
structure Power where
  clock : Nat
  /-- Real time since reset, in parts of a microsecond (R3). -/
  time : Nat
  watts : Nat
  /-- PCAP of the configuration block, and PCAP as the coolant flow leaves it. -/
  cap : Nat
  pcap : Nat
  throttled : List Sensor
  events : Nat
  cause : Nat
deriving DecidableEq, Repr, Inhabited

/-- A management core (R413). -/
inductive MgmtCore | active | spare | retired
deriving DecidableEq, Repr, Inhabited

end Sys2Proof.Machine
end

