-- ==== Sys2Proof/Machine/State.lean ====
section
/-! DEFINITION. The state of the module as plain data, and the module right after reset. -/

namespace Sys2Proof.Machine

/-! ### What moves next -/

/-- What arrives over a link: a packet, a park's return on its way home (R248), a reduction packet (R290), or a note, for this module or on its way
(R230). -/
inductive LinkItem
  | packet (p : Packet)
  | parkReturn (p : ParkedPkt)
  | reduction (p : AaccPkt)
  | note (p : NotePkt)
deriving DecidableEq, Repr, Inhabited

/-- What reaches the module from outside it (host interface). -/
inductive Input
  /-- What arrives over a link, in flits under the key of an epoch of that direction, and the neighbour's update of that key (R381). -/
  | link (port : Fin 6) (epoch : Nat) (x : LinkItem)
  | keyUpdate (port : Fin 6)
  /-- A link between two other modules has come up, authenticated, or has gone down (R382). -/
  | linkNews (a b : Nat) (up : Bool)
  /-- A credit returned by the neighbour of a port, for one virtual channel (R232). -/
  | credit (port : Fin 6) (vc : Fin 8)
  /-- A line request reaching a slice from its port (R395). -/
  | sliceReq (r : SliceReq)
  /-- A flit on its way to the input of a stop (R401). -/
  | flit (a : MeshAir)
  /-- A message waiting at a ring station (R399). -/
  | ringMsg (die : Nat) (m : RingMsg)
  /-- An interrupt delivered to the context on a core (R134). -/
  | interrupt (c : CoreId)
  /-- The bytes of a 256-byte block of memory no longer match its integrity tag (R154). -/
  | tamper (block : Nat)
  /-- The stored image of a saved context of a sealed partition no longer matches its tags (R370). -/
  | tamperImage (b : AlteredBlock)
  /-- A session asked for on a Uarov port, by the control node or a function of a sealed partition, with the digest of its key (R377, R383). -/
  | uarov (port : Fin 2) (owner : Issuer) (peer : LinkPeer) (key : BitVec 256)
  /-- The bytes of a secured message on a Uarov port, in the session of a key (R377, R378). -/
  | message (port : Fin 2) (key : BitVec 256) (bs : List Byte)
deriving DecidableEq, Repr, Inhabited

/-- Who moves in one step of the model: an engine of a core, an errand lane, an event of the operation table, the clock, or
something outside the module. -/
inductive Agent
  | engine (c : CoreId) (e : Engine)
  | lane (n : Nat)
  | event (i : Instr)
  | cycle
  | input (x : Input)
  /-- A read of a poisoned line: POISONED_READ follows (R414). -/
  | poison (c : CoreId) (hpa : Nat)
  /-- M reads rows in a K-step's interval; a K-step's result, or the end of MZERO, MLOAD, MSAVE or MPROG, has its cycle (R215). -/
  | kread (c : CoreId)
  | kstep (c : CoreId)
  | mword (c : CoreId)
  /-- Free lanes take waiting packets (R242). -/
  | lanes
  /-- An output of a die's mesh chooses a flit in this cycle (R405). -/
  | mesh (die stop : Nat) (port : Fin 6)
  /-- A message that waits at a station may take a lane of the slot that passes it (R399). -/
  | ring (die station lane : Nat)
  /-- The i-th packet waiting for a credit has waited its 2^16 cycles (R232). -/
  | stuck (i : Nat)
  /-- The cycle of the i-th multicast row on its way has come (R178). -/
  | rows (i : Nat)
  /-- The grace or the kill timer of a core runs out (R49). -/
  | timer (c : CoreId)
  /-- A port sends the last request of the i-th command it has accepted (R147). -/
  | send (c : CoreId) (i : Nat)
  /-- The line at an address is read for a later load of S, ahead of S's accesses of other classes (R130). -/
  | early (c : CoreId) (hpa : Nat)
  /-- A port reads the record of a tensor of A's text ahead of the copy that needs it (R278). -/
  | ahead (c : CoreId) (tid : Nat)
  /-- The timer of a carry entry of a core runs out (R174), and the timeout of its WAITM (R134). -/
  | carry (c : CoreId) (entry : Nat)
  | timeout (c : CoreId)
  /-- The lease of a booking expires (R299). -/
  | lease (id : Nat)
  /-- The mutual-stall counter of a core reaches its limit (R45). -/
  | mstall (c : CoreId)
  /-- A frame edge, a seal window and the first cycle of a world's frame, as the rota brings them (R372). -/
  | edge (c : CoreId)
  | seal (c : CoreId)
  | world (c : CoreId)
  /-- What the dispatcher does by itself: the save of a stopped context, the soft requests of a function whose deficit is used up, a
  partition's next visit, and the start or resume of a function's candidate (R37 to R39). -/
  | save (c : CoreId)
  | exhausted (vf : Nat)
  | visit (part : Nat)
  | serve (vf : Nat)
deriving DecidableEq, Repr, Inhabited

/-! ### A core -/

/-- What the context on a core is doing (R41, R51, R123, R369). -/
inductive RunState
  /-- No context. -/
  | idle
  /-- A context whose engines walk, or wait at HALT. -/
  | running
  /-- Stopped for a resumable cause (R41, R345). -/
  | stopped
  /-- Stopped at a breakpoint (R369). -/
  | debug
  /-- Waiting for the scrub after a kill (R365). -/
  | scrubbing
deriving DecidableEq, Repr, Inhabited

/-- Where a core stands and what it runs: its partition, logical number, physical site (R359), virtual function and task, the
generation its entries take, its job and schedule table (R30), its bank-group map (R362). -/
structure Place where
  part : Nat
  num : Nat
  site : Nat
  vf : Nat
  task : Option Nat
  gen : Gen
  run : RunState
  job : Nat
  first : Nat
  stride : Nat
  count : Nat
  cursor : Nat
  bankMap : List Nat
deriving DecidableEq, Repr, Inhabited

/-- The program-visible registers of a core (R24), its K journals (R17) and its system registers. -/
structure Regs where
  x : Vector (Tagged W64) 32
  /-- K0 to K15 as S, A, V, M and P see them (R16). -/
  k : Vector (Vector (Tagged W32) 16) 5
  jour : Vector (List JEntry) 5
  v : Vector QEntry 32
  vsh : W32
  ctags : W64
  /-- Outstanding count of each copy tag (R148). -/
  counts : Vector Nat 64
  nfl : W32
  /-- The flags of NFL that were set in a cycle, and that cycle: a write in it leaves them set (R89). -/
  nflNew : W64 × W32
  amost : W32
  mps : W64
  pst : W64
  /-- TTB as S wrote it, and as A sees it at its stream index (R270). -/
  ttb : W64
  ttbA : W64
  s1tb : W64
  hvec : W32
  hinfo : W32
  /-- S is in the in-core handler (R143). -/
  hmode : Bool
  bkpt : W32
  slip : W32
  precfg : W32
  /-- DOMC, DOMH, DOMD, DOMM and DOMG (R35). -/
  dom : Vector W64 5
  /-- M's current rounding mode (R70). -/
  mmode : RMode
deriving DecidableEq, Repr, Inhabited

/-- The walk of the five engines: text store, engines, tokens, PPOINTs, jobs and stops. -/
structure Walk where
  text : Sparse W32
  engs : Vector Eng 5
  /-- Token counts, source times five plus destination (R19). -/
  toks : Vector Nat 25
  /-- PPOINTs passed by some engine and still to be unioned (R46), newest first; none passed by the trailing engine. -/
  points : List PPoint
  pointBase : Option PPoint
  /-- The decision of the first engine at a PPOINT instance (R47). -/
  decisions : List (W32 × Bool)
  softReq : Bool
  hardStop : Bool
  grace : Bool
  kill : Bool
  jobReq : Option W32
  jobGives : List JobGive
  /-- The mutual-stall counter (R45). -/
  stall : Nat
  /-- The real time at which the grace timer, then the kill timer, runs out (R49, R50). -/
  timer : Nat
  /-- A has finished a WAITANY, WAITALL or FFR in this job (R156; log entry 31). -/
  tagSeen : Bool
  /-- The text index of a breakpoint that an engine has halted at, until the context stops for it (R369). -/
  hit : Option Nat
  faults : List FaultRec
deriving DecidableEq, Repr, Inhabited

/-- The data queues and their bindings (R22, R23). -/
structure Queues where
  lq : Vector (List QEntry) 4
  sq : Vector (List QEntry) 2
  ma : List (Tagged W64)
  mb : List (Tagged W64)
  fq : List (Tagged W32)
  bound : Vector (Option Binding) 2
  boundFrom : Vector (Option BoundFrom) 4
  /-- Stream indices of the BIND words V has passed and A has not yet executed, with the queue each names (R180). -/
  binds : List (W32 × Fin 2)
deriving DecidableEq, Repr, Inhabited

/-- The port of a core: scratchpad, carry tile, commands, caches, credits. -/
structure Port where
  spad : Sparse QEntry
  carry : Sparse CarryEntry
  pend : List Pend
  /-- Tags of commands whose every access has been applied, to be reported (R148). -/
  compl : List Ctag
  tc : List TcEntry
  walks1 : List WalkEntry
  walks2 : List WalkEntry
  shapes : List ShapeEntry
  abuf : Option ABuf
  early : Option EarlyLine
  /-- Credits and spent credits of the reservations of each group (R297). -/
  redCredits : Sparse Nat
  /-- AACCs of killed contexts whose completion notice still returns the credit they spent: their numbers and reservations (R297). -/
  redOwed : List (Nat × Nat)
deriving DecidableEq, Repr, Inhabited

/-- The accumulator tiles and what M has under way (R215, R221). -/
structure MatState where
  acc : Vector AccTile 8
  ops : List MatOp
  word : Option (MWord × W64)
  /-- Signals of finished operations that found their token queue full (R19). -/
  sigs : List Engine
deriving DecidableEq, Repr, Inhabited

/-- S's waits at a home and P's staging slots. -/
structure Waits where
  waitm : Option WaitmState
  bar : Option BarState
  stage : Vector (Option Staged) 8
deriving DecidableEq, Repr, Inhabited

structure Core where
  place : Place
  regs : Regs
  walk : Walk
  q : Queues
  port : Port
  mat : MatState
  waits : Waits
deriving DecidableEq, Repr, Inhabited

/-! ### The memory side -/

/-- Memory by host-physical byte address, the homes' line state, the earmark table (R336), poisoned lines (R414), blocks whose
integrity tag does not match (R154), and whose cipher wrote each byte. -/
structure Memory where
  bytes : List Host.Cell
  lines : Sparse LineMeta
  marks : Sparse Mark
  poison : List Nat
  badBlocks : List Nat
  /-- By byte, the cipher of the sealed partition that wrote it (R154, R370). -/
  worlds : Sparse Nat
deriving DecidableEq, Repr, Inhabited

/-- The Granary's tables and queues, by slice. -/
structure Granary where
  grants : Sparse (Option Grant)
  queues : Sparse SliceQ
  /-- The lines each slice has accepted from each core in the window of 1,024 cycles, and the cycle in which that count began (R288). -/
  quota : Sparse Nat
  window : W64
  air : List AaccPkt
  refusals : List AaccPkt
  mcasts : List McastPkt
  /-- Multicast rows sent to other modules and not yet written there. -/
  mcastOut : List McastPkt
  boundAir : List BoundEntry
  monitors : List Monitor
  reqs : List SliceReq
  served : List SliceReq
  deficits : Sparse Int
deriving DecidableEq, Repr, Inhabited

/-- The headers a core's queue on the Commons die holds, and whether one was dropped (R228). -/
structure RxQueue where
  hdrs : List Packet
  ovf : Bool
deriving DecidableEq, Repr, Inhabited

def RxQueue.init : RxQueue := ⟨[], false⟩

/-- Bead counters and header queue of a context whose logical core another context took since (R229). -/
structure HeldRx where
  task : Nat
  part : Nat
  core : Nat
  beads : List W32
  rx : RxQueue
deriving DecidableEq, Repr, Inhabited

/-- The Crossroads, its counters, lanes, park bay and combining slots. -/
structure Xroads where
  /-- B0 to B15 of the context that ran most recently on each logical core: (partition × 512 + core) × 16 + n (R229). -/
  beads : Sparse W32
  rx : Sparse RxQueue
  /-- The task that ran most recently on each logical core since the last bump, plus 1 (R228); 0 for none. -/
  owner : Sparse Nat
  /-- The counters of the other contexts. -/
  held : List HeldRx
  /-- XB0 to XB4095, and the words of the commons scratchpad (R244). -/
  xb : Sparse W32
  scr : Sparse W32
  /-- Packets that have entered or reached this Crossroads. -/
  arrived : List Packet
  waiting : List LaneJob
  lanes : Sparse (Option LaneJob)
  parks : List ParkedPkt
  bay : Sparse (Option ParkSlot)
  parkOrder : Nat
  tx : List TxPkt
  /-- What has left over the links: port, packet, and the park it returns (R248). -/
  sent : List TxPkt
  ports : Vector TorusPort 6
  slots : Sparse (Option Slot)
  resv : List Reservation
  requests : List SlotReq
  nextResv : Nat
  redIn : List AaccPkt
  redOut : List (Nat × AaccPkt)
  /-- Notes that wait for an escape credit, and those that have left, by port (R230). -/
  notes : List NotePkt
  notesSent : List (Nat × NotePkt)
deriving DecidableEq, Repr, Inhabited

/-- The collective engine's links to the other members (R302, R303). -/
structure CollSide where
  blocks : List PeerBlock
  chunks : List Chunk
  deficits : Sparse Int
  bookings : List Booking
  /-- Results of combining slots that have reached this home (R303). -/
  results : List AaccPkt
  /-- What other members have told of collectives not yet posted or planned here. -/
  early : List Note
deriving DecidableEq, Repr, Inhabited

/-- The dispatcher: partitions, functions, tasks, saved contexts, frame rotas. -/
structure Dispatch where
  parts : Vector Part 48
  vfs : Vector Vf 192
  tasks : List Task
  nextTask : Nat
  saved : List Core
  /-- The blocks of the stored images of sealed partitions that something outside has changed (R370). -/
  altered : List AlteredBlock
  rotas : List Rota
deriving DecidableEq, Repr, Inhabited

/-- The ring tables, ring slots, MCTL, the mesh's outputs and inputs, and the flits under way. -/
structure Fabric where
  /-- Ring time-division rows, die × 256 + slot (R398). -/
  ring : Sparse W32
  /-- The message in each lane of each slot: (die × 256 + slot) × 4 + lane. -/
  slots : Sparse (Option RingMsg)
  waiting : List (Nat × RingMsg)
  /-- Messages that their stations have removed, with the cycle in which their transfer ends (R397). -/
  removed : List (W64 × Nat × RingMsg)
  mctl : Vector W32 4
  /-- Mesh outputs: (die × 16 + stop) × 6 + port. -/
  mesh : Sparse MeshOut
  /-- Flits waiting at the inputs of a stop, oldest first: die × 16 + stop. -/
  inputs : Sparse (List Flit)
  /-- Flits on links or entering at a local or edge input; those that have left by a local or edge output, with the cycle in which they reach
  their core or the Commons die. -/
  air : List MeshAir
  ejected : List MeshAir
  /-- The input channels that a flit has left in this cycle: ((die × 16 + stop) × 8 + port) × 4 + channel. -/
  taken : List Nat
  /-- The number of the next packet. -/
  pkts : Nat
deriving DecidableEq, Repr, Inhabited

/-- The management side: configuration block, bring-up, labels, anchors, Stile, replay, spares, power, notices. -/
structure Mgmt where
  node : Nat
  dims : Nat × Nat × Nat
  mage : Nat
  cethr : Nat
  rbase : Nat
  rsize : Nat
  /-- The bring-up step reached, 0 to 7, and the status pins (R424). -/
  step : Nat
  pins : PinCode
  /-- Class plus 1 of a site whose class is not the one manufacture gave it: 1 enabled, 2 spare, 3 fused off, 4 retired (R1, R411). -/
  siteClass : Sparse Nat
  /-- Which torus lanes, ways, rows and columns spares have replaced, as the spare record lists them (R411). -/
  spares : List SwapReq
  labels : List (Nat × BitVec 256)
  anchors : List (BitVec 256)
  /-- The links between other modules that are known to be up and authenticated (R382). -/
  links : List (Nat × Nat)
  stile : List StileRec
  replay : Replay
  romDigest : BitVec 256
  fwDigest : BitVec 256
  cores : Vector MgmtCore 6
  notices : List Notice
  responses : List Response
  /-- Commands being applied that have not answered yet, and the sessions of the Uarov ports (R358, R377). -/
  waiting : List CmdHdr
  sessions : List UarovSession
  /-- The journal of the commands that have come and have not answered, in arrival order, and the bytes of the responses to messages, by port
  (R377, R378, R413). -/
  journal : List Command
  outbox : List (Fin 2 × List Byte)
  /-- Correctable-error counts by unit, the corrections of the last 24 hours with their real time, the flagged units, and the uncorrectable-error
  log (R414). -/
  ecc : Sparse Nat
  eccAt : List (Nat × Nat)
  flagged : List Nat
  errors : List (Nat × W64)
  power : Power
deriving DecidableEq, Repr, Inhabited

/-- The module. `core` is the core that moves, `others` every other core; `act` is the engine that executes a word and `lane` the
errand lane that runs. `agenda` and `ticks` are the model's own: who moves next, and the number of the next free value. -/
structure State where
  core : Core
  others : List Core
  act : Engine
  lane : Nat
  gcc : W64
  mem : Memory
  gran : Granary
  xr : Xroads
  coll : CollSide
  disp : Dispatch
  fab : Fabric
  mgmt : Mgmt
  agenda : List Agent
  ticks : Nat
deriving DecidableEq, Repr, Inhabited

/-- Where the machine stops. -/
inductive Fault
  /-- Raised by every step once power is cut (R423): the module runs nothing until it is brought up. Safe: the hardware does nothing either. -/
  | noPower
deriving DecidableEq, Repr, Inhabited

/-- Why a step has no meaning in the model. -/
inductive Refusal
  /-- Raised by Dispatch for an instruction without a meaning yet. Safe. -/
  | notModelled (mnemonic : String)
deriving DecidableEq, Repr, Inhabited

/-! ### Reset -/

def zeroX : Tagged W64 := ⟨0, 0, ⟨[], false⟩⟩
def zeroK : Tagged W32 := ⟨0, 0, ⟨[], false⟩⟩
/-- A zero row with an empty earmark: what an unlisted scratchpad row reads as. -/
def zeroRow : QEntry := ⟨0, 0, ⟨[], false⟩⟩

/-- The registers at reset (R24, and each register's own field map). -/
def Regs.init : Regs :=
  { x := Vector.replicate 32 zeroX, k := Vector.replicate 5 (Vector.replicate 16 zeroK), jour := Vector.replicate 5 [],
    v := Vector.replicate 32 zeroRow, vsh := 0, ctags := 0, counts := Vector.replicate 64 0, nfl := 0, nflNew := (0, 0), amost := 0, mps := 0,
    pst := 0, ttb := 0, ttbA := 0, s1tb := 0, hvec := 0, hinfo := 0, hmode := false, bkpt := 0, slip := 256,
    precfg := 0x00640064, dom := Vector.replicate 5 0, mmode := .rne }

def Walk.init : Walk :=
  { text := [], engs := Vector.replicate 5 Eng.init, toks := Vector.replicate 25 0, points := [], pointBase := none,
    decisions := [], softReq := false, hardStop := false, grace := false, kill := false, jobReq := none, jobGives := [],
    stall := 0, timer := 0, tagSeen := false, hit := none, faults := [] }

def Queues.init : Queues :=
  { lq := Vector.replicate 4 [], sq := Vector.replicate 2 [], ma := [], mb := [], fq := [], bound := Vector.replicate 2 none,
    boundFrom := Vector.replicate 4 none, binds := [] }

def Port.init : Port :=
  { spad := [], carry := [], pend := [], compl := [], tc := [], walks1 := [], walks2 := [], shapes := [], abuf := none, early := none,
    redCredits := [], redOwed := [] }

def MatState.init : MatState := { acc := Vector.replicate 8 AccTile.init, ops := [], word := none, sigs := [] }

def Waits.init : Waits := { waitm := none, bar := none, stage := Vector.replicate 8 none }

def Place.init : Place :=
  { part := 0, num := 0, site := 0, vf := 0, task := none, gen := 0, run := .idle, job := 0, first := 0, stride := 0, count := 0,
    cursor := 0, bankMap := [0, 1, 2, 3] }

/-- A core with no context. -/
def Core.init : Core :=
  { place := Place.init, regs := Regs.init, walk := Walk.init, q := Queues.init, port := Port.init, mat := MatState.init,
    waits := Waits.init }

/-- The module right after reset: nothing in memory, no partition, no function assigned, no context (R354, R357, R424). -/
def State.reset : State :=
  { core := Core.init, others := [], act := .s, lane := 0, gcc := 0,
    mem := { bytes := [], lines := [], marks := [], poison := [], badBlocks := [], worlds := [] },
    gran := { grants := [], queues := [], quota := [], window := 0, air := [], refusals := [], mcasts := [], mcastOut := [], boundAir := [], monitors := [],
              reqs := [], served := [], deficits := [] },
    xr := { beads := [], rx := [], owner := [], held := [], xb := [], scr := [], arrived := [], waiting := [], lanes := [], parks := [],
            bay := [], parkOrder := 0, tx := [], sent := [], ports := Vector.replicate 6 TorusPort.init, slots := [], resv := [],
            requests := [], nextResv := 0, redIn := [], redOut := [], notes := [],
            notesSent := [] },
    coll := { blocks := [], chunks := [], deficits := [], bookings := [], results := [], early := [] },
    disp := { parts := Vector.replicate 48 Part.init, vfs := Vector.replicate 192 Vf.init, tasks := [], nextTask := 0,
              saved := [], altered := [], rotas := [] },
    fab := { ring := [], slots := [], waiting := [], removed := [], mctl := Vector.replicate 4 64, mesh := [],
             inputs := [], air := [], ejected := [], taken := [], pkts := 0 },
    mgmt := { node := 0, dims := (1, 1, 1), mage := 64, cethr := 0, rbase := 0, rsize := 0, step := 0, pins := .ok, siteClass := [],
              spares := [], labels := [], anchors := [], links := [], stile := [], replay := Replay.init, romDigest := 0, fwDigest := 0,
              cores := #v[.active, .active, .active, .active, .spare, .spare], notices := [], responses := [], waiting := [], sessions := [], journal := [], outbox := [],
              ecc := [], eccAt := [], flagged := [], errors := [],
              power := { clock := 3300, time := 0, watts := 0, cap := 3200, pcap := 3200, throttled := [], events := 0, cause := 0 } },
    agenda := [], ticks := 0 }

end Sys2Proof.Machine
end

