-- ==== Sys2Proof/Config.lean ====
section
/-! DEFINITION. What the spec leaves open, as free values nothing in the model constrains (log entries 1, 4 and 5), and the
constants the spec fixes for the module. -/

namespace Sys2Proof.Config

/-- Who moves when the agenda names nobody: the spec orders no two agents (log entry 1). -/
opaque nextAgent : Nat → Machine.Agent

/-- A choice the spec leaves open, by the number of the free value and which choice of the step it is: the way a line is
allocated in (R391), the cache entry replaced (R338) (log entry 4). -/
opaque choice : Nat → Nat → Nat

/-- The SHA3-256 digest of some bytes, a function the spec names and does not define (log entry 5). -/
opaque sha3 : List Byte → BitVec 256

/-- The signature of the attestation key over some bytes (R385; log entry 5). -/
opaque sign : List Byte → List Byte

/-- Whether a signature of a public key verifies over some bytes (ML-DSA-44, R419; log entry 5). -/
opaque verifies : List Byte → List Byte → List Byte → Bool

/-- The digest of the root certificate fused at manufacture (R383). -/
opaque fusedAnchor : BitVec 256

/-- The world keys the root of trust generates (R370): by the number of the free value, and which. -/
opaque worldKey : Nat → Nat → BitVec 256
/-- The cipher and the tag of sealed memory and of saved images (R154, R370; log entry 85): two keys or one, an address, some bytes. -/
opaque cipher : BitVec 256 → BitVec 256 → Nat → List Byte → List Byte
opaque tag : BitVec 256 → Nat → List Byte → BitVec 64

/-- The data keys of a link's session (R380, R381): by the number of the session, the node that sends, and the key before. -/
opaque linkKey : Nat → Nat → BitVec 256
opaque nextKey : BitVec 256 → BitVec 256

/-- What the spec gives no number for (log entry 4): the credits of a torus channel once its link is up (R230), the repairs a stack
has left (R411), and what a sensor reads (R422). -/
opaque linkCredits : Nat → Nat → Nat
opaque repairs : Nat → Nat
opaque sensor : Nat → Nat → Nat

/-- How manufacture left a stop's seven sites (R1; log entry 28): which is its spare, whether the part enables five, and then which one
is fused off, counted from the site after the spare. -/
opaque spareSite : Nat → Nat
opaque fiveSites : Bool
opaque fusedSite : Nat → Nat
/-- The class of a site as made: 0 enabled, 1 spare, 2 fused off. -/
def madeClass (n : Nat) : Nat :=
  let sp := spareSite (n / 8) % 7
  if n % 8 = sp then 1 else if fiveSites && n % 8 == (sp + 1 + fusedSite (n / 8) % 6) % 7 then 2 else 0

/-- Text words of a core's text store (R11). -/
def textWords : Nat := 16384
/-- Entries of the K journal (R17), tokens a queue holds (R19), depths of the data queues (R22). -/
def journalDepth : Nat := 32
def tokenMax : Nat := 15
def lqDepth : Nat := 16
def sqDepth : Nat := 16
def refDepth : Nat := 8
def fqDepth : Nat := 8
def stackDepth : Nat := 8
/-- Port commands in the queue (R147), shape records and boundary windows cached (R162). -/
def portDepth : Nat := 32
def shapeCount : Nat := 16
def windowCount : Nat := 64
/-- Translation and walk cache entries (R338). -/
def tcCount : Nat := 256
def walkCount : Nat := 16
/-- Launch queue, collective queue, page record queues, monitors of a slice, Stile records (R34, R241, R345, R134, R420). -/
def launchDepth : Nat := 256
def collDepth : Nat := 64
def pageDepth : Nat := 64
def monitorCount : Nat := 256
def stileCount : Nat := 256
/-- Cycles of mutual stall, of a carry timer, of a multicast (R45, R174, R178). -/
def stallLimit : Nat := 2 ^ 20
def retryCycles : Nat := 1024
def mcastCycles : Nat := 40
/-- First row of the carry tile (R153). -/
def carryRow : Nat := 8128

end Sys2Proof.Config
end

