-- ==== Sys2Proof/WellFormed.lean ====
section
/-! DEFINITION. Which terms of Instr are instructions: the limits the layouts and code tables put on their fields
(R20, R93, R94, R96, R99, R101, R234, R245), and the ranges of the object numbers that commands and events name. -/

namespace Sys2Proof

/-- A wait or signal may not name the executing engine (R20). -/
def tokOk (own : Engine) (t : Tok) : Bool := t != some own

/-- A K pair is named by its even register (R94). -/
def evenK (k : KR) : Bool := k.val % 2 == 0

/-- With the code always, KN is 0 (R96). -/
def kccOk (k : KR) (c : Kcc) : Bool := c != .always || k.val == 0

/-- The registers of MTSR that have a row of their own in the operation table. -/
def ownRow (n : BitVec 11) : Bool := n == 0x001 || n == 0x006 || n == 0x010 || n == 0x012

/-- The fields of a format word that FMTW checks (R100, R141). -/
def fmtwOk (fw : W32) : Bool := fld fw 31 1 == 0 && decide (fld fw 0 4 < 10) && decide (fld fw 4 4 < 10)

/-- The number of partitions (R353). -/
def partOk (p : Nat) : Bool := decide (p < 48)
/-- The number of virtual functions (R357). -/
def vfOk (v : Nat) : Bool := decide (v < 192)
/-- A logical core of a partition (R332, R353). -/
def coreOk (c : CoreId) : Bool := partOk c.part && decide (c.num < 384)
def unitOk (u : ErrUnit) : Bool := match u with
  | .core c => coreOk c
  | .line _ => true
  | .saved c _ => coreOk c
  | .windows p => partOk p
/-- The number of slices (R388). -/
def sliceOk (s : Nat) : Bool := decide (s < 256)

/-- The check of every constructor. -/
def Instr.wellFormed : Instr → Bool
  | .brk k c _ => kccOk k c
  | .brK k c _ => kccOk k c
  | .add w g _ _ _ => tokOk .s w && tokOk .s g
  | .addImm w g _ _ _ => tokOk .s w && tokOk .s g
  | .sub w g _ _ _ => tokOk .s w && tokOk .s g
  | .subImm w g _ _ _ => tokOk .s w && tokOk .s g
  | .and w g _ _ _ => tokOk .s w && tokOk .s g
  | .andImm w g _ _ _ => tokOk .s w && tokOk .s g
  | .or w g _ _ _ => tokOk .s w && tokOk .s g
  | .orImm w g _ _ _ => tokOk .s w && tokOk .s g
  | .xor w g _ _ _ => tokOk .s w && tokOk .s g
  | .xorImm w g _ _ _ => tokOk .s w && tokOk .s g
  | .andn w g _ _ _ => tokOk .s w && tokOk .s g
  | .andnImm w g _ _ _ => tokOk .s w && tokOk .s g
  | .shl w g _ _ _ => tokOk .s w && tokOk .s g
  | .shlImm w g _ _ _ => tokOk .s w && tokOk .s g
  | .shr w g _ _ _ => tokOk .s w && tokOk .s g
  | .shrImm w g _ _ _ => tokOk .s w && tokOk .s g
  | .sra w g _ _ _ => tokOk .s w && tokOk .s g
  | .sraImm w g _ _ _ => tokOk .s w && tokOk .s g
  | .mul w g _ _ _ => tokOk .s w && tokOk .s g
  | .mulImm w g _ _ _ => tokOk .s w && tokOk .s g
  | .mulh w g _ _ _ => tokOk .s w && tokOk .s g
  | .mulhImm w g _ _ _ => tokOk .s w && tokOk .s g
  | .div w g _ _ _ => tokOk .s w && tokOk .s g
  | .divImm w g _ _ _ => tokOk .s w && tokOk .s g
  | .rem w g _ _ _ => tokOk .s w && tokOk .s g
  | .remImm w g _ _ _ => tokOk .s w && tokOk .s g
  | .min w g _ _ _ => tokOk .s w && tokOk .s g
  | .minImm w g _ _ _ => tokOk .s w && tokOk .s g
  | .max w g _ _ _ => tokOk .s w && tokOk .s g
  | .maxImm w g _ _ _ => tokOk .s w && tokOk .s g
  | .sel w g _ _ _ => tokOk .s w && tokOk .s g
  | .selImm w g _ _ _ => tokOk .s w && tokOk .s g
  | .cmpEq w g _ _ _ => tokOk .s w && tokOk .s g
  | .cmpEqImm w g _ _ _ => tokOk .s w && tokOk .s g
  | .cmpNe w g _ _ _ => tokOk .s w && tokOk .s g
  | .cmpNeImm w g _ _ _ => tokOk .s w && tokOk .s g
  | .cmpLt w g _ _ _ => tokOk .s w && tokOk .s g
  | .cmpLtImm w g _ _ _ => tokOk .s w && tokOk .s g
  | .cmpGe w g _ _ _ => tokOk .s w && tokOk .s g
  | .cmpGeImm w g _ _ _ => tokOk .s w && tokOk .s g
  | .cmpLtu w g _ _ _ => tokOk .s w && tokOk .s g
  | .cmpLtuImm w g _ _ _ => tokOk .s w && tokOk .s g
  | .cmpGeu w g _ _ _ => tokOk .s w && tokOk .s g
  | .cmpGeuImm w g _ _ _ => tokOk .s w && tokOk .s g
  | .li w g _ _ => tokOk .s w && tokOk .s g
  | .liLong w g _ _ => tokOk .s w && tokOk .s g
  | .liHi w g _ _ => tokOk .s w && tokOk .s g
  | .movk w g _ _ => tokOk .s w && tokOk .s g
  | .movkImm w g _ _ => tokOk .s w && tokOk .s g
  | .movx w g _ _ => tokOk .s w && tokOk .s g
  | .clz w g _ _ => tokOk .s w && tokOk .s g
  | .popc w g _ _ => tokOk .s w && tokOk .s g
  | .bfx w g _ _ wm1 pos => tokOk .s w && tokOk .s g && decide (pos.val + wm1.val + 1 ≤ 64)
  | .bfi w g _ _ wm1 pos => tokOk .s w && tokOk .s g && decide (pos.val + wm1.val + 1 ≤ 64)
  | .ld w g _ _ _ _ => tokOk .s w && tokOk .s g
  | .ldOffset w g _ _ _ _ _ => tokOk .s w && tokOk .s g
  | .st w g _ _ _ _ => tokOk .s w && tokOk .s g
  | .stOffset w g _ _ _ _ _ => tokOk .s w && tokOk .s g
  | .amoAdd w g _ _ _ _ => tokOk .s w && tokOk .s g
  | .amoAddClass w g _ _ _ _ _ => tokOk .s w && tokOk .s g
  | .amoFadd w g _ _ _ => tokOk .s w && tokOk .s g
  | .amoFaddClass w g _ _ _ _ => tokOk .s w && tokOk .s g
  | .amoMin w g _ _ _ _ => tokOk .s w && tokOk .s g
  | .amoMinClass w g _ _ _ _ _ => tokOk .s w && tokOk .s g
  | .amoMax w g _ _ _ _ => tokOk .s w && tokOk .s g
  | .amoMaxClass w g _ _ _ _ _ => tokOk .s w && tokOk .s g
  | .amoFmin w g _ _ _ => tokOk .s w && tokOk .s g
  | .amoFminClass w g _ _ _ _ => tokOk .s w && tokOk .s g
  | .amoFmax w g _ _ _ => tokOk .s w && tokOk .s g
  | .amoFmaxClass w g _ _ _ _ => tokOk .s w && tokOk .s g
  | .amoAnd w g _ _ _ _ => tokOk .s w && tokOk .s g
  | .amoAndClass w g _ _ _ _ _ => tokOk .s w && tokOk .s g
  | .amoOr w g _ _ _ _ => tokOk .s w && tokOk .s g
  | .amoOrClass w g _ _ _ _ _ => tokOk .s w && tokOk .s g
  | .amoXor w g _ _ _ _ => tokOk .s w && tokOk .s g
  | .amoXorClass w g _ _ _ _ _ => tokOk .s w && tokOk .s g
  | .amoSwap w g _ _ _ _ => tokOk .s w && tokOk .s g
  | .amoSwapClass w g _ _ _ _ _ => tokOk .s w && tokOk .s g
  | .amoCas w g _ _ _ _ => tokOk .s w && tokOk .s g
  | .amoCasClass w g _ _ _ _ _ => tokOk .s w && tokOk .s g
  | .fenceC w g _ _ => tokOk .s w && tokOk .s g
  | .waitm w g _ _ _ => tokOk .s w && tokOk .s g
  | .waitmLong w g _ _ _ _ => tokOk .s w && tokOk .s g
  | .bar w g _ _ _ => tokOk .s w && tokOk .s g
  | .barinit w g _ _ _ => tokOk .s w && tokOk .s g
  | .barinitImm w g _ _ _ => tokOk .s w && tokOk .s g
  | .barkill w g _ _ => tokOk .s w && tokOk .s g
  | .curNext w g _ => tokOk .s w && tokOk .s g
  | .tlaunch w g _ _ => tokOk .s w && tokOk .s g
  | .fmtw w g _ => tokOk .s w && tokOk .s g
  | .rmode w g _ => tokOk .s w && tokOk .s g
  | .trap w g _ => tokOk .s w && tokOk .s g
  | .eret w g => tokOk .s w && tokOk .s g
  | .mfsr w g _ _ => tokOk .s w && tokOk .s g
  | .ttbWrite w g _ => tokOk .s w && tokOk .s g
  | .nflWrite w g _ => tokOk .s w && tokOk .s g
  | .hvecWrite w g _ => tokOk .s w && tokOk .s g
  | .bkptWrite w g _ => tokOk .s w && tokOk .s g
  | .fmtwImm w g fw => tokOk .s w && tokOk .s g && fmtwOk fw
  | .mtsr w g _ n => tokOk .s w && tokOk .s g && !ownRow n
  | .slipWrite c _ => coreOk c
  | .precfgWrite c _ => coreOk c
  | .tld w g _ _ _ _ _ _ => tokOk .a w && tokOk .a g
  | .tst w g _ _ _ _ _ _ => tokOk .a w && tokOk .a g
  | .tcpy w g _ _ _ _ _ _ => tokOk .a w && tokOk .a g
  | .tcpyo w g _ _ _ _ _ => tokOk .a w && tokOk .a g
  | .spld w g _ _ => tokOk .a w && tokOk .a g
  | .spldK w g _ _ _ _ => tokOk .a w && tokOk .a g
  | .spst w g _ _ => tokOk .a w && tokOk .a g
  | .spstK w g _ _ _ _ => tokOk .a w && tokOk .a g
  | .tref w g _ _ _ => tokOk .a w && tokOk .a g
  | .flushc w g => tokOk .a w && tokOk .a g
  | .waitany w g _ _ => tokOk .a w && tokOk .a g
  | .waitall w g _ _ => tokOk .a w && tokOk .a g
  | .ffr w g _ _ _ => tokOk .a w && tokOk .a g
  | .shpub w g _ _ => tokOk .a w && tokOk .a g
  | .shinv w g _ => tokOk .a w && tokOk .a g
  | .bind w g _ _ _ => tokOk .a w && tokOk .a g
  | .bindOff w g _ => tokOk .a w && tokOk .a g
  | .gath w g ka _ _ _ _ _ => tokOk .a w && tokOk .a g && evenK ka
  | .scat w g ka _ _ _ _ _ => tokOk .a w && tokOk .a g && evenK ka
  | .aacc w g ka _ _ _ => tokOk .a w && tokOk .a g && evenK ka
  | .aaccOffset w g ka _ _ _ _ => tokOk .a w && tokOk .a g && evenK ka
  | .sumst w g ka _ _ _ => tokOk .a w && tokOk .a g && evenK ka
  | .sumstOffset w g ka _ _ _ _ => tokOk .a w && tokOk .a g && evenK ka
  | .mcast w g ka _ _ _ => tokOk .a w && tokOk .a g && evenK ka
  | .mcastOffset w g ka _ _ _ _ => tokOk .a w && tokOk .a g && evenK ka
  | .pref w g ka _ _ _ => tokOk .a w && tokOk .a g && evenK ka
  | .prefOffset w g ka _ _ _ _ => tokOk .a w && tokOk .a g && evenK ka
  | .waitanyK w g km => tokOk .a w && tokOk .a g && evenK km
  | .waitallK w g km => tokOk .a w && tokOk .a g && evenK km
  | .ffrK w g km _ => tokOk .a w && tokOk .a g && evenK km
  | .vadd w g _ _ _ => tokOk .v w && tokOk .v g
  | .vaddImm w g _ _ _ => tokOk .v w && tokOk .v g
  | .vsub w g _ _ _ => tokOk .v w && tokOk .v g
  | .vsubImm w g _ _ _ => tokOk .v w && tokOk .v g
  | .vmul w g _ _ _ => tokOk .v w && tokOk .v g
  | .vmulImm w g _ _ _ => tokOk .v w && tokOk .v g
  | .vfma w g _ _ _ => tokOk .v w && tokOk .v g
  | .vfmaImm w g _ _ _ => tokOk .v w && tokOk .v g
  | .vmin w g _ _ _ => tokOk .v w && tokOk .v g
  | .vminImm w g _ _ _ => tokOk .v w && tokOk .v g
  | .vmax w g _ _ _ => tokOk .v w && tokOk .v g
  | .vmaxImm w g _ _ _ => tokOk .v w && tokOk .v g
  | .vand w g _ _ _ => tokOk .v w && tokOk .v g
  | .vandImm w g _ _ _ => tokOk .v w && tokOk .v g
  | .vor w g _ _ _ => tokOk .v w && tokOk .v g
  | .vorImm w g _ _ _ => tokOk .v w && tokOk .v g
  | .vxor w g _ _ _ => tokOk .v w && tokOk .v g
  | .vxorImm w g _ _ _ => tokOk .v w && tokOk .v g
  | .vshl w g _ _ _ => tokOk .v w && tokOk .v g
  | .vshlImm w g _ _ _ => tokOk .v w && tokOk .v g
  | .vshr w g _ _ _ => tokOk .v w && tokOk .v g
  | .vshrImm w g _ _ _ => tokOk .v w && tokOk .v g
  | .viadd w g _ _ _ => tokOk .v w && tokOk .v g
  | .viaddImm w g _ _ _ => tokOk .v w && tokOk .v g
  | .vimul w g _ _ _ => tokOk .v w && tokOk .v g
  | .vimulImm w g _ _ _ => tokOk .v w && tokOk .v g
  | .vcmpEq w g _ _ _ => tokOk .v w && tokOk .v g
  | .vcmpEqImm w g _ _ _ => tokOk .v w && tokOk .v g
  | .vcmpNe w g _ _ _ => tokOk .v w && tokOk .v g
  | .vcmpNeImm w g _ _ _ => tokOk .v w && tokOk .v g
  | .vcmpLt w g _ _ _ => tokOk .v w && tokOk .v g
  | .vcmpLtImm w g _ _ _ => tokOk .v w && tokOk .v g
  | .vcmpLe w g _ _ _ => tokOk .v w && tokOk .v g
  | .vcmpLeImm w g _ _ _ => tokOk .v w && tokOk .v g
  | .vcmpGt w g _ _ _ => tokOk .v w && tokOk .v g
  | .vcmpGtImm w g _ _ _ => tokOk .v w && tokOk .v g
  | .vcmpGe w g _ _ _ => tokOk .v w && tokOk .v g
  | .vcmpGeImm w g _ _ _ => tokOk .v w && tokOk .v g
  | .vcmpUn w g _ _ _ => tokOk .v w && tokOk .v g
  | .vcmpUnImm w g _ _ _ => tokOk .v w && tokOk .v g
  | .vabs w g _ _ => tokOk .v w && tokOk .v g
  | .vneg w g _ _ => tokOk .v w && tokOk .v g
  | .vrcp w g _ _ => tokOk .v w && tokOk .v g
  | .vrsq w g _ _ => tokOk .v w && tokOk .v g
  | .vexp2 w g _ _ => tokOk .v w && tokOk .v g
  | .vlog2 w g _ _ => tokOk .v w && tokOk .v g
  | .vcvt w g _ _ _ _ _ => tokOk .v w && tokOk .v g
  | .vpackq w g _ _ _ _ _ => tokOk .v w && tokOk .v g
  | .vfxc w g _ _ _ _ _ => tokOk .v w && tokOk .v g
  | .vunpq w g _ _ => tokOk .v w && tokOk .v g
  | .vsel w g _ _ _ => tokOk .v w && tokOk .v g
  | .vbcast w g _ _ _ => tokOk .v w && tokOk .v g
  | .vperm w g _ _ _ => tokOk .v w && tokOk .v g
  | .vshuf w g _ _ _ => tokOk .v w && tokOk .v g
  | .vred w g _ _ _ _ => tokOk .v w && tokOk .v g
  | .vscan w g _ _ _ _ => tokOk .v w && tokOk .v g
  | .vnorm w g _ _ _ _ => tokOk .v w && tokOk .v g
  | .vsmax w g _ _ => tokOk .v w && tokOk .v g
  | .vpop w g _ _ => tokOk .v w && tokOk .v g
  | .vpush w g _ _ => tokOk .v w && tokOk .v g
  | .vaccrd w g _ _ _ _ => tokOk .v w && tokOk .v g
  | .vaccrdK w g _ _ _ _ _ _ => tokOk .v w && tokOk .v g
  | .vaccwr w g _ _ _ _ => tokOk .v w && tokOk .v g
  | .vaccwrK w g _ _ _ _ _ _ => tokOk .v w && tokOk .v g
  | .vsetsh w g _ => tokOk .v w && tokOk .v g
  | .vidx w g _ _ => tokOk .v w && tokOk .v g
  | .mma w g => tokOk .m w && tokOk .m g
  | .mmaStamp w g _ => tokOk .m w && tokOk .m g
  | .mmat w g => tokOk .m w && tokOk .m g
  | .mmatStamp w g _ => tokOk .m w && tokOk .m g
  | .mzero w g _ => tokOk .m w && tokOk .m g
  | .mload w g _ _ => tokOk .m w && tokOk .m g
  | .msave w g _ _ => tokOk .m w && tokOk .m g
  | .mprog w g _ => tokOk .m w && tokOk .m g
  | .pbuild w g ka _ => tokOk .p w && tokOk .p g && evenK ka
  | .pcountWait w g ka _ => tokOk .p w && tokOk .p g && evenK ka
  | .precv w g ka => tokOk .p w && tokOk .p g && evenK ka
  | .pcoll w g ka => tokOk .p w && tokOk .p g && evenK ka
  | .pparkRd w g ka _ => tokOk .p w && tokOk .p g && evenK ka
  | .psend w g bc ben _ => tokOk .p w && tokOk .p g && (ben || bc.val == 0)
  | .pcountWaitImm w g _ _ => tokOk .p w && tokOk .p g
  | .pcountRd w g _ _ => tokOk .p w && tokOk .p g
  | .presume w g _ => tokOk .p w && tokOk .p g
  | .pdrop w g _ => tokOk .p w && tokOk .p g
  | .presumeOptions w g ka _ _ npc newpc loadw => tokOk .p w && tokOk .p g && evenK ka && (loadw || ka.val == 0) && (newpc || npc.val == 0)
  | .jz o => o.val != 0
  | .jnz o => o.val != 0
  | .partCreate h _ _ _ _ _ => partOk h.part
  | .partDestroy h => partOk h.part
  | .partResize h _ _ _ => partOk h.part
  | .partLimits h _ => partOk h.part
  | .partGate h => partOk h.part
  | .partGen h => partOk h.part
  | .vfAssign _ vfn part _ _ _ _ => vfOk vfn && partOk part
  | .vfReset h _ => vfOk h.vfn
  | .vfWeight h weight => vfOk h.vfn && decide (weight < 256)
  | .vfS1root h _ => vfOk h.vfn
  | .taskRecordCheck vf => vfOk vf
  | .taskStart vf => vfOk vf
  | .deficitExhausted vf => vfOk vf
  | .collectivePlanning vf => vfOk vf
  | .collectiveStep vf => vfOk vf
  | .collectiveEnd vf => vfOk vf
  | .pageRecordEnqueue vf => vfOk vf
  | .jobHandout c => coreOk c
  | .softRequestArrival c => coreOk c
  | .graceExpiry c => coreOk c
  | .killExpiry c => coreOk c
  | .contextSave c => coreOk c
  | .contextStop c => coreOk c
  | .mutualStall c => coreOk c
  | .copyCompletion c => coreOk c
  | .homeApply c _ => coreOk c
  | .carryResend c e => coreOk c && decide (e < 64)
  | .monitorEvent c _ => coreOk c
  | .monitorTimeout c => coreOk c
  | .stampIssue c => coreOk c
  | .kstep c => coreOk c
  | .mWordFinish c => coreOk c
  | .frameEdge c => coreOk c
  | .sealWindow c => coreOk c
  | .breakpointHit c => coreOk c
  | .poisonedRead c _ => coreOk c
  | .bankGroupMapChange c _ => coreOk c
  | .aaccApply s => sliceOk s
  | .heldPacketEntry s => sliceOk s
  | .sliceService s => sliceOk s
  | .scrubComplete p => partOk p
  | .ungate p => partOk p
  | .dispatcherRound p => partOk p
  | .meshArbitration die stop _ => decide (die < 4) && decide (stop < 16)
  | .ringInsertion die station lane => decide (die < 4) && decide (station < 103) && decide (lane < 4)
  | .loop _ _ => true
  | .loopCount _ _ => true
  | .endl => true
  | .jmp _ => true
  | .call _ => true
  | .ret => true
  | .nopa => true
  | .halt => true
  | .ppoint _ _ => true
  | .jobnext => true
  | .mctlWrite _ _ => true
  | .errandPushi _ => true
  | .errandPushw _ => true
  | .errandPopw _ => true
  | .errandDup => true
  | .errandSwap => true
  | .errandDrop => true
  | .errandAdd => true
  | .errandSub => true
  | .errandAnd => true
  | .errandOr => true
  | .errandXor => true
  | .errandShl => true
  | .errandShr => true
  | .errandCmpeq => true
  | .errandCmplt => true
  | .ctrRd _ => true
  | .ctrAdd _ => true
  | .ctrTest _ => true
  | .scrRd _ => true
  | .scrAdd _ => true
  | .scrCas _ => true
  | .clone _ => true
  | .dir _ => true
  | .dirPop => true
  | .dirmin => true
  | .dirload => true
  | .bud => true
  | .deliv => true
  | .dropk => true
  | .park _ => true
  | .fwd => true
  | .progLoad _ _ _ _ _ _ => true
  | .taskLaunch _ _ => true
  | .taskCancel _ _ => true
  | .memRead _ _ _ => true
  | .memWrite _ _ _ => true
  | .ctxResume _ _ => true
  | .pageReply _ _ => true
  | .migStart _ _ _ => true
  | .migStop _ => true
  | .evidence _ _ _ => true
  | .labelSet _ _ _ => true
  | .stileInstall _ _ => true
  | .stileRevoke _ _ => true
  | .rotaSet _ _ _ _ => true
  | .slotReserve _ _ _ => true
  | .slotRelease _ _ => true
  | .replayArm _ _ => true
  | .replayDump _ => true
  | .spareSwap _ _ => true
  | .telemetryRead _ _ _ _ => true
  | .trustAnchor _ _ => true
  | .taskCompletion _ => true
  | .contextResume _ => true
  | .aaccArrival _ => true
  | .quotaWindowStart => true
  | .refusalReceipt _ => true
  | .mcastTargetWrite _ => true
  | .boundEntryArrival _ => true
  | .crossroadsEntry _ => true
  | .packetHop _ => true
  | .escapeTimeout _ => true
  | .stuckTimeout _ => true
  | .packetDelivery _ => true
  | .parkArrival _ => true
  | .combineArrival _ => true
  | .reservationRequest _ => true
  | .slotGrant => true
  | .slotFreeNotice _ => true
  | .leaseExpiry _ => true
  | .linkTraining _ _ => true
  | .flitTagFailure _ => true
  | .flitCountKeyUpdate _ => true
  | .heartbeatMissed _ => true
  | .linkRetry _ _ => true
  | .managementWatchdog _ => true
  | .eccCorrection _ => true
  | .uncorrectableError u => unitOk u
  | .powerStep _ => true
  | .thermalThrottle _ _ => true
  | .thermalShutdown _ _ => true
  | .coolantFlowLow _ => true
  | .bringUp _ => true
  | .replayDivergence => true
  | .illegalWord _ => true
  | .throttleRelease _ _ => true

end Sys2Proof
end

