-- ==== Sys2Proof/Decode.lean ====
section
/-! DEFINITION. The decoder of text words (R90 to R106) and of errand instructions (R245), total and rejecting by name,
and the encoder written from the same tables. -/

namespace Sys2Proof

/-! ### Field codes -/

/-- An engine's token code and tag number (R11, R19). -/
def Engine.tokCode : Engine → Nat
  | .s => 1 | .a => 2 | .v => 3 | .m => 4 | .p => 5
def Engine.tag : Engine → Nat
  | .s => 0 | .a => 1 | .v => 2 | .m => 3 | .p => 4
/-- An engine's place in the order S, A, V, M, P. -/
def Engine.ix : Engine → Fin 5
  | .s => 0 | .a => 1 | .v => 2 | .m => 3 | .p => 4

def Tok.code (t : Tok) : Nat := match t with
  | none => 0
  | some e => e.tokCode

/-- A token field of an own word (R19, R20). -/
def tokField (own : Engine) : Nat → Except Reject Tok
  | 0 => .ok none
  | 1 => if own = .s then .error .tokenField else .ok (some .s)
  | 2 => if own = .a then .error .tokenField else .ok (some .a)
  | 3 => if own = .v then .error .tokenField else .ok (some .v)
  | 4 => if own = .m then .error .tokenField else .ok (some .m)
  | 5 => if own = .p then .error .tokenField else .ok (some .p)
  | _ => .error .tokenField

def RMode.code : RMode → Nat
  | .rne => 0 | .rtz => 1 | .rup => 2 | .rdn => 3 | .rna => 4
def RMode.ofCode : Nat → Option RMode
  | 0 => some .rne | 1 => some .rtz | 2 => some .rup | 3 => some .rdn | 4 => some .rna | _ => none
def Lvl.code : Lvl → Nat
  | .core => 0 | .hamlet => 1 | .die => 2 | .module => 3 | .group => 4
def Lvl.ofCode : Nat → Option Lvl
  | 0 => some .core | 1 => some .hamlet | 2 => some .die | 3 => some .module | 4 => some .group | _ => none
def Kcc.code : Kcc → Nat
  | .eq => 0 | .ne => 1 | .lt => 2 | .ge => 3 | .gt => 4 | .le => 5 | .always => 7
def Kcc.ofCode : Nat → Option Kcc
  | 0 => some .eq | 1 => some .ne | 2 => some .lt | 3 => some .ge | 4 => some .gt | 5 => some .le | 7 => some .always
  | _ => none
def Sz.code : Sz → Nat
  | .b => 0 | .h => 1 | .w => 2 | .d => 3
def Sz.ofCode : Nat → Sz
  | 0 => .b | 1 => .h | 2 => .w | _ => .d
/-- The size in bytes. -/
def Sz.bytes (z : Sz) : Nat := 2 ^ z.code
def Seg.code : Seg → Nat
  | .strict => 0 | .segment => 1
def Seg.ofCode : Nat → Option Seg
  | 0 => some .strict | 1 => some .segment | _ => none
def RedOp.code : RedOp → Nat
  | .sum => 0 | .max => 1 | .min => 2
def RedOp.ofCode : Nat → Option RedOp
  | 0 => some .sum | 1 => some .max | 2 => some .min | _ => none
def NormKind.code : NormKind → Nat
  | .rms => 0 | .mv => 1
def NormKind.ofCode : Nat → Option NormKind
  | 0 => some .rms | 1 => some .mv | _ => none

/-- The QS code of a destination and the ROW beside it (R97, R155). -/
def DstSel.code : DstSel → Nat × Nat
  | .rows r => (0, r.val)
  | .lq q => (4 + q.val, 0)
def DstSel.ofCode (qs row : Nat) : Except Reject DstSel :=
  if qs = 0 then .ok (.rows (Fin.ofNat 8192 row))
  else if 4 ≤ qs then (if row = 0 then .ok (.lq (Fin.ofNat 4 (qs - 4))) else .error .reservedField)
  else .error .reservedCode
def SrcSel.code : SrcSel → Nat × Nat
  | .rows r => (0, r.val)
  | .sq q => (2 + q.val, 0)
def SrcSel.ofCode (qs row : Nat) : Except Reject SrcSel :=
  if qs = 0 then .ok (.rows (Fin.ofNat 8192 row))
  else if qs = 2 ∨ qs = 3 then (if row = 0 then .ok (.sq (Fin.ofNat 2 (qs - 2))) else .error .reservedField)
  else .error .reservedCode

/-! ### The decoder -/

/-- An n-valued register or index field that starts at bit lo. -/
def ix (n : Nat) [NeZero n] (w : W32) (lo : Nat) : Fin n := Fin.ofNat n (w.toNat / 2 ^ lo)
/-- One bit as a Bool. -/
def bit (w : W32) (lo : Nat) : Bool := fld w lo 1 == 1

/-- The instruction, if every fixed field is as its layout says; otherwise the first field that is not, by name. -/
def require : List (Bool × Reject) → Instr → Except Reject Instr
  | [], i => .ok i
  | (true, _) :: cs, i => require cs i
  | (false, r) :: _, _ => .error r

/-- A code field that its table may mark reserved (R93 item 4). -/
def codedAs {α : Type} (r : Reject) (x : Option α) (f : α → Except Reject Instr) : Except Reject Instr :=
  match x with
  | some a => f a
  | none => .error r
def coded {α : Type} (x : Option α) (f : α → Except Reject Instr) : Except Reject Instr := codedAs .reservedCode x f

/-- The control words (R98). A word whose KCC is always has KN 0. -/
def decodeAll (w ext : W32) : Except Reject Instr :=
  let long := bit w 22
  let tok := (fld w 23 6 == 0, Reject.tokenField)
  let short := (!long, Reject.longForm)
  let opnd0 := (fld w 0 16 == 0, Reject.reservedField)
  let k := ix 16 w 12
  match fld w 16 6 with
  | 0x01 =>
    if bit w 11 then require [tok, short] (.loop k (ix 2048 w 0))
    else require [tok, (long, .longForm), (fld w 12 4 == 0, .reservedField)] (.loopCount (ix 2048 w 0) ext)
  | 0x02 => require [tok, short, opnd0] .endl
  | 0x03 => coded (Kcc.ofCode (fld w 9 3)) fun c =>
    require [tok, short, (fld w 3 6 == 0, .reservedField), (kccOk k c, .reservedField)] (.brk k c (ix 8 w 0))
  | 0x04 => require [tok, short, (fld w 15 1 == 0, .reservedField)] (.jmp (w.extractLsb' 0 15))
  | 0x05 => coded (Kcc.ofCode (fld w 9 3)) fun c =>
    require [tok, short, (kccOk k c, .reservedField)] (.brK k c (w.extractLsb' 0 9))
  | 0x06 => require [tok, short, (fld w 15 1 == 0, .reservedField)] (.call (w.extractLsb' 0 15))
  | 0x07 => require [tok, short, opnd0] .ret
  | 0x08 => require [tok, short, opnd0] .nopa
  | 0x09 => require [tok, short, opnd0] .halt
  | 0x0A => require [tok, short, (fld w 12 4 == 0, .reservedField)] (.ppoint (w.extractLsb' 4 8) (w.extractLsb' 0 4))
  | 0x0B => require [tok, short, opnd0] .jobnext
  | _ => .error .unassigned

/-- The short and the long form of an SR word (R99). -/
def srForm (w : W32) (short long : Instr) : Except Reject Instr :=
  if bit w 22 then require [(fld w 0 6 == 0, .reservedField)] long
  else require [(fld w 0 1 == 0, .reservedField)] short

/-- The sequencer words (R99, R100) whose token fields have been read. -/
def decodeS (wt g : Tok) (w ext : W32) : Except Reject Instr :=
  let long := bit w 22
  let isShort := (!long, Reject.longForm)
  let isLong := (long, Reject.longForm)
  let d : XR := ix 32 w 11
  let a : XR := ix 32 w 6
  let b : XR := ix 32 w 1
  let xb0 := (fld w 1 5 == 0, Reject.reservedField)
  let bit0 := (fld w 0 1 == 0, Reject.reservedField)
  let low6 := (fld w 0 6 == 0, Reject.reservedField)
  let mid5 := (fld w 6 5 == 0, Reject.reservedField)
  let top5 := (fld w 11 5 == 0, Reject.reservedField)
  let ocl : Ocl := ix 16 w 2
  let z := Sz.ofCode (fld w 0 2)
  let cl : Ocl := ix 16 ext 0
  let ext4 := (fld ext 4 28 == 0, Reject.reservedField)
  let w32 := bit w 0
  match fld w 16 6 with
  | 0x01 => srForm w (.add wt g d a b) (.addImm wt g d a ext)
  | 0x02 => srForm w (.sub wt g d a b) (.subImm wt g d a ext)
  | 0x03 => srForm w (.and wt g d a b) (.andImm wt g d a ext)
  | 0x04 => srForm w (.or wt g d a b) (.orImm wt g d a ext)
  | 0x05 => srForm w (.xor wt g d a b) (.xorImm wt g d a ext)
  | 0x06 => srForm w (.andn wt g d a b) (.andnImm wt g d a ext)
  | 0x07 => srForm w (.shl wt g d a b) (.shlImm wt g d a ext)
  | 0x08 => srForm w (.shr wt g d a b) (.shrImm wt g d a ext)
  | 0x09 => srForm w (.sra wt g d a b) (.sraImm wt g d a ext)
  | 0x0A => srForm w (.mul wt g d a b) (.mulImm wt g d a ext)
  | 0x0B => srForm w (.mulh wt g d a b) (.mulhImm wt g d a ext)
  | 0x0C => srForm w (.div wt g d a b) (.divImm wt g d a ext)
  | 0x0D => srForm w (.rem wt g d a b) (.remImm wt g d a ext)
  | 0x0E => srForm w (.min wt g d a b) (.minImm wt g d a ext)
  | 0x0F => srForm w (.max wt g d a b) (.maxImm wt g d a ext)
  | 0x10 => srForm w (.sel wt g d a b) (.selImm wt g d a ext)
  | 0x11 =>
    if long then
      if bit w 0 then require [(fld w 1 10 == 0, .reservedField)] (.liHi wt g d ext)
      else require [(fld w 1 10 == 0, .reservedField)] (.liLong wt g d ext)
    else .ok (.li wt g d (w.extractLsb' 0 11))
  | 0x12 =>
    if long then require [top5, mid5, (fld w 4 2 == 0, .reservedField)] (.movkImm wt g (ix 16 w 0) ext)
    else require [top5, (fld w 4 2 == 0, .reservedField)] (.movk wt g a (ix 16 w 0))
  | 0x13 => require [isShort, mid5, (fld w 4 2 == 0, .reservedField)] (.movx wt g d (ix 16 w 0))
  | 0x14 => require [isShort, low6] (.clz wt g d a)
  | 0x15 => require [isShort, low6] (.popc wt g d a)
  | 0x16 => require [isLong, low6, (fld ext 12 20 == 0, .reservedField),
      (decide (fld ext 0 6 + fld ext 6 6 + 1 ≤ 64), .fieldLimit)] (.bfx wt g d a (ix 64 ext 6) (ix 64 ext 0))
  | 0x17 => require [isLong, low6, (fld ext 12 20 == 0, .reservedField),
      (decide (fld ext 0 6 + fld ext 6 6 + 1 ≤ 64), .fieldLimit)] (.bfi wt g d a (ix 64 ext 6) (ix 64 ext 0))
  | 0x18 => srForm w (.cmpEq wt g d a b) (.cmpEqImm wt g d a ext)
  | 0x19 => srForm w (.cmpNe wt g d a b) (.cmpNeImm wt g d a ext)
  | 0x1A => srForm w (.cmpLt wt g d a b) (.cmpLtImm wt g d a ext)
  | 0x1B => srForm w (.cmpGe wt g d a b) (.cmpGeImm wt g d a ext)
  | 0x1C => srForm w (.cmpLtu wt g d a b) (.cmpLtuImm wt g d a ext)
  | 0x1D => srForm w (.cmpGeu wt g d a b) (.cmpGeuImm wt g d a ext)
  | 0x20 => .ok (if long then .ldOffset wt g d a ocl z ext else .ld wt g d a ocl z)
  | 0x21 => .ok (if long then .stOffset wt g d a ocl z ext else .st wt g d a ocl z)
  | 0x22 => if long then require [ext4] (.amoAddClass wt g d a b w32 cl) else .ok (.amoAdd wt g d a b w32)
  | 0x23 => if long then require [(w32, .reservedField), ext4] (.amoFaddClass wt g d a b cl) else require [(w32, .reservedField)] (.amoFadd wt g d a b)
  | 0x24 => if long then require [ext4] (.amoMinClass wt g d a b w32 cl) else .ok (.amoMin wt g d a b w32)
  | 0x25 => if long then require [ext4] (.amoMaxClass wt g d a b w32 cl) else .ok (.amoMax wt g d a b w32)
  | 0x26 => if long then require [(w32, .reservedField), ext4] (.amoFminClass wt g d a b cl) else require [(w32, .reservedField)] (.amoFmin wt g d a b)
  | 0x27 => if long then require [(w32, .reservedField), ext4] (.amoFmaxClass wt g d a b cl) else require [(w32, .reservedField)] (.amoFmax wt g d a b)
  | 0x28 => if long then require [ext4] (.amoAndClass wt g d a b w32 cl) else .ok (.amoAnd wt g d a b w32)
  | 0x29 => if long then require [ext4] (.amoOrClass wt g d a b w32 cl) else .ok (.amoOr wt g d a b w32)
  | 0x2A => if long then require [ext4] (.amoXorClass wt g d a b w32 cl) else .ok (.amoXor wt g d a b w32)
  | 0x2B => if long then require [ext4] (.amoSwapClass wt g d a b w32 cl) else .ok (.amoSwap wt g d a b w32)
  | 0x2C => if long then require [ext4] (.amoCasClass wt g d a b w32 cl) else .ok (.amoCas wt g d a b w32)
  | 0x2D => coded (Lvl.ofCode (fld ext 0 3)) fun l =>
    require [isLong, (fld ext 3 29 == 0, .reservedField)] (.fenceC wt g (w.extractLsb' 0 16) l)
  | 0x2E => if long then require [bit0] (.waitmLong wt g d a b ext) else require [bit0] (.waitm wt g d a b)
  | 0x2F => coded (Lvl.ofCode (fld w 0 3)) fun l =>
    require [isShort, (fld w 3 3 == 0, .reservedField)] (.bar wt g d a l)
  | 0x30 => srForm w (.barinit wt g d a b) (.barinitImm wt g d a ext)
  | 0x31 => require [isShort, low6] (.barkill wt g d a)
  | 0x32 => require [isShort, mid5, low6] (.curNext wt g d)
  | 0x33 => require [isShort, low6] (.tlaunch wt g d a)
  | 0x34 =>
    if long then require [top5, mid5, low6, (fmtwOk ext, .reservedCode)] (.fmtwImm wt g ext)
    else require [top5, low6] (.fmtw wt g a)
  | 0x35 => coded (RMode.ofCode (fld w 0 3)) fun r =>
    require [isShort, top5, mid5, (fld w 3 3 == 0, .reservedField)] (.rmode wt g r)
  | 0x36 => require [isShort, (fld w 8 8 == 0, .reservedField)] (.trap wt g (w.extractLsb' 0 8))
  | 0x37 => require [isShort, (fld w 0 16 == 0, .reservedField)] (.eret wt g)
  | 0x38 => require [isShort] (.mfsr wt g d (w.extractLsb' 0 11))
  | 0x39 =>
    let n := w.extractLsb' 0 11
    require [isShort] (if n = 0x001 then .nflWrite wt g d else if n = 0x006 then .ttbWrite wt g d
      else if n = 0x010 then .hvecWrite wt g d else if n = 0x012 then .bkptWrite wt g d else .mtsr wt g d n)
  | _ => .error .unassigned

/-- The access words (R101, R102, R155); with KEN 0 the KR of SPLD and SPST is ignored (log entry 115). -/
def decodeA (wt g : Tok) (w ext : W32) : Except Reject Instr :=
  let long := bit w 22
  let isShort := (!long, Reject.longForm)
  let isLong := (long, Reject.longForm)
  let k : KR := ix 16 w 12
  let even := (evenK k, Reject.oddPair)
  let t : Ctag := ix 64 w 6
  let c : Ocl := ix 16 w 2
  let tid : Fin 256 := ix 256 ext 24
  let tid2 : Fin 256 := ix 256 ext 13
  let qs := fld ext 21 3
  let row := fld ext 0 13
  let z := Sz.ofCode (fld w 0 2)
  let gqs := fld ext 29 3
  let g26 := (fld ext 26 3 == 0, Reject.reservedField)
  let irow : RowIx := ix 8192 ext 13
  let r : RowIx := ix 8192 w 0
  let ext5 := (fld ext 5 27 == 0, Reject.reservedField)
  let half := bit w 15
  let ken := bit w 14
  let km : KR := ix 16 w 10
  let kevn := (evenK km, Reject.oddPair)
  let km0 := (fld w 10 4 == 0, Reject.reservedField)
  let low8 := (fld w 0 8 == 0, Reject.reservedField)
  let lqi0 := (fld w 8 2 == 0, Reject.reservedField)
  let half0 := (!half, Reject.reservedField)
  let qi1 := (fld w 1 1 == 0, Reject.reservedCode)
  match fld w 16 6 with
  | 0x01 => coded (Seg.ofCode (fld w 0 2)) fun sg => (DstSel.ofCode qs row).bind fun dst =>
    require [isLong, (fld ext 13 8 == 0, .reservedField)] (.tld wt g k t c sg tid dst)
  | 0x02 => coded (Seg.ofCode (fld w 0 2)) fun sg => (SrcSel.ofCode qs row).bind fun src =>
    require [isLong, (fld ext 13 8 == 0, .reservedField)] (.tst wt g k t c sg tid src)
  | 0x03 => coded (Seg.ofCode (fld w 0 2)) fun sg =>
    require [isLong, (qs == 0, .reservedCode), (row == 0, .reservedField)] (.tcpy wt g k t c sg tid tid2)
  | 0x04 => require [isLong, (fld w 0 2 == 0, .reservedField), (qs == 0, .reservedCode), (row == 0, .reservedField)]
      (.tcpyo wt g k t c tid tid2)
  | 0x05 => (DstSel.ofCode gqs row).bind fun dst => require [isLong, even, g26] (.gath wt g k t c z irow dst)
  | 0x06 => (SrcSel.ofCode gqs row).bind fun src => require [isLong, even, g26] (.scat wt g k t c z irow src)
  | 0x07 =>
    if long then require [(bit w 15, .reservedCode), ext5] (.spldK wt g (ix 4 w 13) r (bit ext 4) (ix 16 ext 0))
    else require [(bit w 15, .reservedCode)] (.spld wt g (ix 4 w 13) r)
  | 0x08 =>
    if long then require [(fld w 14 2 == 1, .reservedCode), ext5] (.spstK wt g (ix 2 w 13) r (bit ext 4) (ix 16 ext 0))
    else require [(fld w 14 2 == 1, .reservedCode)] (.spst wt g (ix 2 w 13) r)
  | 0x09 => require [isLong, (fld w 13 2 == 0, .reservedField)] (.tref wt g half (w.extractLsb' 0 13) ext)
  | 0x0A => require [even, qi1] (if long then .aaccOffset wt g k t c (ix 2 w 0) ext else .aacc wt g k t c (ix 2 w 0))
  | 0x0B => require [isShort, (fld w 0 16 == 0, .reservedField)] (.flushc wt g)
  | 0x0C => require [even] (if long then .sumstOffset wt g k t c (ix 4 w 0) ext else .sumst wt g k t c (ix 4 w 0))
  | 0x0D =>
    if ken then require [isShort, half0, kevn, low8, lqi0] (.waitanyK wt g km)
    else require [isLong, km0, low8, lqi0] (.waitany wt g half ext)
  | 0x0E =>
    if ken then require [isShort, half0, kevn, low8, lqi0] (.waitallK wt g km)
    else require [isLong, km0, low8, lqi0] (.waitall wt g half ext)
  | 0x0F =>
    if ken then require [isShort, half0, kevn, low8] (.ffrK wt g km (ix 4 w 8))
    else require [isLong, km0, low8] (.ffr wt g half (ix 4 w 8) ext)
  | 0x10 => require [even, qi1] (if long then .mcastOffset wt g k t c (ix 2 w 0) ext else .mcast wt g k t c (ix 2 w 0))
  | 0x11 => require [even, (fld w 0 2 != 3, .reservedCode)]
      (if long then .prefOffset wt g k t c (Fin.ofNat 3 (fld w 0 2)) ext else .pref wt g k t c (Fin.ofNat 3 (fld w 0 2)))
  | 0x12 => require [isShort, (fld w 0 4 == 0, .reservedField)] (.shpub wt g (ix 256 w 8) (ix 16 w 4))
  | 0x13 => require [isShort, low8] (.shinv wt g (ix 256 w 8))
  | 0x14 =>
    if bit w 5 then require [isShort, (fld w 0 5 == 0, .reservedField)] (.bindOff wt g ⟨ix 2 w 15, ix 4 w 13, ix 128 w 6⟩)
    else require [isShort, (fld w 0 5 == 0, .reservedField)] (.bind wt g (ix 2 w 15) (ix 4 w 13) (ix 128 w 6))
  | _ => .error .unassigned

/-- The short and the long form of a VR word (R103). -/
def vrForm (w : W32) (short long : Instr) : Except Reject Instr :=
  if bit w 22 then require [(fld w 0 6 == 0, .reservedField)] long
  else require [(fld w 0 1 == 0, .reservedField)] short

/-- The vector words (R103, R104, R186); with KEN 0 the KR of VACCRD and VACCWR is ignored (log entry 115). -/
def decodeV (wt g : Tok) (w ext : W32) : Except Reject Instr :=
  let long := bit w 22
  let isShort := (!long, Reject.longForm)
  let isLong := (long, Reject.longForm)
  let d : VR := ix 32 w 11
  let a : VR := ix 32 w 6
  let b : VR := ix 32 w 1
  let low6 := (fld w 0 6 == 0, Reject.reservedField)
  let fn0 := (fld w 0 6 == 0, Reject.fnCode)
  let bit0 := (fld w 0 1 == 0, Reject.reservedField)
  let low3 := (fld w 0 3 == 0, Reject.reservedField)
  let ext5 := (fld ext 5 27 == 0, Reject.reservedField)
  let tf := (decide (fld ext 0 4 < 10), Reject.tfmtCode)
  let tfmt : Fin 10 := Fin.ofNat 10 (fld ext 0 4)
  let rm := RMode.ofCode (fld w 3 3)
  let acc : AccR := ix 8 w 8
  let row : Fin 128 := ix 128 w 1
  let hi := bit w 0
  match fld w 16 6 with
  | 0x01 => vrForm w (.vadd wt g d a b) (.vaddImm wt g d a ext)
  | 0x02 => vrForm w (.vsub wt g d a b) (.vsubImm wt g d a ext)
  | 0x03 => vrForm w (.vmul wt g d a b) (.vmulImm wt g d a ext)
  | 0x04 => vrForm w (.vfma wt g d a b) (.vfmaImm wt g d a ext)
  | 0x05 => vrForm w (.vmin wt g d a b) (.vminImm wt g d a ext)
  | 0x06 => vrForm w (.vmax wt g d a b) (.vmaxImm wt g d a ext)
  | 0x07 => require [isShort, fn0] (.vabs wt g d a)
  | 0x08 => require [isShort, fn0] (.vneg wt g d a)
  | 0x09 => require [isShort, fn0] (.vrcp wt g d a)
  | 0x0A => require [isShort, fn0] (.vrsq wt g d a)
  | 0x0B => require [isShort, fn0] (.vexp2 wt g d a)
  | 0x0C => require [isShort, fn0] (.vlog2 wt g d a)
  | 0x0D => if !long then .error .longForm else codedAs .roundMode rm fun r => require [low3, ext5, tf] (.vcvt wt g d a r (bit ext 4) tfmt)
  | 0x0E => if !long then .error .longForm else codedAs .roundMode rm fun r => require [low3, ext5, tf] (.vpackq wt g d a r (bit ext 4) tfmt)
  | 0x0F => if !long then .error .longForm else codedAs .roundMode rm fun r => require [low3, ext5, tf] (.vfxc wt g d a r (bit ext 4) tfmt)
  | 0x10 => require [isShort, low6] (.vunpq wt g d a)
  | 0x11 => require [isShort, bit0] (.vsel wt g d a b)
  | 0x12 => vrForm w (.vand wt g d a b) (.vandImm wt g d a ext)
  | 0x13 => vrForm w (.vor wt g d a b) (.vorImm wt g d a ext)
  | 0x14 => vrForm w (.vxor wt g d a b) (.vxorImm wt g d a ext)
  | 0x15 => vrForm w (.vshl wt g d a b) (.vshlImm wt g d a ext)
  | 0x16 => vrForm w (.vshr wt g d a b) (.vshrImm wt g d a ext)
  | 0x17 => vrForm w (.viadd wt g d a b) (.viaddImm wt g d a ext)
  | 0x18 => vrForm w (.vimul wt g d a b) (.vimulImm wt g d a ext)
  | 0x19 => require [isShort] (.vbcast wt g d a (ix 64 w 0))
  | 0x1A => require [isShort, bit0] (.vperm wt g d a b)
  | 0x1B => require [isShort, bit0] (.vshuf wt g d a b)
  | 0x1C => if long then .error .longForm else codedAs .fnCode (RedOp.ofCode (fld w 0 2)) fun r => require [(fld w 3 3 == 0, .fnCode)] (.vred wt g d a (bit w 2) r)
  | 0x1D => if long then .error .longForm else codedAs .fnCode (RedOp.ofCode (fld w 0 2)) fun r => require [(fld w 3 3 == 0, .fnCode)] (.vscan wt g d a (bit w 2) r)
  | 0x1E => if long then .error .longForm else codedAs .fnCode (NormKind.ofCode (fld w 0 2)) fun n => .ok (.vnorm wt g d a (ix 16 w 2) n)
  | 0x1F => require [isShort, fn0] (.vsmax wt g d a)
  | 0x20 => vrForm w (.vcmpEq wt g d a b) (.vcmpEqImm wt g d a ext)
  | 0x21 => vrForm w (.vcmpNe wt g d a b) (.vcmpNeImm wt g d a ext)
  | 0x22 => vrForm w (.vcmpLt wt g d a b) (.vcmpLtImm wt g d a ext)
  | 0x23 => vrForm w (.vcmpLe wt g d a b) (.vcmpLeImm wt g d a ext)
  | 0x24 => vrForm w (.vcmpGt wt g d a b) (.vcmpGtImm wt g d a ext)
  | 0x25 => vrForm w (.vcmpGe wt g d a b) (.vcmpGeImm wt g d a ext)
  | 0x26 => vrForm w (.vcmpUn wt g d a b) (.vcmpUnImm wt g d a ext)
  | 0x28 => require [isShort, (fld w 2 9 == 0, .reservedField)] (.vpop wt g d (ix 4 w 0))
  | 0x29 => require [isShort, (fld w 11 5 == 0, .reservedField), (fld w 1 5 == 0, .reservedField)] (.vpush wt g a (ix 2 w 0))
  | 0x2A => if long then require [ext5] (.vaccrdK wt g d acc row hi (bit ext 4) (ix 16 ext 0)) else .ok (.vaccrd wt g d acc row hi)
  | 0x2B => if long then require [ext5] (.vaccwrK wt g d acc row hi (bit ext 4) (ix 16 ext 0)) else .ok (.vaccwr wt g d acc row hi)
  | 0x2C => require [isLong, (fld w 0 16 == 0, .reservedField)] (.vsetsh wt g ext)
  | 0x2D => require [isShort, (fld w 6 5 == 0, .reservedField), (fld w 1 5 == 0, .fnCode)] (.vidx wt g d (bit w 0))
  | _ => .error .unassigned

/-- The matrix words (R105). -/
def decodeM (wt g : Tok) (w ext : W32) : Except Reject Instr :=
  let long := bit w 22
  let isShort := (!long, Reject.longForm)
  let opnd0 := (fld w 0 16 == 0, Reject.reservedField)
  let acc : AccR := ix 8 w 13
  let row0 := (fld w 0 13 == 0, Reject.reservedField)
  match fld w 16 6 with
  | 0x01 => require [opnd0] (if long then .mmaStamp wt g ext else .mma wt g)
  | 0x02 => require [opnd0] (if long then .mmatStamp wt g ext else .mmat wt g)
  | 0x03 => require [isShort, row0] (.mzero wt g acc)
  | 0x04 => require [isShort] (.mload wt g acc (ix 8192 w 0))
  | 0x05 => require [isShort] (.msave wt g acc (ix 8192 w 0))
  | 0x06 => require [isShort, row0] (.mprog wt g acc)
  | _ => .error .unassigned

/-- The packet words (R106, R234). -/
def decodeP (wt g : Tok) (w ext : W32) : Except Reject Instr :=
  let long := bit w 22
  let isShort := (!long, Reject.longForm)
  let ka : KR := ix 16 w 12
  let even := (evenK ka, Reject.oddPair)
  let ka0 := (fld w 12 4 == 0, Reject.reservedField)
  let bc : BcR := ix 16 w 8
  let bc0 := (fld w 8 4 == 0, Reject.reservedField)
  let imm0 := (fld w 0 8 == 0, Reject.reservedField)
  let slot : BitVec 8 := w.extractLsb' 0 8
  match fld w 16 6 with
  | 0x01 => require [isShort, even, bc0, (fld w 3 5 == 0, .reservedField)] (.pbuild wt g ka (ix 8 w 0))
  | 0x02 => require [isShort, ka0, (fld w 3 4 == 0, .reservedField), (bit w 7 || fld w 8 4 == 0, .reservedField)] (.psend wt g bc (bit w 7) (ix 8 w 0))
  | 0x03 =>
    if long then require [ka0, imm0] (.pcountWaitImm wt g bc ext)
    else require [even, imm0] (.pcountWait wt g ka bc)
  | 0x04 => require [isShort, ka0, (fld w 1 7 == 0, .reservedField)] (.pcountRd wt g bc (bit w 0))
  | 0x05 => require [isShort, even, bc0, imm0] (.precv wt g ka)
  | 0x06 => require [isShort, even, bc0, imm0] (.pcoll wt g ka)
  | 0x07 => require [isShort, even, bc0] (.pparkRd wt g ka slot)
  | 0x08 =>
    if long then require [(!bit ext 13 || evenK ka, .oddPair), (bit ext 13 || ka.val == 0, .reservedField), bc0,
        (fld ext 14 18 == 0, .extField), (bit ext 12 || fld ext 8 4 == 0, .extField)]
      (.presumeOptions wt g ka slot (ext.extractLsb' 0 8) (ix 16 ext 8) (bit ext 12) (bit ext 13))
    else require [ka0, bc0] (.presume wt g slot)
  | 0x09 => require [isShort, ka0, bc0] (.pdrop wt g slot)
  | _ => .error .unassigned

/-- The two token fields of an own word, then its layout (R93). -/
def withToks (own : Engine) (w : W32) (f : Tok → Tok → Except Reject Instr) : Except Reject Instr :=
  (tokField own (fld w 26 3)).bind fun wt => (tokField own (fld w 23 3)).bind fun g => f wt g

/-- A text word with its extension (R90 to R93); the extension counts only where LONG is set. -/
def decodeWord (w ext : W32) : Except Reject Instr :=
  match fld w 29 3 with
  | 0 => withToks .s w fun wt g => decodeS wt g w ext
  | 1 => withToks .a w fun wt g => decodeA wt g w ext
  | 2 => withToks .v w fun wt g => decodeV wt g w ext
  | 3 => withToks .m w fun wt g => decodeM wt g w ext
  | 4 => withToks .p w fun wt g => decodeP wt g w ext
  | 7 => decodeAll w ext
  | _ => .error .reservedTag

/-- An errand instruction (R245). An OPND the map does not allow is rejected as a reserved field. -/
def decodeErrand (h : W16) : Except Reject Instr :=
  let x := fld h 0 11
  let n : Fin 2048 := Fin.ofNat 2048 x
  let zero := (x == 0, Reject.reservedField)
  match fld h 11 5 with
  | 0x00 => .ok (.errandPushi (h.extractLsb' 0 11))
  | 0x01 => require [(decide (x < 4), .reservedField)] (.errandPushw (Fin.ofNat 4 x))
  | 0x02 => require [(decide (x < 4), .reservedField)] (.errandPopw (Fin.ofNat 4 x))
  | 0x03 => require [zero] .errandDup
  | 0x04 => require [zero] .errandSwap
  | 0x05 => require [zero] .errandDrop
  | 0x06 => require [zero] .errandAdd
  | 0x07 => require [zero] .errandSub
  | 0x08 => require [zero] .errandAnd
  | 0x09 => require [zero] .errandOr
  | 0x0A => require [zero] .errandXor
  | 0x0B => require [zero] .errandShl
  | 0x0C => require [zero] .errandShr
  | 0x0D => require [zero] .errandCmpeq
  | 0x0E => require [zero] .errandCmplt
  | 0x0F => .ok (.ctrRd n)
  | 0x10 => .ok (.ctrAdd n)
  | 0x11 => .ok (.ctrTest n)
  | 0x12 => .ok (.scrRd n)
  | 0x13 => .ok (.scrAdd n)
  | 0x14 => .ok (.scrCas n)
  | 0x15 => require [(decide (x < 256), .reservedField)] (.clone (h.extractLsb' 0 8))
  | 0x16 => if x = 8 then .ok .dirPop else require [(decide (x < 6), .reservedField)] (.dir (Fin.ofNat 6 x))
  | 0x17 => require [zero] .dirmin
  | 0x18 => require [zero] .dirload
  | 0x19 => require [zero] .bud
  | 0x1A => require [(decide (x < 16), .reservedField), (x != 0, .reservedField)] (.jz (Fin.ofNat 16 x))
  | 0x1B => require [(decide (x < 16), .reservedField), (x != 0, .reservedField)] (.jnz (Fin.ofNat 16 x))
  | 0x1C => require [zero] .deliv
  | 0x1D => require [zero] .dropk
  | 0x1E => require [(decide (x < 256), .reservedField)] (.park (h.extractLsb' 0 8))
  | 0x1F => require [zero] .fwd
  | _ => .error .unassigned

/-- The four bytes of a word at the head of a list (R6), and the rest. -/
def takeWord : List Byte → W32 × List Byte
  | a :: b :: c :: d :: rest => (BitVec.ofNat 32 (leNat [a, b, c, d]), rest)
  | short => (BitVec.ofNat 32 (leNat short), [])

/-- A text word, with its extension where LONG is set, at the head of a list of bytes. -/
def decodeText (bs : List Byte) : Except Reject (Instr × List Byte) :=
  let (w, rest) := takeWord bs
  let (ext, rest2) := takeWord rest
  (decodeWord w ext).map fun i => (i, if bit w 22 then rest2 else rest)

/-- An errand instruction at the head of a list of bytes (R227). -/
def decodeErrandText : List Byte → Except Reject (Instr × List Byte)
  | a :: b :: rest => (decodeErrand (BitVec.ofNat 16 (leNat [a, b]))).map fun i => (i, rest)
  | _ => .error .fieldLimit

/-- The host's question: the instruction whose bits are w, numbered as the operation table numbers them.
A row of sixteen bits is an errand instruction; a wider one is a text word, its extension above the first word. -/
def decodeTableWord (nbits w : Nat) : Option Instr :=
  if nbits ≤ 16 then (decodeErrandText (natLe (w % 2 ^ nbits) 2)).toOption.map Prod.fst
  else (decodeText (natLe (w % 2 ^ nbits) 8)).toOption.map Prod.fst

/-! ### The encoder -/

/-- A word from its fields (R90). -/
def mkWord (tag : Nat) (w g : Tok) (long : Bool) (op opnd : Nat) : W32 :=
  BitVec.ofNat 32 (tag * 2 ^ 29 + w.code * 2 ^ 26 + g.code * 2 ^ 23 + long.toNat * 2 ^ 22 + op * 2 ^ 16 + opnd)

/-- A short word of an engine, and a long one with its extension. -/
def shortWord (tag : Nat) (w g : Tok) (op opnd : Nat) : Option (W32 × Option W32) := some (mkWord tag w g false op opnd, none)
def longWord (tag : Nat) (w g : Tok) (op opnd : Nat) (ext : W32) : Option (W32 × Option W32) :=
  some (mkWord tag w g true op opnd, some ext)

/-- An extension from a number. -/
def extOf (n : Nat) : W32 := BitVec.ofNat 32 n

/-- Three five-bit fields at 11, 6 and 1 (R99, R103). -/
def opnd3 (d a b : Nat) : Nat := d * 2 ^ 11 + a * 2 ^ 6 + b * 2

/-- The words of the control words (R98); none for any other step. -/
def encodeAll : Instr → Option (W32 × Option W32)
  | .loop k e => shortWord 7 none none 0x01 (k.val * 2 ^ 12 + 2 ^ 11 + e.val)
  | .loopCount e c => longWord 7 none none 0x01 e.val c
  | .endl => shortWord 7 none none 0x02 0
  | .brk k c l => shortWord 7 none none 0x03 (k.val * 2 ^ 12 + c.code * 2 ^ 9 + l.val)
  | .jmp o => shortWord 7 none none 0x04 o.toNat
  | .brK k c o => shortWord 7 none none 0x05 (k.val * 2 ^ 12 + c.code * 2 ^ 9 + o.toNat)
  | .call o => shortWord 7 none none 0x06 o.toNat
  | .ret => shortWord 7 none none 0x07 0
  | .nopa => shortWord 7 none none 0x08 0
  | .halt => shortWord 7 none none 0x09 0
  | .ppoint t g => shortWord 7 none none 0x0A (t.toNat * 2 ^ 4 + g.toNat)
  | .jobnext => shortWord 7 none none 0x0B 0
  | _ => none

/-- The words of the sequencer words (R99, R100), part 1; none for any other step. -/
def encodeS1 : Instr → Option (W32 × Option W32)
  | .add w g d a b => shortWord 0 w g 0x01 (opnd3 d a b)
  | .addImm w g d a imm => longWord 0 w g 0x01 (opnd3 d a 0) imm
  | .sub w g d a b => shortWord 0 w g 0x02 (opnd3 d a b)
  | .subImm w g d a imm => longWord 0 w g 0x02 (opnd3 d a 0) imm
  | .and w g d a b => shortWord 0 w g 0x03 (opnd3 d a b)
  | .andImm w g d a imm => longWord 0 w g 0x03 (opnd3 d a 0) imm
  | .or w g d a b => shortWord 0 w g 0x04 (opnd3 d a b)
  | .orImm w g d a imm => longWord 0 w g 0x04 (opnd3 d a 0) imm
  | .xor w g d a b => shortWord 0 w g 0x05 (opnd3 d a b)
  | .xorImm w g d a imm => longWord 0 w g 0x05 (opnd3 d a 0) imm
  | .andn w g d a b => shortWord 0 w g 0x06 (opnd3 d a b)
  | .andnImm w g d a imm => longWord 0 w g 0x06 (opnd3 d a 0) imm
  | .shl w g d a b => shortWord 0 w g 0x07 (opnd3 d a b)
  | .shlImm w g d a imm => longWord 0 w g 0x07 (opnd3 d a 0) imm
  | .shr w g d a b => shortWord 0 w g 0x08 (opnd3 d a b)
  | .shrImm w g d a imm => longWord 0 w g 0x08 (opnd3 d a 0) imm
  | .sra w g d a b => shortWord 0 w g 0x09 (opnd3 d a b)
  | .sraImm w g d a imm => longWord 0 w g 0x09 (opnd3 d a 0) imm
  | .mul w g d a b => shortWord 0 w g 0x0A (opnd3 d a b)
  | .mulImm w g d a imm => longWord 0 w g 0x0A (opnd3 d a 0) imm
  | .mulh w g d a b => shortWord 0 w g 0x0B (opnd3 d a b)
  | .mulhImm w g d a imm => longWord 0 w g 0x0B (opnd3 d a 0) imm
  | .div w g d a b => shortWord 0 w g 0x0C (opnd3 d a b)
  | .divImm w g d a imm => longWord 0 w g 0x0C (opnd3 d a 0) imm
  | .rem w g d a b => shortWord 0 w g 0x0D (opnd3 d a b)
  | .remImm w g d a imm => longWord 0 w g 0x0D (opnd3 d a 0) imm
  | .min w g d a b => shortWord 0 w g 0x0E (opnd3 d a b)
  | .minImm w g d a imm => longWord 0 w g 0x0E (opnd3 d a 0) imm
  | .max w g d a b => shortWord 0 w g 0x0F (opnd3 d a b)
  | .maxImm w g d a imm => longWord 0 w g 0x0F (opnd3 d a 0) imm
  | .sel w g d a b => shortWord 0 w g 0x10 (opnd3 d a b)
  | .selImm w g d a imm => longWord 0 w g 0x10 (opnd3 d a 0) imm
  | .cmpEq w g d a b => shortWord 0 w g 0x18 (opnd3 d a b)
  | .cmpEqImm w g d a imm => longWord 0 w g 0x18 (opnd3 d a 0) imm
  | .cmpNe w g d a b => shortWord 0 w g 0x19 (opnd3 d a b)
  | .cmpNeImm w g d a imm => longWord 0 w g 0x19 (opnd3 d a 0) imm
  | _ => none

/-- The words of the sequencer words (R99, R100), part 2; none for any other step. -/
def encodeS2 : Instr → Option (W32 × Option W32)
  | .cmpLt w g d a b => shortWord 0 w g 0x1A (opnd3 d a b)
  | .cmpLtImm w g d a imm => longWord 0 w g 0x1A (opnd3 d a 0) imm
  | .cmpGe w g d a b => shortWord 0 w g 0x1B (opnd3 d a b)
  | .cmpGeImm w g d a imm => longWord 0 w g 0x1B (opnd3 d a 0) imm
  | .cmpLtu w g d a b => shortWord 0 w g 0x1C (opnd3 d a b)
  | .cmpLtuImm w g d a imm => longWord 0 w g 0x1C (opnd3 d a 0) imm
  | .cmpGeu w g d a b => shortWord 0 w g 0x1D (opnd3 d a b)
  | .cmpGeuImm w g d a imm => longWord 0 w g 0x1D (opnd3 d a 0) imm
  | .li w g d i => shortWord 0 w g 0x11 (d.val * 2 ^ 11 + i.toNat)
  | .liLong w g d imm => longWord 0 w g 0x11 (d.val * 2 ^ 11) imm
  | .liHi w g d imm => longWord 0 w g 0x11 (d.val * 2 ^ 11 + 1) imm
  | .movk w g a k => shortWord 0 w g 0x12 (a.val * 2 ^ 6 + k.val)
  | .movkImm w g k imm => longWord 0 w g 0x12 k.val imm
  | .movx w g d k => shortWord 0 w g 0x13 (d.val * 2 ^ 11 + k.val)
  | .clz w g d a => shortWord 0 w g 0x14 (opnd3 d a 0)
  | .popc w g d a => shortWord 0 w g 0x15 (opnd3 d a 0)
  | .bfx w g d a wm pos => longWord 0 w g 0x16 (opnd3 d a 0) (extOf (wm.val * 2 ^ 6 + pos.val))
  | .bfi w g d a wm pos => longWord 0 w g 0x17 (opnd3 d a 0) (extOf (wm.val * 2 ^ 6 + pos.val))
  | .ld w g d a c z => shortWord 0 w g 0x20 (d.val * 2 ^ 11 + a.val * 2 ^ 6 + c.val * 2 ^ 2 + z.code)
  | .ldOffset w g d a c z off => longWord 0 w g 0x20 (d.val * 2 ^ 11 + a.val * 2 ^ 6 + c.val * 2 ^ 2 + z.code) off
  | .st w g d a c z => shortWord 0 w g 0x21 (d.val * 2 ^ 11 + a.val * 2 ^ 6 + c.val * 2 ^ 2 + z.code)
  | .stOffset w g d a c z off => longWord 0 w g 0x21 (d.val * 2 ^ 11 + a.val * 2 ^ 6 + c.val * 2 ^ 2 + z.code) off
  | .amoAdd w g d a b m => shortWord 0 w g 0x22 (opnd3 d a b + m.toNat)
  | .amoAddClass w g d a b m c => longWord 0 w g 0x22 (opnd3 d a b + m.toNat) (extOf c.val)
  | .amoFadd w g d a b => shortWord 0 w g 0x23 (opnd3 d a b + 1)
  | .amoFaddClass w g d a b c => longWord 0 w g 0x23 (opnd3 d a b + 1) (extOf c.val)
  | .amoMin w g d a b m => shortWord 0 w g 0x24 (opnd3 d a b + m.toNat)
  | .amoMinClass w g d a b m c => longWord 0 w g 0x24 (opnd3 d a b + m.toNat) (extOf c.val)
  | .amoMax w g d a b m => shortWord 0 w g 0x25 (opnd3 d a b + m.toNat)
  | .amoMaxClass w g d a b m c => longWord 0 w g 0x25 (opnd3 d a b + m.toNat) (extOf c.val)
  | .amoFmin w g d a b => shortWord 0 w g 0x26 (opnd3 d a b + 1)
  | .amoFminClass w g d a b c => longWord 0 w g 0x26 (opnd3 d a b + 1) (extOf c.val)
  | .amoFmax w g d a b => shortWord 0 w g 0x27 (opnd3 d a b + 1)
  | .amoFmaxClass w g d a b c => longWord 0 w g 0x27 (opnd3 d a b + 1) (extOf c.val)
  | .amoAnd w g d a b m => shortWord 0 w g 0x28 (opnd3 d a b + m.toNat)
  | .amoAndClass w g d a b m c => longWord 0 w g 0x28 (opnd3 d a b + m.toNat) (extOf c.val)
  | _ => none

/-- The words of the sequencer words (R99, R100), part 3; none for any other step. -/
def encodeS3 : Instr → Option (W32 × Option W32)
  | .amoOr w g d a b m => shortWord 0 w g 0x29 (opnd3 d a b + m.toNat)
  | .amoOrClass w g d a b m c => longWord 0 w g 0x29 (opnd3 d a b + m.toNat) (extOf c.val)
  | .amoXor w g d a b m => shortWord 0 w g 0x2A (opnd3 d a b + m.toNat)
  | .amoXorClass w g d a b m c => longWord 0 w g 0x2A (opnd3 d a b + m.toNat) (extOf c.val)
  | .amoSwap w g d a b m => shortWord 0 w g 0x2B (opnd3 d a b + m.toNat)
  | .amoSwapClass w g d a b m c => longWord 0 w g 0x2B (opnd3 d a b + m.toNat) (extOf c.val)
  | .amoCas w g d a b m => shortWord 0 w g 0x2C (opnd3 d a b + m.toNat)
  | .amoCasClass w g d a b m c => longWord 0 w g 0x2C (opnd3 d a b + m.toNat) (extOf c.val)
  | .fenceC w g mask l => longWord 0 w g 0x2D mask.toNat (extOf l.code)
  | .waitm w g d a b => shortWord 0 w g 0x2E (opnd3 d a b)
  | .waitmLong w g d a b t => longWord 0 w g 0x2E (opnd3 d a b) t
  | .bar w g d a l => shortWord 0 w g 0x2F (opnd3 d a 0 + l.code)
  | .barinit w g d a b => shortWord 0 w g 0x30 (opnd3 d a b)
  | .barinitImm w g d a imm => longWord 0 w g 0x30 (opnd3 d a 0) imm
  | .barkill w g d a => shortWord 0 w g 0x31 (opnd3 d a 0)
  | .curNext w g d => shortWord 0 w g 0x32 (opnd3 d 0 0)
  | .tlaunch w g d a => shortWord 0 w g 0x33 (opnd3 d a 0)
  | .fmtw w g a => shortWord 0 w g 0x34 (opnd3 0 a 0)
  | .fmtwImm w g fw => longWord 0 w g 0x34 0 fw
  | .rmode w g r => shortWord 0 w g 0x35 r.code
  | .trap w g c => shortWord 0 w g 0x36 c.toNat
  | .eret w g => shortWord 0 w g 0x37 0
  | .mfsr w g d n => shortWord 0 w g 0x38 (d.val * 2 ^ 11 + n.toNat)
  | .mtsr w g a n => shortWord 0 w g 0x39 (a.val * 2 ^ 11 + n.toNat)
  | .ttbWrite w g a => shortWord 0 w g 0x39 (a.val * 2 ^ 11 + 0x006)
  | .nflWrite w g a => shortWord 0 w g 0x39 (a.val * 2 ^ 11 + 0x001)
  | .hvecWrite w g a => shortWord 0 w g 0x39 (a.val * 2 ^ 11 + 0x010)
  | .bkptWrite w g a => shortWord 0 w g 0x39 (a.val * 2 ^ 11 + 0x012)
  | _ => none

/-- The words of the access words (R101, R102); none for any other step. -/
def encodeA : Instr → Option (W32 × Option W32)
  | .tld w g k t c sg tid dst => longWord 1 w g 0x01 (k.val * 2 ^ 12 + t.val * 2 ^ 6 + c.val * 2 ^ 2 + sg.code)
      (extOf (tid.val * 2 ^ 24 + dst.code.1 * 2 ^ 21 + dst.code.2))
  | .tst w g k t c sg tid src => longWord 1 w g 0x02 (k.val * 2 ^ 12 + t.val * 2 ^ 6 + c.val * 2 ^ 2 + sg.code)
      (extOf (tid.val * 2 ^ 24 + src.code.1 * 2 ^ 21 + src.code.2))
  | .tcpy w g k t c sg tid tid2 => longWord 1 w g 0x03 (k.val * 2 ^ 12 + t.val * 2 ^ 6 + c.val * 2 ^ 2 + sg.code)
      (extOf (tid.val * 2 ^ 24 + tid2.val * 2 ^ 13))
  | .tcpyo w g k t c tid tid2 => longWord 1 w g 0x04 (k.val * 2 ^ 12 + t.val * 2 ^ 6 + c.val * 2 ^ 2)
      (extOf (tid.val * 2 ^ 24 + tid2.val * 2 ^ 13))
  | .gath w g k t c z ir dst => longWord 1 w g 0x05 (k.val * 2 ^ 12 + t.val * 2 ^ 6 + c.val * 2 ^ 2 + z.code)
      (extOf (dst.code.1 * 2 ^ 29 + ir.val * 2 ^ 13 + dst.code.2))
  | .scat w g k t c z ir src => longWord 1 w g 0x06 (k.val * 2 ^ 12 + t.val * 2 ^ 6 + c.val * 2 ^ 2 + z.code)
      (extOf (src.code.1 * 2 ^ 29 + ir.val * 2 ^ 13 + src.code.2))
  | .spld w g q r => shortWord 1 w g 0x07 ((4 + q.val) * 2 ^ 13 + r.val)
  | .spldK w g q r ken k => longWord 1 w g 0x07 ((4 + q.val) * 2 ^ 13 + r.val) (extOf (ken.toNat * 2 ^ 4 + k.val))
  | .spst w g q r => shortWord 1 w g 0x08 ((2 + q.val) * 2 ^ 13 + r.val)
  | .spstK w g q r ken k => longWord 1 w g 0x08 ((2 + q.val) * 2 ^ 13 + r.val) (extOf (ken.toNat * 2 ^ 4 + k.val))
  | .tref w g mb hi lo => longWord 1 w g 0x09 (mb.toNat * 2 ^ 15 + hi.toNat) lo
  | .aacc w g k t c q => shortWord 1 w g 0x0A (k.val * 2 ^ 12 + t.val * 2 ^ 6 + c.val * 2 ^ 2 + q.val)
  | .aaccOffset w g k t c q off => longWord 1 w g 0x0A (k.val * 2 ^ 12 + t.val * 2 ^ 6 + c.val * 2 ^ 2 + q.val) off
  | .flushc w g => shortWord 1 w g 0x0B 0
  | .sumst w g k t c q => shortWord 1 w g 0x0C (k.val * 2 ^ 12 + t.val * 2 ^ 6 + c.val * 2 ^ 2 + q.val)
  | .sumstOffset w g k t c q off => longWord 1 w g 0x0C (k.val * 2 ^ 12 + t.val * 2 ^ 6 + c.val * 2 ^ 2 + q.val) off
  | .waitany w g h m => longWord 1 w g 0x0D (h.toNat * 2 ^ 15) m
  | .waitanyK w g km => shortWord 1 w g 0x0D (2 ^ 14 + km.val * 2 ^ 10)
  | .waitall w g h m => longWord 1 w g 0x0E (h.toNat * 2 ^ 15) m
  | .waitallK w g km => shortWord 1 w g 0x0E (2 ^ 14 + km.val * 2 ^ 10)
  | .ffr w g h q m => longWord 1 w g 0x0F (h.toNat * 2 ^ 15 + q.val * 2 ^ 8) m
  | .ffrK w g km q => shortWord 1 w g 0x0F (2 ^ 14 + km.val * 2 ^ 10 + q.val * 2 ^ 8)
  | .mcast w g k t c q => shortWord 1 w g 0x10 (k.val * 2 ^ 12 + t.val * 2 ^ 6 + c.val * 2 ^ 2 + q.val)
  | .mcastOffset w g k t c q off => longWord 1 w g 0x10 (k.val * 2 ^ 12 + t.val * 2 ^ 6 + c.val * 2 ^ 2 + q.val) off
  | .pref w g k t c z => shortWord 1 w g 0x11 (k.val * 2 ^ 12 + t.val * 2 ^ 6 + c.val * 2 ^ 2 + z.val)
  | .prefOffset w g k t c z off => longWord 1 w g 0x11 (k.val * 2 ^ 12 + t.val * 2 ^ 6 + c.val * 2 ^ 2 + z.val) off
  | .shpub w g tid c => shortWord 1 w g 0x12 (tid.val * 2 ^ 8 + c.val * 2 ^ 4)
  | .shinv w g tid => shortWord 1 w g 0x13 (tid.val * 2 ^ 8)
  | .bind w g q plq peer => shortWord 1 w g 0x14 (q.val * 2 ^ 15 + plq.val * 2 ^ 13 + peer.val * 2 ^ 6)
  | .bindOff w g q => shortWord 1 w g 0x14 (q.q.val * 2 ^ 15 + q.plq.val * 2 ^ 13 + q.peer.val * 2 ^ 6 + 2 ^ 5)
  | _ => none

/-- The words of the vector words (R103, R104), part 1; none for any other step. -/
def encodeV1 : Instr → Option (W32 × Option W32)
  | .vadd w g d a b => shortWord 2 w g 0x01 (opnd3 d a b)
  | .vaddImm w g d a imm => longWord 2 w g 0x01 (opnd3 d a 0) imm
  | .vsub w g d a b => shortWord 2 w g 0x02 (opnd3 d a b)
  | .vsubImm w g d a imm => longWord 2 w g 0x02 (opnd3 d a 0) imm
  | .vmul w g d a b => shortWord 2 w g 0x03 (opnd3 d a b)
  | .vmulImm w g d a imm => longWord 2 w g 0x03 (opnd3 d a 0) imm
  | .vfma w g d a b => shortWord 2 w g 0x04 (opnd3 d a b)
  | .vfmaImm w g d a imm => longWord 2 w g 0x04 (opnd3 d a 0) imm
  | .vmin w g d a b => shortWord 2 w g 0x05 (opnd3 d a b)
  | .vminImm w g d a imm => longWord 2 w g 0x05 (opnd3 d a 0) imm
  | .vmax w g d a b => shortWord 2 w g 0x06 (opnd3 d a b)
  | .vmaxImm w g d a imm => longWord 2 w g 0x06 (opnd3 d a 0) imm
  | .vand w g d a b => shortWord 2 w g 0x12 (opnd3 d a b)
  | .vandImm w g d a imm => longWord 2 w g 0x12 (opnd3 d a 0) imm
  | .vor w g d a b => shortWord 2 w g 0x13 (opnd3 d a b)
  | .vorImm w g d a imm => longWord 2 w g 0x13 (opnd3 d a 0) imm
  | .vxor w g d a b => shortWord 2 w g 0x14 (opnd3 d a b)
  | .vxorImm w g d a imm => longWord 2 w g 0x14 (opnd3 d a 0) imm
  | .vshl w g d a b => shortWord 2 w g 0x15 (opnd3 d a b)
  | .vshlImm w g d a imm => longWord 2 w g 0x15 (opnd3 d a 0) imm
  | .vshr w g d a b => shortWord 2 w g 0x16 (opnd3 d a b)
  | .vshrImm w g d a imm => longWord 2 w g 0x16 (opnd3 d a 0) imm
  | .viadd w g d a b => shortWord 2 w g 0x17 (opnd3 d a b)
  | .viaddImm w g d a imm => longWord 2 w g 0x17 (opnd3 d a 0) imm
  | .vimul w g d a b => shortWord 2 w g 0x18 (opnd3 d a b)
  | .vimulImm w g d a imm => longWord 2 w g 0x18 (opnd3 d a 0) imm
  | .vcmpEq w g d a b => shortWord 2 w g 0x20 (opnd3 d a b)
  | .vcmpEqImm w g d a imm => longWord 2 w g 0x20 (opnd3 d a 0) imm
  | .vcmpNe w g d a b => shortWord 2 w g 0x21 (opnd3 d a b)
  | .vcmpNeImm w g d a imm => longWord 2 w g 0x21 (opnd3 d a 0) imm
  | .vcmpLt w g d a b => shortWord 2 w g 0x22 (opnd3 d a b)
  | .vcmpLtImm w g d a imm => longWord 2 w g 0x22 (opnd3 d a 0) imm
  | .vcmpLe w g d a b => shortWord 2 w g 0x23 (opnd3 d a b)
  | .vcmpLeImm w g d a imm => longWord 2 w g 0x23 (opnd3 d a 0) imm
  | .vcmpGt w g d a b => shortWord 2 w g 0x24 (opnd3 d a b)
  | .vcmpGtImm w g d a imm => longWord 2 w g 0x24 (opnd3 d a 0) imm
  | _ => none

/-- The words of the vector words (R103, R104), part 2; none for any other step. -/
def encodeV2 : Instr → Option (W32 × Option W32)
  | .vcmpGe w g d a b => shortWord 2 w g 0x25 (opnd3 d a b)
  | .vcmpGeImm w g d a imm => longWord 2 w g 0x25 (opnd3 d a 0) imm
  | .vcmpUn w g d a b => shortWord 2 w g 0x26 (opnd3 d a b)
  | .vcmpUnImm w g d a imm => longWord 2 w g 0x26 (opnd3 d a 0) imm
  | .vabs w g d a => shortWord 2 w g 0x07 (opnd3 d a 0)
  | .vneg w g d a => shortWord 2 w g 0x08 (opnd3 d a 0)
  | .vrcp w g d a => shortWord 2 w g 0x09 (opnd3 d a 0)
  | .vrsq w g d a => shortWord 2 w g 0x0A (opnd3 d a 0)
  | .vexp2 w g d a => shortWord 2 w g 0x0B (opnd3 d a 0)
  | .vlog2 w g d a => shortWord 2 w g 0x0C (opnd3 d a 0)
  | .vcvt w g d a r sat t => longWord 2 w g 0x0D (opnd3 d a 0 + r.code * 2 ^ 3) (extOf (sat.toNat * 2 ^ 4 + t.val))
  | .vpackq w g d a r sat t => longWord 2 w g 0x0E (opnd3 d a 0 + r.code * 2 ^ 3) (extOf (sat.toNat * 2 ^ 4 + t.val))
  | .vfxc w g d a r sat t => longWord 2 w g 0x0F (opnd3 d a 0 + r.code * 2 ^ 3) (extOf (sat.toNat * 2 ^ 4 + t.val))
  | .vunpq w g d a => shortWord 2 w g 0x10 (opnd3 d a 0)
  | .vsel w g d a b => shortWord 2 w g 0x11 (opnd3 d a b)
  | .vbcast w g d a n => shortWord 2 w g 0x19 (opnd3 d a 0 + n.val)
  | .vperm w g d a b => shortWord 2 w g 0x1A (opnd3 d a b)
  | .vshuf w g d a b => shortWord 2 w g 0x1B (opnd3 d a b)
  | .vred w g d a bc r => shortWord 2 w g 0x1C (opnd3 d a 0 + bc.toNat * 2 ^ 2 + r.code)
  | .vscan w g d a ex r => shortWord 2 w g 0x1D (opnd3 d a 0 + ex.toNat * 2 ^ 2 + r.code)
  | .vnorm w g d a e k => shortWord 2 w g 0x1E (opnd3 d a 0 + e.val * 2 ^ 2 + k.code)
  | .vsmax w g d a => shortWord 2 w g 0x1F (opnd3 d a 0)
  | .vpop w g d q => shortWord 2 w g 0x28 (d.val * 2 ^ 11 + q.val)
  | .vpush w g a q => shortWord 2 w g 0x29 (a.val * 2 ^ 6 + q.val)
  | .vaccrd w g d c r hi => shortWord 2 w g 0x2A (d.val * 2 ^ 11 + c.val * 2 ^ 8 + r.val * 2 + hi.toNat)
  | .vaccrdK w g d c r hi ken k => longWord 2 w g 0x2A (d.val * 2 ^ 11 + c.val * 2 ^ 8 + r.val * 2 + hi.toNat) (extOf (ken.toNat * 2 ^ 4 + k.val))
  | .vaccwr w g a c r hi => shortWord 2 w g 0x2B (a.val * 2 ^ 11 + c.val * 2 ^ 8 + r.val * 2 + hi.toNat)
  | .vaccwrK w g a c r hi ken k => longWord 2 w g 0x2B (a.val * 2 ^ 11 + c.val * 2 ^ 8 + r.val * 2 + hi.toNat) (extOf (ken.toNat * 2 ^ 4 + k.val))
  | .vsetsh w g v => longWord 2 w g 0x2C 0 v
  | .vidx w g d sg => shortWord 2 w g 0x2D (d.val * 2 ^ 11 + sg.toNat)
  | _ => none

/-- The words of the matrix words (R105); none for any other step. -/
def encodeM : Instr → Option (W32 × Option W32)
  | .mma w g => shortWord 3 w g 0x01 0
  | .mmaStamp w g t => longWord 3 w g 0x01 0 t
  | .mmat w g => shortWord 3 w g 0x02 0
  | .mmatStamp w g t => longWord 3 w g 0x02 0 t
  | .mzero w g c => shortWord 3 w g 0x03 (c.val * 2 ^ 13)
  | .mload w g c r => shortWord 3 w g 0x04 (c.val * 2 ^ 13 + r.val)
  | .msave w g c r => shortWord 3 w g 0x05 (c.val * 2 ^ 13 + r.val)
  | .mprog w g c => shortWord 3 w g 0x06 (c.val * 2 ^ 13)
  | _ => none

/-- The words of the packet words (R106); none for any other step. -/
def encodeP : Instr → Option (W32 × Option W32)
  | .pbuild w g k s => shortWord 4 w g 0x01 (k.val * 2 ^ 12 + s.val)
  | .psend w g bc ben s => shortWord 4 w g 0x02 (bc.val * 2 ^ 8 + ben.toNat * 2 ^ 7 + s.val)
  | .pcountWait w g k bc => shortWord 4 w g 0x03 (k.val * 2 ^ 12 + bc.val * 2 ^ 8)
  | .pcountWaitImm w g bc t => longWord 4 w g 0x03 (bc.val * 2 ^ 8) t
  | .pcountRd w g bc clr => shortWord 4 w g 0x04 (bc.val * 2 ^ 8 + clr.toNat)
  | .precv w g k => shortWord 4 w g 0x05 (k.val * 2 ^ 12)
  | .pcoll w g k => shortWord 4 w g 0x06 (k.val * 2 ^ 12)
  | .pparkRd w g k s => shortWord 4 w g 0x07 (k.val * 2 ^ 12 + s.toNat)
  | .presume w g s => shortWord 4 w g 0x08 s.toNat
  | .presumeOptions w g k s addb npc newpc loadw => longWord 4 w g 0x08 (k.val * 2 ^ 12 + s.toNat)
      (extOf (loadw.toNat * 2 ^ 13 + newpc.toNat * 2 ^ 12 + npc.val * 2 ^ 8 + addb.toNat))
  | .pdrop w g s => shortWord 4 w g 0x09 s.toNat
  | _ => none

/-- The words of a text instruction (R98 to R106); none for a step that is no text word. -/
def encodeText (i : Instr) : Option (W32 × Option W32) :=
  encodeAll i <|> encodeS1 i <|> encodeS2 i <|> encodeS3 i <|> encodeA i <|> encodeV1 i <|> encodeV2 i <|> encodeM i <|> encodeP i

/-- An errand half word from its fields (R245). -/
def mkErrand (op opnd : Nat) : Option W16 := some (BitVec.ofNat 16 (op * 2 ^ 11 + opnd))

/-- The half word of an errand instruction (R245); none for any other step. -/
def encodeErrand : Instr → Option W16
  | .errandPushi i => mkErrand 0x00 i.toNat
  | .errandPushw n => mkErrand 0x01 n.val
  | .errandPopw n => mkErrand 0x02 n.val
  | .errandDup => mkErrand 0x03 0
  | .errandSwap => mkErrand 0x04 0
  | .errandDrop => mkErrand 0x05 0
  | .errandAdd => mkErrand 0x06 0
  | .errandSub => mkErrand 0x07 0
  | .errandAnd => mkErrand 0x08 0
  | .errandOr => mkErrand 0x09 0
  | .errandXor => mkErrand 0x0A 0
  | .errandShl => mkErrand 0x0B 0
  | .errandShr => mkErrand 0x0C 0
  | .errandCmpeq => mkErrand 0x0D 0
  | .errandCmplt => mkErrand 0x0E 0
  | .ctrRd n => mkErrand 0x0F n.val
  | .ctrAdd n => mkErrand 0x10 n.val
  | .ctrTest n => mkErrand 0x11 n.val
  | .scrRd o => mkErrand 0x12 o.val
  | .scrAdd o => mkErrand 0x13 o.val
  | .scrCas o => mkErrand 0x14 o.val
  | .clone k => mkErrand 0x15 k.toNat
  | .dir p => mkErrand 0x16 p.val
  | .dirPop => mkErrand 0x16 8
  | .dirmin => mkErrand 0x17 0
  | .dirload => mkErrand 0x18 0
  | .bud => mkErrand 0x19 0
  | .jz o => mkErrand 0x1A o.val
  | .jnz o => mkErrand 0x1B o.val
  | .deliv => mkErrand 0x1C 0
  | .dropk => mkErrand 0x1D 0
  | .park c => mkErrand 0x1E c.toNat
  | .fwd => mkErrand 0x1F 0
  | _ => none

/-- The operation code of a command (R379); none for any other step. STILE.INSTALL carries a revocation too (R420). -/
def commandCode : Instr → Option W16
  | .partCreate .. => some 0x0001
  | .partDestroy .. => some 0x0002
  | .partResize .. => some 0x0003
  | .partLimits .. => some 0x0004
  | .partGate .. => some 0x0005
  | .partGen .. => some 0x0006
  | .vfAssign .. => some 0x0010
  | .vfReset .. => some 0x0011
  | .vfWeight .. => some 0x0012
  | .vfS1root .. => some 0x0013
  | .progLoad .. => some 0x0020
  | .taskLaunch .. => some 0x0021
  | .taskCancel .. => some 0x0022
  | .memRead .. => some 0x0023
  | .memWrite .. => some 0x0024
  | .ctxResume .. => some 0x0025
  | .pageReply .. => some 0x0030
  | .migStart .. => some 0x0031
  | .migStop .. => some 0x0032
  | .evidence .. => some 0x0040
  | .labelSet .. => some 0x0041
  | .stileInstall .. => some 0x0042
  | .stileRevoke .. => some 0x0042
  | .rotaSet .. => some 0x0043
  | .slotReserve .. => some 0x0044
  | .slotRelease .. => some 0x0045
  | .replayArm .. => some 0x0050
  | .replayDump .. => some 0x0051
  | .spareSwap .. => some 0x0060
  | .telemetryRead .. => some 0x0070
  | .trustAnchor .. => some 0x0080
  | _ => none

/-- The bytes of an instruction as the hardware stores them (R6): a text word with its extension, or an errand half word. -/
def encode (i : Instr) : Option (List Byte) :=
  match encodeText i with
  | some (w, none) => some (natLe w.toNat 4)
  | some (w, some x) => some (natLe w.toNat 4 ++ natLe x.toNat 4)
  | none => (encodeErrand i).map fun h => natLe h.toNat 2

/-- The length in text words of a text instruction (R11). -/
def textLen (i : Instr) : Nat := match encodeText i with
  | some (_, some _) => 2
  | _ => 1

end Sys2Proof
end

