-- ==== Sys2Proof/Machine/Float.lean ====
section
/-! DEFINITION. Number formats, rounding and exact arithmetic (R54 to R76): a finite value is a signed dyadic, computed exactly and
rounded once. -/

namespace Sys2Proof.Machine

/-- A floating-point format: exponent width, fraction width, bias; e4 for F8E4, which has no infinity (R55, R56). -/
structure Fmt where
  ew : Nat
  fw : Nat
  bias : Nat
  e4 : Bool
deriving DecidableEq, Repr

def f32 : Fmt := ⟨8, 23, 127, false⟩
def bf16 : Fmt := ⟨8, 7, 127, false⟩
def fp16 : Fmt := ⟨5, 10, 15, false⟩
def f8e4 : Fmt := ⟨4, 3, 7, true⟩
def f8e5 : Fmt := ⟨5, 2, 15, false⟩

/-- A decoded value: a NaN with its sign, whether it signals, and its fraction of fw bits; an infinity; or (-1)^neg × m × 2^e. -/
inductive FV
  | nan (neg sig : Bool) (frac fw : Nat)
  | inf (neg : Bool)
  | fin (neg : Bool) (m : Nat) (e : Int)
deriving DecidableEq, Repr

/-- The value of a code (R55, R56). -/
def Fmt.decode (F : Fmt) (code : Nat) : FV :=
  let s := code / 2 ^ (F.ew + F.fw) % 2 == 1
  let e := code / 2 ^ F.fw % 2 ^ F.ew
  let f := code % 2 ^ F.fw
  let top := 2 ^ F.ew - 1
  if F.e4 && e == top && f == 7 then .nan s false 7 3
  else if !F.e4 && e == top then
    if f = 0 then .inf s else .nan s (f / 2 ^ (F.fw - 1) == 0) f F.fw
  else if e = 0 then .fin s f (1 - (F.bias : Int) - F.fw)
  else .fin s (f + 2 ^ F.fw) ((e : Int) - F.bias - F.fw)

/-- The bit length of a number. -/
def bitLen (m : Nat) : Nat := if m = 0 then 0 else Nat.log2 m + 1

/-- Whether a magnitude whose discarded part is r of 2^sh moves away from zero (R67). -/
def roundsUp (mode : RMode) (neg : Bool) (kept r sh : Nat) : Bool :=
  match mode with
  | .rne => decide (2 ^ sh < 2 * r) || (2 * r == 2 ^ sh && kept % 2 == 1)
  | .rtz => false
  | .rup => !neg && decide (0 < r)
  | .rdn => neg && decide (0 < r)
  | .rna => decide (2 ^ sh ≤ 2 * r)

/-- m × 2^e, plus something below one unit when st, on the grid of 2^q (R67). -/
def roundAt (mode : RMode) (neg : Bool) (m : Nat) (e : Int) (st : Bool) (q : Int) : Nat :=
  let m4 := 4 * m + (if st then 1 else 0)
  let sh := q - (e - 2)
  if sh ≤ 0 then m4 * 2 ^ (-sh).toNat
  else
    let n := sh.toNat
    let kept := m4 / 2 ^ n
    kept + (if roundsUp mode neg kept (m4 % 2 ^ n) n then 1 else 0)

/-- The sign bit of a code. -/
def Fmt.signBit (F : Fmt) (neg : Bool) : Nat := if neg then 2 ^ (F.ew + F.fw) else 0
/-- The code of an infinity, of the largest finite value, of the default NaN (R55, R58). -/
def Fmt.infCode (F : Fmt) (neg : Bool) : Nat := F.signBit neg + (2 ^ F.ew - 1) * 2 ^ F.fw
def Fmt.maxCode (F : Fmt) (neg : Bool) : Nat := F.signBit neg + (if F.e4 then 0x7E else (2 ^ F.ew - 1) * 2 ^ F.fw - 1)

/-- A magnitude rounded once to a format, and whether it saturated (R68, R71). -/
def Fmt.round (F : Fmt) (mode : RMode) (sat neg : Bool) (m : Nat) (e : Int) (st : Bool) : Nat × Bool :=
  let low : Int := 1 - (F.bias : Int) - F.fw
  let q0 := max (e + bitLen m - (F.fw + 1)) low
  let k := roundAt mode neg m e st q0
  let (k, q) := if k = 2 ^ (F.fw + 1) then (2 ^ F.fw, q0 + 1) else (k, q0)
  let top : Int := if F.e4 then 5 else (2 ^ F.ew - 2 : Nat) - (F.bias : Int) - F.fw
  if top < q || (F.e4 && q == top && k == 15) then
    if sat || F.e4 then (F.maxCode neg, true)
    else
      let toInf := match mode with
        | .rne | .rna => true
        | .rtz => false
        | .rup => !neg
        | .rdn => neg
      (if toInf then F.infCode neg else F.maxCode neg, false)
  else if k < 2 ^ F.fw then (F.signBit neg + k, false)
  else (F.signBit neg + (q + F.fw + F.bias).toNat * 2 ^ F.fw + (k - 2 ^ F.fw), false)

/-- A NaN in another format (R73). -/
def Fmt.nanCode (F : Fmt) (neg : Bool) (frac fw : Nat) : Nat :=
  if F.e4 then F.signBit neg + 0x7F
  else
    let f := if fw ≤ F.fw then frac * 2 ^ (F.fw - fw) else frac / 2 ^ (fw - F.fw)
    F.infCode neg + (if f = 0 then 1 else f)

/-- A value converted to a floating-point format, and whether it saturated (R71, R73). -/
def Fmt.convert (F : Fmt) (mode : RMode) (sat : Bool) : FV → Nat × Bool
  | .nan neg _ frac fw => (F.nanCode neg frac fw, false)
  | .inf neg => if sat || F.e4 then (F.maxCode neg, true) else (F.infCode neg, false)
  | .fin neg m e => F.round mode sat neg m e false

/-- A value converted to an integer between two bounds: the integer, whether it saturated, whether it was a NaN (R72). -/
def toIntFmt (mode : RMode) (lo hi : Int) : FV → Int × Bool × Bool
  | .nan .. => (0, false, true)
  | .inf neg => (if neg then lo else hi, true, false)
  | .fin neg m e =>
    let k : Int := roundAt mode neg m e false 0
    let v := if neg then -k else k
    if v < lo then (lo, true, false) else if hi < v then (hi, true, false) else (v, false, false)

/-! ### Exact sums -/

/-- A finite value as an integer times a power of two. -/
abbrev Dy := Int × Int

def FV.dy : FV → Dy
  | .fin neg m e => (if neg then -(m : Int) else m, e)
  | _ => (0, 0)

/-- The exact sum and product. -/
def Dy.add (a b : Dy) : Dy :=
  if a.1 = 0 then b else if b.1 = 0 then a
  else if a.2 ≤ b.2 then (a.1 + b.1 * 2 ^ (b.2 - a.2).toNat, a.2) else (a.1 * 2 ^ (a.2 - b.2).toNat + b.1, b.2)
def Dy.mul (a b : Dy) : Dy := (a.1 * b.1, a.2 + b.2)
def Dy.sum : List Dy → Dy
  | [] => (0, 0)
  | a :: as => Dy.add a (Dy.sum as)
def Dy.neg (a : Dy) : Dy := (-a.1, a.2)

/-- A non-zero exact value rounded once to FP32; a zero takes the sign given (R69). -/
def round32 (mode : RMode) (zneg : Bool) (d : Dy) : W32 :=
  if d.1 = 0 then BitVec.ofNat 32 (f32.signBit zneg)
  else BitVec.ofNat 32 (f32.round mode false (decide (d.1 < 0)) d.1.natAbs d.2 false).1

/-- The sign of an exact zero sum (R69). -/
def zeroNeg (mode : RMode) (terms : List FV) : Bool :=
  mode == .rdn || terms.all fun t => match t with
    | .fin neg m _ => neg && m == 0
    | _ => false

/-- num / den × 2^e with enough bits to round once: the quotient, its exponent, whether anything remains. -/
def quot (num den : Nat) (e : Int) : Nat × Int × Bool :=
  let k := 40 + bitLen den - bitLen num
  let n := num * 2 ^ k
  (n / den, e - k, n % den != 0)

/-- A quotient of a dyadic and a positive number, rounded once to FP32 with RNE. -/
def roundQuot32 (zneg : Bool) (d : Dy) (den : Nat) (e2 : Int) : W32 :=
  if d.1 = 0 then BitVec.ofNat 32 (f32.signBit zneg)
  else
    let (q, e, st) := quot d.1.natAbs den (d.2 - e2)
    BitVec.ofNat 32 (f32.round .rne false (decide (d.1 < 0)) q e st).1

/-! ### FP32 lanes -/

def defaultNan32 : W32 := 0x7FC00000

/-- The value of an FP32 code. -/
def val32 (a : W32) : FV := f32.decode a.toNat

def FV.isNan : FV → Bool
  | .nan .. => true
  | _ => false
def FV.isSnan : FV → Bool
  | .nan _ sig _ _ => sig
  | _ => false
def FV.isInf : FV → Bool
  | .inf _ => true
  | _ => false
def FV.isZero : FV → Bool
  | .fin _ m _ => m == 0
  | _ => false
def FV.neg : FV → Bool
  | .nan n _ _ _ => n
  | .inf n => n
  | .fin n _ _ => n

/-- A NaN code with its quiet bit set. -/
def quiet32 (a : W32) : W32 := a ||| 0x00400000

/-- The first NaN among the operands, quietened, and whether any NaN signals (R75). -/
def nanOf (ops : List W32) : Option (W32 × Bool) :=
  (ops.find? fun a => (val32 a).isNan).map fun a => (quiet32 a, ops.any fun b => (val32 b).isSnan)

/-- The infinity among terms none of which is a NaN, or that infinities of both signs meet. -/
inductive InfSum | none | one (neg : Bool) | both
deriving DecidableEq, Repr

def infSum (terms : List FV) : InfSum :=
  let p := terms.any fun t => t == .inf false
  let n := terms.any fun t => t == .inf true
  if p && n then .both else if p then .one false else if n then .one true else .none

def inf32 (neg : Bool) : W32 := BitVec.ofNat 32 (f32.infCode neg)

/-- The sum of terms none of which is a NaN, rounded once, and whether it was invalid (R69, R75). -/
def sumTerms (mode : RMode) (terms : List FV) : W32 × Bool :=
  match infSum terms with
  | .both => (defaultNan32, true)
  | .one n => (inf32 n, false)
  | .none => (round32 mode (zeroNeg mode terms) (Dy.sum (terms.map FV.dy)), false)

/-- The product of two values none of which is a NaN: its value, or none when it is infinity × 0 (R75). -/
def mulFV (a b : FV) : Option FV :=
  if (a.isInf && b.isZero) || (a.isZero && b.isInf) then none
  else if a.isInf || b.isInf then some (.inf (a.neg != b.neg))
  else match a, b with
    | .fin na ma ea, .fin nb mb eb => some (.fin (na != nb) (ma * mb) (ea + eb))
    | _, _ => none

def FV.negate : FV → FV
  | .nan n s f w => .nan n s f w
  | .inf n => .inf (!n)
  | .fin n m e => .fin (!n) m e

/-- VADD, AMO.FADD, FP32 accumulates (R75, R78). The second part is the invalid flag. -/
def fadd (a b : W32) : W32 × Bool :=
  match nanOf [a, b] with
  | some r => r
  | none => sumTerms .rne [(val32 a), (val32 b)]
def fsub (a b : W32) : W32 × Bool :=
  match nanOf [a, b] with
  | some r => r
  | none => sumTerms .rne [(val32 a), (val32 b).negate]
def fmul (a b : W32) : W32 × Bool :=
  match nanOf [a, b] with
  | some r => r
  | none => match mulFV (val32 a) (val32 b) with
    | none => (defaultNan32, true)
    | some (.fin n m e) => (round32 .rne n (if n then -(m : Int) else m, e), false)
    | some v => (inf32 v.neg, false)
/-- VFMA: a × b + d, NaNs chosen in the order d, a, b (R75, R187). -/
def ffma (d a b : W32) : W32 × Bool :=
  let prod := if (val32 a).isNan || (val32 b).isNan then some (.fin false 0 0) else mulFV (val32 a) (val32 b)
  match nanOf [d, a, b] with
  | some (r, sig) => (r, sig)
  | none => match prod with
    | none => (defaultNan32, true)
    | some v => sumTerms .rne [v, (val32 d)]

/-- Whether a is below b, -0 below +0; neither a NaN (R77). -/
def flt (a b : W32) : Bool :=
  let key (c : W32) : Int := if c.msb then -((c.toNat : Int) - 2 ^ 31) - 1 else c.toNat
  decide (key a < key b)
/-- VMIN, VMAX, AMO.FMIN, AMO.FMAX with the first operand m and the second v (R76, R77). -/
def fminmax (isMax : Bool) (m v : W32) : W32 × Bool :=
  let sig := (val32 m).isSnan || (val32 v).isSnan
  if (val32 m).isNan && (val32 v).isNan then (defaultNan32, sig)
  else if (val32 m).isNan then (v, sig)
  else if (val32 v).isNan then (m, sig)
  else if isMax then (if flt m v then v else m, sig)
  else (if flt v m then v else m, sig)

/-! ### Reciprocal, roots, exponential and logarithm (R189) -/

/-- The integer square root, bit by bit. -/
def isqrtFrom (n : Nat) : Nat → Nat → Nat
  | 0, r => r
  | b + 1, r => isqrtFrom n b (if (r + 2 ^ b) * (r + 2 ^ b) ≤ n then r + 2 ^ b else r)

/-- 1/√(m × 2^e) with its remainder mark. -/
def rsqrt (m : Nat) (e : Int) : Nat × Int × Bool :=
  let (m, e) := if e % 2 = 0 then (m, e) else (2 * m, e - 1)
  let n := 2 ^ 160 / m
  let r := isqrtFrom n 81 0
  (r, -(e / 2) - 80, r * r * m != 2 ^ 160)

/-- ln 2 in units of 2^-256, rounded down. -/
def ln2 : Nat := 0xb17217f7d1cf79abc9e3b39803f2f6af40f343267298b62d8a0d175b8baafa2b

/-- The Taylor sum of e^y, y in units of 2^-256: n more terms, the i-th next. -/
def expTaylor (y : Nat) : Nat → Nat → Nat → Nat → Nat
  | 0, _, _, acc => acc
  | n + 1, i, t, acc => expTaylor y n (i + 1) (t * y / 2 ^ 256 / i) (acc + t)

/-- 2^f in units of 2^-256, f in units of 2^-256 (R189). -/
def exp2Frac (f : Nat) : Nat := expTaylor (f * ln2 / 2 ^ 256) 64 1 (2 ^ 256) 0

/-- Bits of log2 t, t in [1, 2) in units of 2^-320: n more bits. -/
def log2Bits : Nat → Nat → Nat → Nat
  | 0, _, acc => acc
  | n + 1, t, acc =>
    let u := t * t / 2 ^ 320
    if 2 ^ 321 ≤ u then log2Bits n (u / 2) (2 * acc + 1) else log2Bits n u (2 * acc)

def frcp (x : W32) : W32 × Bool :=
  match (val32 x) with
  | .nan _ sig _ _ => (quiet32 x, sig)
  | .inf n => (BitVec.ofNat 32 (f32.signBit n), false)
  | .fin n 0 _ => (inf32 n, false)
  | .fin n m e =>
    let (q, e, st) := quot 1 m (-e)
    (BitVec.ofNat 32 (f32.round .rne false n q e st).1, false)

def frsq (x : W32) : W32 × Bool :=
  match (val32 x) with
  | .nan _ sig _ _ => (quiet32 x, sig)
  | .inf n => if n then (defaultNan32, true) else (0, false)
  | .fin n 0 _ => (inf32 n, false)
  | .fin n m e =>
    if n then (defaultNan32, true)
    else
      let (q, e, st) := rsqrt m e
      (BitVec.ofNat 32 (f32.round .rne false false q e st).1, false)

def fexp2 (x : W32) : W32 × Bool :=
  match (val32 x) with
  | .nan _ sig _ _ => (quiet32 x, sig)
  | .inf n => (if n then 0 else inf32 false, false)
  | .fin n m e =>
    -- the value in units of 2^-149, exact for every FP32 code
    let v : Int := (if n then -(m : Int) else m) * 2 ^ (e + 149).toNat
    let i := v / 2 ^ 149
    let f := (v % 2 ^ 149).toNat
    if 200 < i then (inf32 false, false)
    else if i < -200 then (0, false)
    else if f = 0 then (BitVec.ofNat 32 (f32.round .rne false false 1 i false).1, false)
    else (BitVec.ofNat 32 (f32.round .rne false false (exp2Frac (f * 2 ^ 107)) (i - 256) true).1, false)

def flog2 (x : W32) : W32 × Bool :=
  match (val32 x) with
  | .nan _ sig _ _ => (quiet32 x, sig)
  | .inf n => if n then (defaultNan32, true) else (inf32 false, false)
  | .fin _ 0 _ => (inf32 true, false)
  | .fin n m e =>
    if n then (defaultNan32, true)
    else
      let l := bitLen m - 1
      let ex : Int := e + l
      if m = 2 ^ l then (round32 .rne false (ex, 0), false)
      else
        let frac := log2Bits 128 (m * 2 ^ (320 - l)) 0
        let v : Int := ex * 2 ^ 128 + frac
        if 0 ≤ v then (BitVec.ofNat 32 (f32.round .rne false false v.toNat (-128) true).1, false)
        else (BitVec.ofNat 32 (f32.round .rne false true ((-v).toNat - 1) (-128) true).1, false)

/-! ### Element formats by code (R54) -/

/-- The floating-point format of a code 0 to 4. -/
def fmtOf : Nat → Option Fmt
  | 0 => some f32
  | 1 => some bf16
  | 2 => some fp16
  | 3 => some f8e4
  | 4 => some f8e5
  | _ => none

/-- The signed value of the low n bits. -/
def sextNat (n w : Nat) : Int := if w % 2 ^ n < 2 ^ (n - 1) then (w % 2 ^ n : Nat) else ((w % 2 ^ n : Nat) : Int) - 2 ^ n

def intFV (v : Int) : FV := .fin (decide (v < 0)) v.natAbs 0

/-- The value of an element code in a format 0 to 7 (R54, R59). -/
def elemFV (fmt w : Nat) : FV :=
  match fmt with
  | 5 => intFV (sextNat 8 w)
  | 6 => intFV (w % 256 : Nat)
  | 7 => intFV (sextNat 32 w)
  | n => match fmtOf n with
    | some F => F.decode (w % 2 ^ (1 + F.ew + F.fw))
    | none => .fin false 0 0

/-- FP32 to FX64 at a scale: the integer, whether it saturated, whether it was a NaN (R64). -/
def toFx64 (scale : Int) (x : W32) : W64 × Bool × Bool :=
  match (val32 x) with
  | .nan .. => (0, false, true)
  | .inf n => (if n then 0x8000000000000000 else 0x7FFFFFFFFFFFFFFF, true, false)
  | .fin n m e =>
    let k : Int := roundAt .rne n m e false scale
    let v := if n then -k else k
    if v < -2 ^ 63 then (0x8000000000000000, true, false)
    else if 2 ^ 63 - 1 < v then (0x7FFFFFFFFFFFFFFF, true, false)
    else (BitVec.ofInt 64 v, false, false)

/-- The sum of two FX64 elements and whether it saturated (R65). -/
def fxAdd (a b : W64) : W64 × Bool :=
  let v := a.toInt + b.toInt
  if v < -2 ^ 63 then (0x8000000000000000, true)
  else if 2 ^ 63 - 1 < v then (0x7FFFFFFFFFFFFFFF, true)
  else (BitVec.ofInt 64 v, false)

/-! ### Q4X rows (R60, R61) -/

/-- Nibble i of a Q4X row given by its bytes. -/
def nib (b : Nat → Byte) (i : Nat) : Nat := if i % 2 = 0 then (b (i / 2)).toNat % 16 else (b (i / 2)).toNat / 16

/-- Pass one: the markers among positions i to 126, the last marker standing at `last` (R61). -/
def q4xMarkers (n : Nat → Nat) : Nat → Nat → Option Nat → List Nat
  | 0, _, _ => []
  | k + 1, i, last =>
    if n i = 8 && (match last with | none => true | some m => decide (m + 3 ≤ i)) then
      i :: q4xMarkers n k (i + 1) (some i)
    else q4xMarkers n k (i + 1) last

/-- The unscaled values of a Q4X row, each with whether it is an invalid placement (R61). -/
def q4xList (b : Nat → Byte) : List (FV × Bool) :=
  let n := nib b
  let ms := q4xMarkers n 126 1 none
  let claimed (i : Nat) : Bool := ms.any fun m => m == i + 1 || m + 1 == i
  let at_ (i : Nat) : FV × Bool :=
    if ms.contains i then (f8e4.decode (n (i - 1) * 16 + n (i + 1)), false)
    else if claimed i then (.fin false 0 0, false)
    else if n i = 8 then (.fin false 0 0, true)
    else (intFV (sextNat 4 (n i)), false)
  (List.range 128).map at_

end Sys2Proof.Machine
end

