-- ==== Sys2Proof/Machine/Sparse.lean ====
section
/-! DEFINITION. Tables in canonical form: reading and writing one key, and the form itself. -/

namespace Sys2Proof.Machine

/-- What a table holds at a key; d is what an unlisted key reads as. -/
def Sparse.get {α : Type} (d : α) : Sparse α → Nat → α
  | [], _ => d
  | (k, v) :: t, n => if n < k then d else if n = k then v else Sparse.get d t n

/-- The table with one key written; writing d removes the key. -/
def Sparse.set {α : Type} [DecidableEq α] (d : α) : Sparse α → Nat → α → Sparse α
  | [], n, v => if v = d then [] else [(n, v)]
  | (k, u) :: t, n, v =>
    if n < k then (if v = d then (k, u) :: t else (n, v) :: (k, u) :: t)
    else if n = k then (if v = d then t else (n, v) :: t)
    else (k, u) :: Sparse.set d t n v

/-- Consecutive keys from n written in turn. -/
def Sparse.setMany {α : Type} [DecidableEq α] (d : α) (l : Sparse α) (n : Nat) : List α → Sparse α
  | [] => l
  | v :: vs => Sparse.setMany d (Sparse.set d l n v) (n + 1) vs

/-- Keys strictly rising from lo on, and no entry equal to d. -/
def Sparse.wfFrom {α : Type} [DecidableEq α] (d : α) (lo : Nat) : Sparse α → Bool
  | [] => true
  | (k, v) :: t => decide (lo ≤ k) && decide (v ≠ d) && Sparse.wfFrom d (k + 1) t

/-- The canonical form. -/
def Sparse.wf {α : Type} [DecidableEq α] (d : α) (l : Sparse α) : Bool := Sparse.wfFrom d 0 l

/-- The lowest index of a list whose element satisfies p. -/
def lowest {α : Type} (p : α → Bool) : List α → Option Nat
  | [] => none
  | a :: as => if p a then some 0 else (lowest p as).map (· + 1)

/-- Numbers in ascending order. -/
def ascending (l : List Nat) : List Nat := l.insertionSort (· ≤ ·)

/-- A list without its element at an index. -/
def dropAt {α : Type} (l : List α) (i : Nat) : List α := l.eraseIdx i

/-- Whether the stream index a stands after b, by their difference (R14). -/
def after (a b : W32) : Bool := decide (0 < (a - b).toInt)

/-- The trailing one of two stream indices. -/
def trailing (a b : W32) : W32 := if after a b then b else a

end Sys2Proof.Machine
end

