-- ==== Sys2Proof/Machine/Ops.lean ====
section
/-! DEFINITION. The named operations over a core: parts of the state, earmarks, generations, engines, tokens, the K journal, passing
a word, raising a fault, and entering and leaving the in-core handler. -/

namespace Sys2Proof.Machine

abbrev Out := Host.Outcome State Fault Refusal

/-! ### Parts of the state -/

def State.onCore (f : Core → Core) (s : State) : State := { s with core := f s.core }
def State.onPlace (f : Place → Place) (s : State) : State := { s with core := { s.core with place := f s.core.place } }
def State.onRegs (f : Regs → Regs) (s : State) : State := { s with core := { s.core with regs := f s.core.regs } }
def State.onWalk (f : Walk → Walk) (s : State) : State := { s with core := { s.core with walk := f s.core.walk } }
def State.onQ (f : Queues → Queues) (s : State) : State := { s with core := { s.core with q := f s.core.q } }
def State.onPort (f : Port → Port) (s : State) : State := { s with core := { s.core with port := f s.core.port } }
def State.onMat (f : MatState → MatState) (s : State) : State := { s with core := { s.core with mat := f s.core.mat } }
def State.onWaits (f : Waits → Waits) (s : State) : State := { s with core := { s.core with waits := f s.core.waits } }
def State.onMem (f : Memory → Memory) (s : State) : State := { s with mem := f s.mem }
def State.onGran (f : Granary → Granary) (s : State) : State := { s with gran := f s.gran }
def State.onXr (f : Xroads → Xroads) (s : State) : State := { s with xr := f s.xr }
def State.onColl (f : CollSide → CollSide) (s : State) : State := { s with coll := f s.coll }
def State.onDisp (f : Dispatch → Dispatch) (s : State) : State := { s with disp := f s.disp }
def State.onFab (f : Fabric → Fabric) (s : State) : State := { s with fab := f s.fab }
def State.onMgmt (f : Mgmt → Mgmt) (s : State) : State := { s with mgmt := f s.mgmt }

/-- A window of 1,024 cycles begins: the slices' counts restart (R288). -/
def State.newWindow (s : State) : State := s.onGran fun g => { g with quota := [], window := s.gcc }

/-- The identity of the core that moves. -/
def Core.id (c : Core) : CoreId := ⟨c.place.part, c.place.num⟩

/-- The state with the named core as the one that moves; none when no such core stands in a partition. -/
def State.focus (c : CoreId) (s : State) : Option State :=
  if s.core.id = c then some s
  else match lowest (fun k => decide (Core.id k = c)) s.others with
    | none => none
    | some i => match s.others[i]? with
      | none => none
      | some k => some { s with core := k, others := s.others.set i s.core }

/-- A change made at the named core, the core that moves staying the same; nothing when there is no such core. -/
def State.atCore (c : CoreId) (f : Core → Core) (s : State) : State :=
  if s.core.id = c then { s with core := f s.core }
  else { s with others := s.others.map fun k => if Core.id k = c then f k else k }

/-- Every core of the module, the one that moves first. -/
def State.cores (s : State) : List Core := s.core :: s.others
/-- The named core. -/
def State.coreAt (c : CoreId) (s : State) : Option Core := s.cores.find? fun k => decide (Core.id k = c)

def State.partAt (s : State) (p : Nat) : Part := s.disp.parts[p]?.getD Part.init
def State.vfAt (s : State) (v : Nat) : Vf := s.disp.vfs[v]?.getD Vf.init
def State.setPart (p : Nat) (f : Part → Part) (s : State) : State :=
  s.onDisp fun d => { d with parts := d.parts.setIfInBounds p (f (d.parts[p]?.getD Part.init)) }
def State.setVf (v : Nat) (f : Vf → Vf) (s : State) : State :=
  s.onDisp fun d => { d with vfs := d.vfs.setIfInBounds v (f (d.vfs[v]?.getD Vf.init)) }
def State.taskAt (s : State) (t : Nat) : Option Task := s.disp.tasks.find? fun k => k.id == t
def State.setTask (t : Nat) (f : Task → Task) (s : State) : State :=
  s.onDisp fun d => { d with tasks := d.tasks.map fun k => if k.id = t then f k else k }

/-- The parts of a cycle at h times 100 MHz that the model counts real time in: a cycle is unit / h of them, a microsecond 100 × unit, for
every clock of R423 a whole number (log entry 72). -/
def timeUnit : Nat := 144403552893600
def microsecond : Nat := 100 * timeUnit
/-- The real time one cycle takes at a clock in MHz (R3, R423). -/
def cycleTime (clock : Nat) : Nat := timeUnit / max 1 (clock / 100)

/-- The free choice among n things, the k-th of this step. -/
def State.pick (s : State) (k n : Nat) : Nat := if n ≤ 1 then 0 else Config.choice s.ticks k % n

/-! ### Earmarks and generations -/

/-- Labels in ascending order without repeats. -/
def insertLabel (l : Nat) : List Nat → List Nat
  | [] => [l]
  | k :: t => if l < k then l :: k :: t else if l = k then k :: t else k :: insertLabel l t

/-- earmark_union (R284). -/
def Mark.union (a b : Mark) : Mark :=
  let l := a.labels.foldl (fun acc x => insertLabel x acc) b.labels
  if 4 < l.length then ⟨l.take 4, true⟩ else ⟨l, a.ovf || b.ovf⟩
def Mark.unions (l : List Mark) : Mark := l.foldl Mark.union Mark.empty

/-- The generation the core's entries take and must carry (R9, R22). -/
def State.gen (s : State) : Gen := s.core.place.gen

/-- What a read of an entry gives: zero with an empty earmark when its generation is stale (R9, R126, R149, R185). -/
def Tagged.live {α : Type} (zero : α) (g : Gen) (t : Tagged α) : Tagged α :=
  if t.gen = g then t else ⟨zero, g, Mark.empty⟩

/-! ### Engines, tokens -/

/-- The five engines in the order S, A, V, M, P. -/
def engines : List Engine := [.s, .a, .v, .m, .p]

def Core.eng (c : Core) (e : Engine) : Eng := c.walk.engs[e.ix]
def Core.onEng (e : Engine) (f : Eng → Eng) (c : Core) : Core :=
  { c with walk := { c.walk with engs := c.walk.engs.set e.ix (f c.walk.engs[e.ix]) } }
def State.eng (s : State) (e : Engine) : Eng := s.core.eng e
def State.onEng (e : Engine) (f : Eng → Eng) (s : State) : State := s.onCore (Core.onEng e f)
/-- The engine that executes a word. -/
def State.me (s : State) : Eng := s.eng s.act

/-- Where the count of tokens from one engine to another stands. -/
def tokIx (src dst : Engine) : Fin 25 := ⟨src.ix.val * 5 + dst.ix.val, by have := src.ix.isLt; have := dst.ix.isLt; omega⟩
def Core.tok (c : Core) (src dst : Engine) : Nat := c.walk.toks[tokIx src dst]
def Core.addTok (src dst : Engine) (f : Nat → Nat) (c : Core) : Core :=
  { c with walk := { c.walk with toks := c.walk.toks.set (tokIx src dst) (f c.walk.toks[tokIx src dst]) } }

/-- An engine blocks, or halts, with a reason. -/
def Eng.wait (r : Block) (x : Eng) : Eng := { x with blk := r, look := false }
/-- An engine that is blocked looks again: whatever it waits for may have changed. Its reason stands until it does. -/
def Eng.wake (x : Eng) : Eng :=
  match x.blk with
  | .running => x
  | .atHalt => x
  | .faulted => x
  | _ => { x with look := true }
def Core.wake (c : Core) : Core := { c with walk := { c.walk with engs := c.walk.engs.map Eng.wake } }
/-- A token, a data queue, CTAGS or a journal has moved: the mutual-stall counter starts again (R45). -/
def Core.stir (c : Core) : Core := { c with walk := { c.walk with stall := 0 } }

/-- The lowest stream index among the engines (R14). -/
def Core.trailing (c : Core) : W32 := (engines.map fun e => (c.eng e).six).foldl Machine.trailing (c.eng .s).six
/-- The highest stream index among the engines. -/
def Core.leading (c : Core) : W32 :=
  (engines.map fun e => (c.eng e).six).foldl (fun a b => if after b a then b else a) (c.eng .s).six

/-- The wait tokens that the word at which an engine stands has taken from a source and not yet used up (R42, R51). -/
def Core.held (c : Core) (src dst : Engine) : Nat :=
  let x := c.eng dst
  if x.popped && !x.done then
    match tokField dst (fld (Sparse.get 0 c.walk.text x.pc) 26 3) with
    | .ok (some e) => if e = src then 1 else 0
    | _ => 0
  else 0
/-- Whether a token queue has room for one more: a token taken by a word that has not finished keeps its place, since a stop gives it
back (R19, R45, R53; log entry 92). -/
def Core.tokRoom (c : Core) (src dst : Engine) : Bool := decide (c.tok src dst + c.held src dst < Config.tokenMax)

/-- SLIP.LIMIT (R14). -/
def Core.slipLimit (c : Core) : Nat := fld c.regs.slip 0 9

/-- Whether an engine that passes a word of len text words would make the slip exceed its limit (R14). -/
def Core.slips (c : Core) (e : Engine) (len : Nat) : Bool :=
  let six := (c.eng e).six + BitVec.ofNat 32 len
  let tr := (engines.map fun f => if f = e then six else (c.eng f).six).foldl Machine.trailing six
  decide (c.slipLimit < (six - tr).toNat)

/-! ### The K registers and the journals (R16, R17) -/

/-- The K view of an engine. -/
def Core.kView (c : Core) (e : Engine) : Vector (Tagged W32) 16 := c.regs.k[e.ix]
def Core.setK (e : Engine) (r : KR) (v : Tagged W32) (c : Core) : Core :=
  { c with regs := { c.regs with k := c.regs.k.set e.ix ((c.regs.k[e.ix]).set r v) } }
def Core.journal (c : Core) (e : Engine) : List JEntry := c.regs.jour[e.ix]
def Core.setJournal (e : Engine) (l : List JEntry) (c : Core) : Core :=
  { c with regs := { c.regs with jour := c.regs.jour.set e.ix l } }

/-- A journal entry taking effect in an engine's view; a new TTB in A's view empties the shape cache, whose entries come from the old table
(R270, R278). -/
def Core.applyEntry (e : Engine) (j : JVal) (c : Core) : Core :=
  match j with
  | .k r v => c.setK e r v
  | .ttb v => if e = .a then { c with regs := { c.regs with ttbA := v }, port := { c.port with shapes := [] } } else c

/-- Entries an engine has passed are freed, oldest first (R17). -/
def Core.freeEntries (e : Engine) : Nat → Core → Core
  | 0, c => c
  | n + 1, c =>
    match c.journal e with
    | [] => c
    | j :: t => if after (c.eng e).six j.pos then Core.freeEntries e n ((c.applyEntry e j.val).setJournal e t) else c

/-- Whether every journal has room for n entries (R17). -/
def Core.journalRoom (c : Core) (n : Nat) : Bool :=
  [Engine.a, .v, .m, .p].all fun e => decide ((c.journal e).length + n ≤ Config.journalDepth)

/-- S's write of a K register, or of TTB, at its stream index: into its own view, and into every other engine's journal, or at
once into the view of an engine already past it (R16, R17, R270). -/
def Core.writeJournal (j : JVal) (c : Core) : Core :=
  let q := (c.eng .s).six
  [Engine.a, .v, .m, .p].foldl (fun c e =>
    if after (c.eng e).six q then c.applyEntry e j else c.setJournal e (c.journal e ++ [⟨q, j⟩])) (c.applyEntry .s j)
def Core.writeK (r : KR) (v : Tagged W32) (c : Core) : Core := c.writeJournal (.k r v)

/-! ### Passing a word -/

/-- PPOINTs every engine has passed fall out of the list; the last of them stays as the trailing engine's (R46). -/
def Core.prunePoints (c : Core) : Core :=
  let tr := c.trailing
  let old := c.walk.points.filter fun p => after tr p.pos
  let base := match old with
    | [] => c.walk.pointBase
    | p :: t => some (t.foldl (fun b x => if after x.pos b.pos then x else b) p)
  { c with walk := { c.walk with points := c.walk.points.filter fun p => !after tr p.pos, pointBase := base,
                                 decisions := c.walk.decisions.filter fun d => !after tr d.1,
                                 jobGives := c.walk.jobGives.filter fun d => !after tr d.pos } }

/-- An engine at another text index, its stream index moved by len words; S in the handler keeps its stream index (R14, R143). -/
def Core.stepped (e : Engine) (pc len : Nat) (c : Core) : Core :=
  let frozen := c.regs.hmode = true ∧ e = .s
  c.onEng e fun x => { x with pc := pc, six := if frozen then x.six else x.six + BitVec.ofNat 32 len,
                              blk := .running, popped := false, done := false, seen := false, look := false }
/-- An engine moves on: the journal entries it has passed are freed, and whatever waits looks again (R17, R45, R46). -/
def Core.moveOn (e : Engine) (pc len : Nat) (c : Core) : Core :=
  let c := c.stepped e pc len
  (((c.freeEntries e (c.journal e).length).prunePoints).wake).stir

/-! ### Faults (R41 to R44) -/

/-- The word at the engine's text index, and whether it is long. -/
def Core.wordAt (c : Core) (ix : Nat) : W32 := Sparse.get 0 c.walk.text ix
def State.curWord (s : State) : W32 := s.core.wordAt s.me.pc
def State.curOp (s : State) : Nat := fld s.curWord 16 6
def State.curLong (s : State) : Bool := bit s.curWord 22
def longBit (s : State) : Nat := if s.curLong then 2 ^ 6 else 0

/-- An engine halts at its word: its token goes back, and the fault is kept until the context stops (R41, R42). -/
def raiseFault (cause : Cause) (istatus addr : W64) (pages : List PageMiss) (s : State) : State :=
  let e := s.act
  let x := s.me
  let back : Option Engine := if x.popped then (match tokField e (fld s.curWord 26 3) with
    | .ok t => t
    | .error _ => none) else none
  let s := match back with
    | some src => s.onCore (Core.addTok src e (· + 1))
    | none => s
  let s := s.onEng e fun x => { x.wait .faulted with popped := false, done := false }
  s.onWalk fun w => { w with faults := w.faults ++ [⟨cause, e, x.pc, x.six, istatus, addr, s.core.regs.hmode && e == .s, pages⟩] }

/-- S's internal status word (R146). -/
def sStatus (szlg ocl step : Nat) (s : State) : W64 :=
  BitVec.ofNat 64 ((s.eng .s).stack.length * 2 ^ 28 + (if s.core.regs.hmode then 2 ^ 27 else 0) + szlg * 2 ^ 20 + ocl * 2 ^ 16
    + step * 2 ^ 8 + longBit s + s.curOp)
/-- A's internal status word (R181). -/
def aStatus (nflt tid elem ctag ocl tens step : Nat) (s : State) : W64 :=
  BitVec.ofNat 64 (nflt * 2 ^ 57 + tid * 2 ^ 49 + elem * 2 ^ 43 + ctag * 2 ^ 37 + ocl * 2 ^ 33 + tens * 2 ^ 32 + step * 2 ^ 8
    + longBit s + s.curOp)
/-- V's internal status word (R208). -/
def vStatus (check step : Nat) (s : State) : W64 :=
  let sh := s.core.regs.vsh
  BitVec.ofNat 64 (fld sh 0 4 * 2 ^ 44 + fld sh 11 2 * 2 ^ 42 + fld sh 4 6 * 2 ^ 36 + check * 2 ^ 16 + step * 2 ^ 8
    + longBit s + s.curOp)
/-- M's internal status word (R225). -/
def mStatus (stamp kdone acc refb check step : Nat) (s : State) : W64 :=
  BitVec.ofNat 64 (stamp * 2 ^ 32 + kdone * 2 ^ 26 + acc * 2 ^ 23 + refb * 2 ^ 22 + check * 2 ^ 16 + step * 2 ^ 8
    + longBit s + s.curOp)
/-- P's internal status word (R252). -/
def pStatus (slot pslot check step : Nat) (s : State) : W64 :=
  BitVec.ofNat 64 (slot * 2 ^ 32 + pslot * 2 ^ 24 + check * 2 ^ 16 + step * 2 ^ 8 + longBit s + s.curOp)

/-- The stamp of M's word, and the tile it names, as far as the word itself gives them (R225). -/
def State.mWordStamp (s : State) : Nat := if s.curLong && (s.curOp == 1 || s.curOp == 2) then (s.core.wordAt (s.me.pc + 1)).toNat else 0
def State.mWordAcc (s : State) : Nat := if 3 ≤ s.curOp ∧ s.curOp ≤ 6 then fld s.curWord 13 3 else 0
/-- The staging slot and the park slot P's word names, as far as the word itself gives them (R252). -/
def State.pWordSlot (s : State) : Nat := if s.curOp = 1 ∨ s.curOp = 2 then fld s.curWord 0 3 else 0
def State.pWordPark (s : State) : Nat := if 7 ≤ s.curOp ∧ s.curOp ≤ 9 then fld s.curWord 0 8 else 0
/-- The status word of a fault found at decode, with its check code (R93). A word of A reports tag 0 and class 0 (log entry 105). -/
def decodeCheck (check : Nat) (s : State) : W64 :=
  match s.act with
  | .s => sStatus 0 0 0 s
  | .a => aStatus 0 0 0 0 0 0 0 s
  | .v => vStatus check 0 s
  | .m => mStatus s.mWordStamp 0 s.mWordAcc 0 check 0 s
  | .p => pStatus s.pWordSlot s.pWordPark check 0 s
def decodeStatus (s : State) : W64 := decodeCheck 0 s

/-! ### Words -/

/-- What the body of a word comes to. -/
inductive WordRes
  /-- Its effects are complete: the signal, then the next word (R19). -/
  | done (s : State)
  /-- The same, and the walk goes to a text index. -/
  | goto (s : State) (pc : Nat)
  /-- The engine waits at the word, and nothing else changes. -/
  | stall (r : Block)
  /-- Something changed and the engine waits at the word, with a reason. -/
  | block (s : State) (r : Block)
  /-- The engine halts at the word (R41). -/
  | fault (s : State) (cause : Cause) (istatus addr : W64) (pages : List PageMiss)

/-- The signal of a finished word, and the next word; a full token queue keeps the engine at the word (R19). -/
def finishWord (g : Tok) (pc len : Nat) (s : State) : State :=
  let e := s.act
  match g with
  | none => s.onCore (Core.moveOn e pc len)
  | some d =>
    if s.core.tokRoom e d then s.onCore fun c => (c.addTok e d (· + 1)).moveOn e pc len
    else if s.me.done then s.onEng e (Eng.wait .tokenFull)
    else s.onCore fun c => c.wake.stir.onEng e fun x => { x.wait .tokenFull with done := true }

/-- What a wait of S leaves: a token orders S's later accesses after it, so nothing read early serves them (R260, R261); a token from A
orders nothing before A has finished a wait on copy tags in this job (log entry 31). -/
def Core.acquired (e src : Engine) (c : Core) : Core :=
  if e = .s ∧ (src ≠ .a ∨ c.walk.tagSeen) then { c with port := { c.port with early := none } } else c

/-- The wait of a word: the token it takes, once, before anything else; none while the queue is empty (R19). -/
def State.takeWait (w : Tok) (s : State) : Option State :=
  let e := s.act
  match w with
  | none => some s
  | some src =>
    if s.me.popped then some s
    else if s.core.tok src e = 0 then none
    else some ((s.onCore fun c => ((c.addTok src e (· - 1)).wake.stir).acquired e src).onEng e fun x => { x with popped := true })

/-- A word of one engine: its wait, its body, its signal (R19). Words not allowed in the in-core handler, and words with a token
field there, raise ILLEGAL (R144). -/
def runWord (w g : Tok) (len : Nat) (inHandler : Bool) (body : State → WordRes) (s : State) : Out :=
  let e := s.act
  let x := s.me
  if s.core.regs.hmode && e == .s && (!inHandler || w != none || g != none) then .next (raiseFault .illegal (decodeStatus s) 0 [] s)
  else if x.done then .next (finishWord g (x.pc + len) len s)
  else if s.core.slips e len && !(s.core.regs.hmode && e == .s) then .next (s.onEng e (Eng.wait .slip))
  else
    match s.takeWait w with
    | none => .next (s.onEng e (Eng.wait .tokenWait))
    | some s =>
      match body s with
      | .done s => .next (finishWord g (x.pc + len) len s)
      | .goto s pc => .next (finishWord g pc len s)
      | .stall r => .next (s.onEng e (Eng.wait r))
      | .block s r => .next (s.onCore fun c => c.wake.onEng e (Eng.wait r))
      | .fault s cause ist addr pages => .next (raiseFault cause ist addr pages s)

/-- A short word and a long word that may not stand in the handler, and that may. -/
def runShort (w g : Tok) (body : State → WordRes) (s : State) : Out := runWord w g 1 false body s
def runLong (w g : Tok) (body : State → WordRes) (s : State) : Out := runWord w g 2 false body s
def runShortH (w g : Tok) (body : State → WordRes) (s : State) : Out := runWord w g 1 true body s
def runLongH (w g : Tok) (body : State → WordRes) (s : State) : Out := runWord w g 2 true body s

/-- A word whose body cannot fault or stall. -/
def simply (f : State → State) (s : State) : WordRes := .done (f s)

/-- ILLEGAL at a control word: raised in S, and every engine stops at it (R20, R93, R117). -/
def illegalControl (s : State) : State :=
  if s.act = .s then raiseFault .illegal (decodeStatus s) 0 [] s
  else s.onEng s.act fun x => { x.wait .faulted with popped := false, done := false }

/-! ### The in-core handler (R143, R144) -/

/-- Entering the handler: HINFO takes the code and the index after the TRAP, S's stream index moves past the TRAP and freezes; S
goes on at HVEC.ENTRY. No trap record is written. -/
def enterHandler (code : BitVec 8) (s : State) : State :=
  let ret := (s.eng .s).pc + 1
  (s.onEng .s fun x => { x with six := x.six + 1 }).onRegs fun r =>
    { r with hmode := true, hinfo := BitVec.ofNat 32 (code.toNat * 2 ^ 16 + ret % 2 ^ 14) }

/-- Leaving it: S continues at RETIX with its stream index unchanged. -/
def leaveHandler (s : State) : State :=
  let c := s.core.onEng .s fun x => { x with pc := fld s.core.regs.hinfo 0 14, blk := .running, popped := false, done := false, seen := false, look := false }
  { s with core := { (Core.wake c) with regs := { c.regs with hmode := false } } }

end Sys2Proof.Machine
end

