-- ==== Sys2Proof/Machine/Flags.lean ====
section
/-! DEFINITION. The flag and status registers: NFL, AMOST and CTAGS. -/

namespace Sys2Proof.Machine

/-- The numeric flags a word or the port sets (R88). -/
structure NumFlags where
  vinv : Bool
  vsat : Bool
  minv : Bool
  pinv : Bool
  psat : Bool
  qinv : Bool
deriving DecidableEq, Repr

def NumFlags.zero : NumFlags := ⟨false, false, false, false, false, false⟩
/-- The flags as NFL holds them. -/
def NumFlags.bits (f : NumFlags) : W32 :=
  BitVec.ofNat 32 ((if f.vinv then 1 else 0) + (if f.vsat then 2 else 0) + (if f.minv then 4 else 0) + (if f.pinv then 8 else 0)
    + (if f.psat then 16 else 0) + (if f.qinv then 32 else 0))

/-- Flags set, and sticky until software clears them (R88). -/
def Core.setFlags (f : NumFlags) (c : Core) : Core := { c with regs := { c.regs with nfl := c.regs.nfl ||| f.bits } }
/-- The flags of NFL that were set in a cycle already (R89). -/
def Core.flagsNow (gcc : W64) (c : Core) : W32 := if c.regs.nflNew.1 = gcc then c.regs.nflNew.2 else 0
/-- Flags set in a cycle: a write of NFL in the same cycle leaves them set (R89). -/
def Core.noteFlags (gcc : W64) (f : NumFlags) (c : Core) : Core :=
  { c with regs := { c.regs with nflNew := (gcc, c.flagsNow gcc ||| f.bits) } }
def State.setFlags (f : NumFlags) (s : State) : State := s.onCore fun c => (c.setFlags f).noteFlags s.gcc f
/-- V's flags of one word: invalid, saturated, invalid Q4X placement. -/
def State.setV (inv sat q : Bool) (s : State) : State :=
  s.setFlags { NumFlags.zero with vinv := inv, vsat := sat, qinv := q }
/-- The port's flags of a conversion to FX64 (R64). -/
def State.setPortFlags (inv sat : Bool) (s : State) : State := s.setFlags { NumFlags.zero with pinv := inv, psat := sat }

/-- A write of NFL: each 1 clears its flag (R89). -/
def rw1c (old w : W32) : W32 := old &&& ~~~(w &&& 0x3F)
/-- The write of NFL: a flag set in the same cycle stays set (R89). -/
def State.writeNfl (w : W32) (s : State) : State :=
  s.onRegs fun r => { r with nfl := rw1c r.nfl (w &&& ~~~(s.core.flagsNow s.gcc)) }

/-- AMOST after an atomic (R132). -/
def State.writeAmost (inv cmpf : Bool) (s : State) : State :=
  s.onRegs fun r => { r with amost := BitVec.ofNat 32 ((if inv then 1 else 0) + (if cmpf then 2 else 0)) }

/-- A command with a tag is issued: its CTAGS bit clears and its count rises (R148). -/
def Core.issueTag (t : Ctag) (c : Core) : Core :=
  { c with regs := { c.regs with ctags := c.regs.ctags &&& ~~~((1 : W64) <<< t.val), counts := c.regs.counts.set t (c.regs.counts[t] + 1) } }
/-- A command completes: the count falls, and the bit is set when it reaches zero (R148). -/
def Core.completeTag (t : Ctag) (c : Core) : Core :=
  let n := c.regs.counts[t] - 1
  { c with regs := { c.regs with counts := c.regs.counts.set t n,
                                 ctags := if n = 0 then c.regs.ctags ||| ((1 : W64) <<< t.val) else c.regs.ctags } }

end Sys2Proof.Machine
end

