-- ==== Sys2Proof/Machine/Mem.lean ====
section
/-! DEFINITION. Memory at its homes: bytes, generations, earmarks, Granary residency, monitors and barrier waiters; scratchpad rows. -/

namespace Sys2Proof.Machine

/-! ### Placement (R388, R389) -/

def lineOf (hpa : Nat) : Nat := hpa / 128
def frameOf (hpa : Nat) : Nat := hpa / 65536
/-- The slice of an address: HPA[27:20] XOR HPA[35:28]. -/
def sliceOf (hpa : Nat) : Nat := Nat.xor (hpa / 2 ^ 20 % 256) (hpa / 2 ^ 28 % 256)
/-- The HBM4E stack behind a slice, and the HBM channel of an address within it (R388). -/
def stackOf (slice : Nat) : Nat := slice / 16
def channelOf (hpa : Nat) : Nat := sliceOf hpa % 16 * 2 + hpa / 2 ^ 16 % 2
def colourOf (hpa : Nat) : Nat := hpa / 2 ^ 16 % 16
def setOf (hpa : Nat) : Nat := hpa / 2 ^ 7 % 8192
/-- Whether an address lies in the store aperture (R393). -/
def inAperture (hpa : Nat) : Bool := hpa / 2 ^ 40 == 1

/-- Where a grant entry stands in the grant tables: slice, row, entry (R390, R422). -/
def grantIx (slice row entry : Nat) : Nat := slice * 64 + row * 4 + entry
/-- A partition's grant in a colour; one that waits for the scrub grants nothing (R356). -/
def State.grantFor (s : State) (slice colour part : Nat) : Option Grant :=
  ((List.range 4).filterMap fun e =>
    if (s.partAt part).leaving.contains (grantIx slice colour e) then none
    else Sparse.get none s.gran.grants (grantIx slice colour e)).find? fun g => g.part == part

/-- The ways of a mask, lowest first; its store ways are the STW highest ones (R390). -/
def waysOf (m : W16) : List Nat := (List.range 16).filter fun w => m.toNat / 2 ^ w % 2 == 1
def Grant.cacheWays (g : Grant) : List Nat := (waysOf g.mask).take ((waysOf g.mask).length - g.stw)
def Grant.storeWays (g : Grant) : List Nat := (waysOf g.mask).drop ((waysOf g.mask).length - g.stw)

/-! ### Lines -/

def Memory.line (m : Memory) (l : Nat) : LineMeta := Sparse.get LineMeta.init m.lines l
def Memory.setLine (l : Nat) (x : LineMeta) (m : Memory) : Memory := { m with lines := Sparse.set LineMeta.init m.lines l x }
def Memory.byte (m : Memory) (a : Nat) : Byte := Sparse.get 0 m.bytes a
def Memory.setBytes (a : Nat) (bs : List Byte) (m : Memory) : Memory := { m with bytes := Sparse.setMany 0 m.bytes a bs }

/-- Whether a line's generation is the current one of the partition that wrote it (R9, R267). -/
def State.lineLive (s : State) (l : Nat) : Bool :=
  match (s.mem.line l).part with
  | none => true
  | some p => (s.mem.line l).gen == (s.partAt p).gen

/-- One byte as a reader sees it: zero on a line of stale generation (R129, R149). -/
def State.readByte (s : State) (a : Nat) : Byte := if s.lineLive (lineOf a) then s.mem.byte a else 0
/-- n bytes from an address. -/
def State.readBytes (s : State) (a n : Nat) : List Byte := (List.range n).map fun i => s.readByte (a + i)
def State.read64 (s : State) (a : Nat) : W64 := BitVec.ofNat 64 (leNat (s.readBytes a 8))
def State.readRow (s : State) (a : Nat) : Row := BitVec.ofNat 2048 (leNat (s.readBytes a 256))

/-- The lines that n bytes from an address touch. -/
def linesOf (a n : Nat) : List Nat := (List.range ((a % 128 + n + 127) / 128)).map (· + lineOf a)

/-- Whether any of the bytes is poisoned (R414). -/
def State.poisoned (s : State) (a n : Nat) : Bool := (linesOf a n).any fun l => s.mem.poison.contains l
/-- Whether the cipher of a byte that somebody has written is another than a partition's (R370). -/
def State.foreign (s : State) (part a : Nat) : Bool :=
  (s.mem.line (lineOf a)).part.isSome && s.lineLive (lineOf a) && Sparse.get 0 s.mem.worlds a != (s.partAt part).world
/-- Whether a 256-byte block the bytes lie in fails its integrity tag, for a sealed partition: its bytes are not those that were tagged, or
another cipher has written in it (R154, R370; log entry 85). -/
def State.badBlock (s : State) (part a n : Nat) : Bool :=
  (s.partAt part).isSealed && (List.range ((a % 256 + n + 255) / 256)).any fun i =>
    s.mem.badBlocks.contains (a / 256 + i) || (List.range 256).any fun j => s.foreign part ((a / 256 + i) * 256 + j)
/-- The keys of a cipher, and what HBM and the Granary hold of a 256-byte block written under it: the ciphertext, and its tag of 64 bits
(R154). -/
def newKeys (n : Nat) : WorldKeys := ⟨Config.worldKey n 0, Config.worldKey n 1, Config.worldKey n 2⟩
def State.cipherBlock (s : State) (world block : Nat) : List Byte × BitVec 64 :=
  let k := newKeys (2 * world)
  let c := Config.cipher k.aes1 k.aes2 (block * 256) (s.readBytes (block * 256) 256)
  (c, Config.tag k.mac (block * 256) c)
/-- A byte as a reader of a partition gets it: what a cipher that is not its own has written comes as ciphertext (R370). -/
def State.seenByte (part : Nat) (s : State) (a : Nat) : Byte :=
  let w := Sparse.get 0 s.mem.worlds a
  if w = 0 ∨ w = (s.partAt part).world ∨ s.lineLive (lineOf a) = false then s.readByte a else ((s.cipherBlock w (a / 256)).1).getD (a % 256) 0
/-- n bytes from an address as a reader of a partition gets them. -/
def State.seen (part : Nat) (s : State) (a n : Nat) : List Byte := (List.range n).map fun i => s.seenByte part (a + i)
def State.seenRow (part : Nat) (s : State) (a : Nat) : Row := BitVec.ofNat 2048 (leNat (s.seen part a 256))

/-! ### Residency (R391, R393) -/

/-- A line leaves its way: dirty data is in memory already, so only what stood beside it is lost (R287, R391). -/
def LineMeta.evict (x : LineMeta) : LineMeta := { x with way := none, dirty := false, sat := false, below := none }

/-- The resident line of a way of a set. -/
def Memory.occupant (m : Memory) (slice set way : Nat) : Option Nat :=
  (m.lines.find? fun kv => kv.2.way == some way && sliceOf (kv.1 * 128) == slice && setOf (kv.1 * 128) == set
    && !inAperture (kv.1 * 128)).map Prod.fst

/-- A partition's access to a line: a hit changes nothing; a miss allocates in a cache way of the partition's grant, or counts a
bypass (R391). -/
def State.touch (part l : Nat) (s : State) : State :=
  let a := l * 128
  if inAperture a || (s.mem.line l).way.isSome then s
  else
    match ((s.grantFor (sliceOf a) (colourOf a) part).map Grant.cacheWays).getD [] with
    | [] => s.setPart part fun p => { p with cnt := { p.cnt with bypasses := p.cnt.bypasses + 1 } }
    | w :: ws =>
      let way := (w :: ws).getD (s.pick (l + 16) (ws.length + 1)) w
      s.onMem fun m =>
        let m := match m.occupant (sliceOf a) (setOf a) way with
          | some o => m.setLine o (m.line o).evict
          | none => m
        m.setLine l { m.line l with way := some way }

/-! ### Earmarks of stage-2 pages (R336) -/

/-- The earmark kept at a frame. -/
def State.pageMark (s : State) (frame : Nat) : Mark := Sparse.get Mark.empty s.mem.marks frame
def State.setPageMark (frame : Nat) (m : Mark) (s : State) : State :=
  s.onMem fun x => { x with marks := Sparse.set Mark.empty x.marks frame m }
def State.unionPageMark (frame : Nat) (m : Mark) (s : State) : State := s.setPageMark frame ((s.pageMark frame).union m)

/-! ### Waiters at a home (R134, R135) -/

/-- A write reaches a line: monitors on it have their event. -/
def State.hitMonitors (l : Nat) (s : State) : State :=
  s.onGran fun g => { g with monitors := g.monitors.map fun m => if m.line = l ∧ m.why = none then { m with why := some .write } else m }

/-- An interrupt or a stop that is asked for ends the wait of a core's monitor, unless an event has ended it before (R134). -/
def State.endMonitor (c : CoreId) (s : State) : State :=
  s.onGran fun g => { g with monitors := g.monitors.map fun m => if m.core = c ∧ m.why = none then { m with why := some .wake } else m }

/-- Whether a BAR stands among the waiters of its object: one that a stop found waiting does so again once it has read the object (R138). -/
def BarState.waits (b : BarState) : Bool := b.status.isNone && !b.again
/-- The BAR waiters that some predicate on the object's address names are released with a status; GEN is read at the release, with the earmark
of its page (R126, R136). -/
def State.releaseBar (p : Nat → Bool) (status : Nat) (s : State) : State :=
  let f (c : Core) : Core := match c.waits.bar with
    | some b =>
      if b.waits && p b.hpa then
        let g : W32 := BitVec.ofNat 32 (leNat (s.seen c.place.part (b.hpa + 4) 4))
        { c.wake with waits := { c.waits with bar := some { b with mark := b.mark.union (s.pageMark b.frame), status := some (status, g) } } }
      else c
    | none => c
  { s with core := f s.core, others := s.others.map f }

/-- How many BAR waiters an object has. -/
def State.barWaiters (s : State) (hpa : Nat) : Nat :=
  (s.cores.filter fun c => match c.waits.bar with
    | some b => b.waits && b.hpa == hpa
    | none => false).length

/-! ### Writes -/

/-- How a write leaves what stands beside the line: a plain write, an accumulate, a barrier word (R135, R177). -/
inductive WriteKind | plain | accum | barrier
deriving DecidableEq, Repr

/-- Bytes written under a cipher, or under none. -/
def Memory.setWorld (w a n : Nat) (m : Memory) : Memory :=
  if w = 0 && m.worlds.isEmpty then m else { m with worlds := Sparse.setMany 0 m.worlds a (List.replicate n w) }
/-- One line of a write: a stale line reads as zero first, the line takes the writer's partition, generation and cipher, a plain write clears
its saturation flag, a write of the whole line clears poison (R149, R154, R177, R287, R414). -/
def State.writeLine (part : Nat) (gen : Gen) (k : WriteKind) (a : Nat) (bs : List Byte) (s : State) : State :=
  let l := lineOf a
  let s := s.touch part l
  let live := s.lineLive l
  let s := s.onMem fun m =>
    let x := m.line l
    let old := (List.range 128).map fun i => m.byte (l * 128 + i)
    let m := if live then m else (m.setBytes (l * 128) (List.replicate 128 0)).setWorld (s.partAt part).world (l * 128) 128
    let m := (m.setBytes a bs).setWorld (s.partAt part).world a bs.length
    let res := x.way.isSome
    let m := m.setLine l { x with part := some part, gen := gen, dirty := res,
                                  sat := if k = .accum then x.sat && live else false,
                                  below := if res then (if x.below.isSome then x.below else some old) else none }
    { m with poison := if bs.length = 128 then m.poison.filter (· != l) else m.poison }
  let s := s.hitMonitors l
  if k = .barrier then s else s.releaseBar (fun h => lineOf h == l) 3

/-- The lines of a write, in rising order: n lines at most. -/
def State.writeLines (part : Nat) (gen : Gen) (k : WriteKind) : Nat → Nat → List Byte → State → State
  | 0, _, _, s => s
  | n + 1, a, bs, s =>
    if bs = [] then s
    else
      let room := 128 - a % 128
      State.writeLines part gen k n (a + room) (bs.drop room) (s.writeLine part gen k a (bs.take room))

/-- A 256-byte block written whole has a tag of its own again (R154). -/
def State.healBlocks (a n : Nat) (s : State) : State :=
  s.onMem fun m => { m with badBlocks := m.badBlocks.filter fun b => !decide (a ≤ 256 * b ∧ 256 * b + 256 ≤ a + n) }

/-- A write applied at its home; a write whose generation is no longer the partition's current one is discarded (R267). -/
def State.writeMem (part : Nat) (gen : Gen) (k : WriteKind) (a : Nat) (bs : List Byte) (s : State) : State :=
  if gen = (s.partAt part).gen then (s.writeLines part gen k (bs.length / 128 + 2) a bs).healBlocks a bs.length else s

/-- A write the device makes for itself: bytes alone. -/
def State.poke (a : Nat) (bs : List Byte) (s : State) : State := s.onMem (Memory.setBytes a bs)

/-- A read applied at its home: what it leaves beside the line (R391). -/
def State.touchLines (part : Nat) (ls : List Nat) (s : State) : State := ls.foldl (fun s l => s.touch part l) s
def State.afterRead (part a n : Nat) (s : State) : State := s.touchLines part (linesOf a n)
/-- A resident line becomes dirty: the HBM below keeps what it held. -/
def State.dirtyLine (l : Nat) (s : State) : State :=
  s.onMem fun m =>
    let x := m.line l
    let old := (List.range 128).map fun i => m.byte (l * 128 + i)
    if x.way.isSome then m.setLine l { x with dirty := true, below := if x.below.isSome then x.below else some old } else m
/-- An action of a port at a home, for a function of a partition: its lines are looked up as a write's are (R341, R343, R391). -/
def State.actAt (part a : Nat) (bs : List Byte) (s : State) : State :=
  ((linesOf a bs.length).foldl (fun s l => s.dirtyLine l) (s.afterRead part a bs.length)).poke a bs

/-! ### Scratchpad rows (R149, R153) -/

/-- A row as a reader of this context sees it. -/
def Core.row (c : Core) (r : Nat) : QEntry := (Sparse.get zeroRow c.port.spad r).live 0 c.place.gen
/-- A whole row written: it takes the context's generation. -/
def Core.setRow (r : Nat) (d : Row) (m : Mark) (c : Core) : Core :=
  { c with port := { c.port with spad := Sparse.set zeroRow c.port.spad r ⟨d, c.place.gen, m⟩ } }

/-- Bytes i to i + n - 1 of a row, and a row with bytes replaced from i on. -/
def rowBytes (d : Row) (i n : Nat) : List Byte := (List.range n).map fun j => Row.byte d (i + j)
def rowPut (d : Row) (i : Nat) (bs : List Byte) : Row :=
  BitVec.ofNat 2048 (d.toNat % 2 ^ (8 * i) + leNat bs * 2 ^ (8 * i) + d.toNat / 2 ^ (8 * (i + bs.length)) * 2 ^ (8 * (i + bs.length)))
def rowList (d : Row) : List Byte := rowBytes d 0 256

/-- The group of a row (00, Anatomy; R108). -/
def groupOf (r : Nat) : Nat := r / 2048 % 4

end Sys2Proof.Machine
end

