-- ==== Sys2Proof/Machine/Traffic.lean ====
section
/-! DEFINITION. What the accesses, entries, rows, packets and notices of a core put on the ring and the mesh, and how messages and flits travel
there (R388, R396, R397, R401, R402, R404). None of it changes a result: an access performs at its own event (log entry 84). -/

namespace Sys2Proof.Machine

/-! ### Sites and stations (R359, R396) -/

/-- The class of a site: 0 enabled, 1 spare, 2 fused off, 3 retired (R1, R411). -/
def State.siteClassAt (s : State) (n : Nat) : Nat := match Sparse.get 0 s.mgmt.siteClass n with
  | 0 => Config.madeClass n
  | k + 1 => k
/-- The station of a site within its stop: its position among the sites the stop was made with, a spare standing for the site it
replaced (R396). -/
def State.stationIn (s : State) (site : Nat) : Nat :=
  let swaps := s.mgmt.spares.filter fun x => x.kind == 1
  let n := ((swaps.find? fun x => x.spare == site).map (·.retire)).getD site
  let made := (List.range 7).filter fun k =>
    let m := site / 8 * 8 + k
    (s.siteClassAt m == 0 || s.siteClassAt m == 3) && !swaps.any fun x => x.spare == m
  (lowest (· == n % 8) made).getD 0
/-- The position of a station, and the slot that passes a position in a cycle. -/
def stationPos (k : Nat) : Nat := k * 256 / 103
def slotAt (pos : Nat) (gcc : W64) : Nat := (pos + 256 - gcc.toNat % 256) % 256
def ringRowKey (die slot : Nat) : Nat := die * 256 + slot
def ringLaneKey (die slot lane : Nat) : Nat := (die * 256 + slot) * 4 + lane
/-- The owner of a lane of a slot; every lane is free at reset. -/
def State.ringOwner (s : State) (die slot lane : Nat) : Nat := fld (Sparse.get 0xFFFFFFFF s.fab.ring (ringRowKey die slot)) (8 * lane) 8

/-- The ring station of a core station's owner code, of a Granary port, and of the bridge to the die k after (R396). -/
def coreStation (code : Nat) : Nat := if code < 24 then code + 1 else if code < 48 then code + 2 else if code < 72 then code + 3 else code + 5
def portStation (p : Nat) : Nat := [25, 50, 75, 101].getD p 25
def bridgeStation (k : Nat) : Nat := [0, 0, 76, 102].getD k 0
/-- The physical site of a logical core, its die and its stop. -/
def State.siteOf (s : State) (c : CoreId) : Nat := (s.partAt c.part).sites.getD c.num 0
def siteDie (n : Nat) : Nat := n / 128
def siteStop (n : Nat) : Nat := n / 8 % 16
/-- A core's station: die × 128 + station. -/
def State.stationOf (s : State) (c : CoreId) : Nat :=
  siteDie (s.siteOf c) * 128 + coreStation (6 * siteStop (s.siteOf c) + s.stationIn (s.siteOf c))

/-! ### The ring (R397) -/

/-- A message for a station of a die, from a station of another or the same: it goes to the station, or to the bridge. -/
def ringHop (die src toDie dst : Nat) (r : SliceReq) (back : Bool) : Nat × RingMsg :=
  (die, ⟨src, if die = toDie then dst else bridgeStation ((toDie + 4 - die) % 4), r, back⟩)
/-- A message waits at its station. -/
def State.ringPut (m : Nat × RingMsg) (s : State) : State := s.onFab fun f => { f with waiting := f.waiting ++ [m] }
/-- The die and the station of the port of a slice (R388). -/
def slicePort (slice : Nat) : Nat × Nat := (slice / 64, portStation (slice / 16 % 4))
/-- The parts of an access that lie in one aligned block of 512 bytes each, which one message can carry: the address of a part's first line, and
its lines. -/
def ringPieces (hpa n : Nat) : List (Nat × Nat) :=
  let lines := linesOf hpa n
  (lines.map (· / 4)).dedup.map fun b => let l := lines.filter fun l => l / 4 == b; (l.headD 0 * 128, l.length)
/-- Of bytes that begin at an address those that lie in n lines from another on. -/
def pieceBytes (hpa : Nat) (bs : List Byte) (addr n : Nat) : List Byte :=
  (bs.drop (addr - hpa)).take (addr + 128 * n - max addr hpa)
/-- The requests of an access of n bytes, one for each message of at most 512 bytes that its data takes, with the bytes that a write or an
accumulate brings (R397). -/
def State.ringAsk (c : CoreId) (hpa n : Nat) (s : State) (bs : List Byte := []) (accum : Bool := false) (reads : Bool := bs.isEmpty) :
    State :=
  let at_ := s.stationOf c
  let vf := ((s.coreAt c).map fun k => k.place.vf).getD 0
  (ringPieces hpa n).foldl (fun s p =>
    let r : SliceReq := ⟨sliceOf p.1, c.part, p.2, at_, p.1, pieceBytes hpa bs p.1 p.2, c.num, vf, reads, accum⟩
    s.ringPut (ringHop (at_ / 128) (at_ % 128) (slicePort r.slice).1 (slicePort r.slice).2 r false)) s
/-- The response of a slice to a request it has served: to a read, with the lines as they stand. -/
def State.ringAnswer (r : SliceReq) (s : State) : State :=
  let (die, st) := slicePort r.slice
  let x := { r with data := if r.reads then s.seen r.part r.addr (128 * r.lines) else [] }
  s.ringPut (ringHop die st (r.owner / 128) (r.owner % 128) x true)
/-- What becomes of a message that its station has removed: a request enters its slice's port, or goes on over a bridge; an accumulate packet
enters the queue of R288 beside (R395). -/
def State.ringOut (die : Nat) (m : RingMsg) (s : State) : State :=
  let (home, port) := slicePort m.req.slice
  let (goal, st) := if m.back then (m.req.owner / 128, m.req.owner % 128) else (home, port)
  if goal = die then (if m.back || m.req.accum then s else s.onGran fun g => { g with reqs := g.reqs ++ [m.req] })
  else s.ringPut (ringHop goal (bridgeStation ((die + 4 - goal) % 4)) goal st m.req m.back)
/-- Messages that stand at their destination's station are removed, which empties their lane. -/
def Fabric.removedAt (gcc : W64) (f : Fabric) : List (Nat × RingMsg) :=
  f.slots.filterMap fun kv => match kv.2 with
    | some m => if kv.1 / 4 % 256 = slotAt (stationPos m.dst) gcc then some (kv.1 / 1024, m) else none
    | none => none
def Fabric.removeAt (gcc : W64) (f : Fabric) : Fabric :=
  { f with slots := f.slots.filter (fun kv => match kv.2 with
             | some m => kv.1 / 4 % 256 != slotAt (stationPos m.dst) gcc
             | none => true),
           removed := (f.removed.filter fun x => x.1 != gcc) ++ (f.removedAt gcc).map fun m => (gcc + 2, m) }
/-- The rings in a new cycle: messages are removed, and those removed two cycles ago have made their transfer, which takes two cycles beside
the way (R397). -/
def State.ringTurn (s : State) : State :=
  (s.fab.removed.filter fun x => x.1 == s.gcc).foldl (fun s m => s.ringOut m.2.1 m.2.2) (s.onFab (Fabric.removeAt s.gcc))
/-- What may be inserted in a cycle: each lane of the slot that passes a station at which a message waits (R399). -/
def State.ringDue (s : State) : List Agent :=
  ((s.fab.waiting.map fun w => (w.1, w.2.src)).dedup).flatMap fun x => (List.range 4).map fun lane => Agent.ring x.1 x.2 lane

/-! ### The mesh (R401, R402, R404) -/

def meshKey (die stop port : Nat) : Nat := (die * 16 + stop) * 6 + port
/-- The output of a stop toward a place stop × 8 + port: X first, then Y, then the port named. -/
def routeTo (stop target : Nat) : Nat :=
  let x := stop % 4
  let y := stop / 4
  let tx := target / 8 % 4
  let ty := target / 32
  if x < tx then 0 else if tx < x then 1 else if y < ty then 2 else if ty < y then 3 else target % 8
/-- The stop an output leads to, and the input port there. -/
def stopBeyond (stop port : Nat) : Nat := match port with
  | 0 => stop + 1
  | 1 => stop - 1
  | 2 => stop + 4
  | _ => stop - 4
def inputBeyond (port : Nat) : Nat := if port % 2 = 0 then port + 1 else port - 1

def State.meshIn (s : State) (die stop : Nat) : List Flit := Sparse.get [] s.fab.inputs (die * 16 + stop)
def State.setMeshIn (die stop : Nat) (l : List Flit) (s : State) : State :=
  s.onFab fun f => { f with inputs := Sparse.set [] f.inputs (die * 16 + stop) l }
def takenKey (die stop port vc : Nat) : Nat := ((die * 16 + stop) * 8 + port) * 4 + vc
/-- The flits that take places of an input's channel: waiting there, and those that have left it in this cycle. -/
def State.meshHeld (s : State) (die stop port vc : Nat) : Nat :=
  ((s.meshIn die stop).filter fun f => f.port == port && f.vc == vc).length + s.fab.taken.count (takenKey die stop port vc)
/-- Whether an output holds a downstream credit for a channel: one of the 8 places of the next input, flits on the link counted. -/
def State.meshCredit (s : State) (die stop port vc : Nat) : Bool :=
  if 3 < port then true
  else
    let n := stopBeyond stop port
    let q := inputBeyond port
    decide (s.meshHeld die n q vc + (s.fab.air.filter fun a => a.die == die && a.stop == n && a.flit.port == q && a.flit.vc == vc).length < 8)
/-- The first flit of each input channel. -/
def firstPer : List Flit → List (Nat × Nat) → List Flit
  | [], _ => []
  | f :: l, seen => if seen.contains (f.port, f.vc) then firstPer l seen else f :: firstPer l ((f.port, f.vc) :: seen)
/-- Whether a flit may leave on its channel of an output: no other packet is under way there (R404). -/
def MeshOut.lets (m : MeshOut) (f : Flit) : Bool := m.under.all fun x => x.1 != f.vc || x.2 == f.pkt
/-- The candidates of an output: the first waiting flits of the input channels that route to it and hold a credit; a channel that a flit
has left in this cycle has none. A candidate that a packet under way keeps off its channel ages, and is not sent. -/
def State.meshCands (s : State) (die stop port : Nat) : List Flit :=
  (firstPer (s.meshIn die stop) []).filter fun f =>
    f.dsts.any (fun d => routeTo stop d == port) && !s.fab.taken.contains (takenKey die stop f.port f.vc) && s.meshCredit die stop port f.vc
/-- A list with the first of its entries equal to one replaced. -/
def putFirst (f g : Flit) : List Flit → List Flit
  | [] => []
  | h :: l => if h = f then g :: l else h :: putFirst f g l
/-- A flit chosen at an output leaves: it stands at the neighbour two cycles on, or reaches its core or the Commons die one cycle on. Of a
multicast flit the other branches stay. -/
def State.meshSend (die stop port : Nat) (f : Flit) (s : State) : State :=
  let stay := f.dsts.filter fun d => routeTo stop d != port
  let g := { f with dsts := f.dsts.filter fun d => routeTo stop d == port }
  let l := s.meshIn die stop
  let s := if stay.isEmpty then (s.setMeshIn die stop (l.erase f)).onFab fun x => { x with taken := takenKey die stop f.port f.vc :: x.taken }
    else s.setMeshIn die stop (putFirst f { f with dsts := stay } l)
  if port ≤ 3 then
    s.onFab fun x => { x with air := x.air ++ [⟨s.gcc + 2, die, stopBeyond stop port, { g with port := inputBeyond port }⟩] }
  else s.onFab fun x => { x with ejected := x.ejected ++ [⟨s.gcc + 1, die, stop, g⟩] }
/-- A flit enters its input once its cycle has come and, at a local or edge input, one of the 8 places is free. -/
def State.meshEnter (l : List MeshAir) (s : State) : State :=
  l.foldl (fun s a =>
    if a.due.toNat ≤ s.gcc.toNat && (decide (a.flit.port < 4) || decide (s.meshHeld a.die a.stop a.flit.port a.flit.vc < 8)) then
      s.setMeshIn a.die a.stop (s.meshIn a.die a.stop ++ [a.flit])
    else s.onFab fun f => { f with air := f.air ++ [a] }) (s.onFab fun f => { f with air := [] })
/-- What follows when a flit has reached its core or the Commons die: a request for a window's row is served 4 cycles on and its response stands
at the local input of the stop; a packet for another die enters that die at the edge. -/
def State.meshArrived (a : MeshAir) (s : State) : State :=
  match a.flit.reply, a.flit.beyond with
  | some r, _ =>
    s.onFab fun f => { f with air := f.air ++ [⟨s.gcc + 4, a.die, a.stop, ⟨4, 1, f.pkts, a.flit.part, false, true, [r], none, none⟩⟩], pkts := f.pkts + 1 }
  | none, some (die, l) =>
    s.onFab fun f => { f with air := f.air ++ [⟨s.gcc + 2, die, (l.headD 0) / 8 % 4, { a.flit with port := 5, dsts := l, beyond := none }⟩] }
  | none, none => s
/-- In a new cycle the packets whose age has reached the threshold are promoted, candidates or not (R404). -/
def MeshOut.promote (mage : Nat) (m : MeshOut) : MeshOut :=
  { m with promoted := m.promoted ++ ((m.ages.filter fun a => decide (mage ≤ a.2) && !m.promoted.contains a.1).map Prod.fst) }
/-- The threshold of a die's mesh (R403). -/
def State.mage (s : State) (die : Nat) : Nat := fld ((s.fab.mctl[die]?).getD 64) 0 10
/-- The meshes in a new cycle. -/
def State.meshTurn (s : State) : State :=
  let s := s.onFab fun f => { f with taken := [], mesh := f.mesh.map fun kv => (kv.1, kv.2.promote (s.mage (kv.1 / 96))) }
  let here := s.fab.ejected.filter fun a => a.due == s.gcc
  here.foldl (fun s a => s.meshArrived a) (State.meshEnter s.fab.air s)

/-! ### What travels on which channel (R402) -/

/-- The kinds of traffic on a mesh. -/
inductive MeshKind | request | response | entry | rows | packet (beats : Nat) | urgent
deriving DecidableEq, Repr
/-- The channel of a kind, its flits per packet, and whether it is a multicast. -/
def MeshKind.vc : MeshKind → Nat
  | .request => 0
  | .response => 1
  | .entry | .rows | .packet _ => 2
  | .urgent => 3
def MeshKind.flits : MeshKind → Nat
  | .entry | .rows => 4
  | .packet n => 1 + n
  | _ => 1
/-- A packet enters a mesh at an input port of a stop. -/
def State.meshPut (die stop port : Nat) (k : MeshKind) (part : Nat) (dsts : List Nat) (beyond : Option (Nat × List Nat)) (reply : Option Nat) (s : State) : State :=
  let n := k.flits
  s.onFab fun f => { f with pkts := f.pkts + 1, air := f.air ++ (List.range n).map fun i =>
    ⟨s.gcc, die, stop, ⟨port, k.vc, f.pkts, part, k == .rows, i + 1 == n, dsts, beyond, reply⟩⟩ }
/-- From a core to cores of a die: on its own mesh, or over the edge below its stop to the other. -/
def State.meshTo (c : CoreId) (die : Nat) (stops : List Nat) (k : MeshKind) (reply : Bool) (s : State) : State :=
  let site := s.siteOf c
  let l := stops.dedup.map fun n => n * 8 + 4
  if siteDie site = die then
    s.meshPut die (siteStop site) 4 k c.part l none (if reply then some (siteStop site * 8 + 4) else none)
  else s.meshPut (siteDie site) (siteStop site) 4 k c.part [siteStop site % 4 * 8 + 5] (some (die, l)) none
def State.meshToCore (c d : CoreId) (k : MeshKind) (reply : Bool) (s : State) : State :=
  s.meshTo c (siteDie (s.siteOf d)) [siteStop (s.siteOf d)] k reply
/-- From a core to the Commons die, and from there to a core (R228, R238). -/
def State.meshOut (c : CoreId) (k : MeshKind) (s : State) : State :=
  let site := s.siteOf c
  s.meshPut (siteDie site) (siteStop site) 4 k c.part [siteStop site % 4 * 8 + 5] none none
def State.meshDown (c : CoreId) (k : MeshKind) (s : State) : State :=
  let site := s.siteOf c
  s.meshPut (siteDie site) (siteStop site % 4) 5 k c.part [siteStop site * 8 + 4] none none
/-- The stops of an MCAST's members on a die of this module. -/
def State.castStops (m : McastPkt) (die : Nat) (s : State) : List Nat :=
  ((m.members.map fun n => s.siteOf ⟨m.src.part, n⟩).filter fun x => siteDie x == die).map siteStop
/-- The rows of an MCAST of this module go to the members of their die, or to the Commons die for another module (R178). -/
def State.meshRows (m : McastPkt) (s : State) : State :=
  if m.node = s.mgmt.node then s.meshTo m.src m.die (s.castStops m m.die) .rows false else s.meshOut m.src .rows
/-- The rows of an MCAST of another module enter each die that holds members, at the edge above the first of them. -/
def State.meshRowsIn (m : McastPkt) (s : State) : State :=
  (List.range 4).foldl (fun t die => match s.castStops m die with
    | [] => t
    | stop :: l => t.meshPut die (stop % 4) 5 .rows m.src.part ((stop :: l).dedup.map fun n => n * 8 + 4) none none) s
/-- What an access at a place puts on its way: a request on the ring, with the bytes it brings, or on the mesh toward the window's core. -/
def State.accessOut (c : CoreId) (l : Loc) (n : Nat) (s : State) (bs : List Byte := []) (accum : Bool := false) (reads : Bool := bs.isEmpty) : State :=
  match l with
  | .mem hpa _ => s.ringAsk c hpa n bs accum reads
  | .win d _ _ => s.meshToCore c ⟨c.part, d⟩ .request true

end Sys2Proof.Machine
end

