-- ==== Sys2Proof/Machine/Translate.lean ====
section
/-! DEFINITION. Address translation: stage 1, stage 2, window leaves, the port's caches, permission, dirty bits (R326 to R343). -/

namespace Sys2Proof.Machine

/-- Why a translation fails: the cause, where it was met (1 stage 1, its write bit too; 2 stage 2; 7 window; 8 an integrity tag), the level of the entry, the
guest-physical address concerned, and whether it was a stage-1 table page (R337, R344). -/
structure TrErr where
  cause : Cause
  stage : Nat
  level : Nat
  gpa : Nat
  table : Bool
deriving DecidableEq, Repr

/-- What kind of access asks (R333). -/
inductive AClass | ls | home | elem | aacc | mcast | pref | deliver | group | named | coll
deriving DecidableEq, Repr

/-- In whose context: the function, its S1TB, its partition, the core that asks if one does, whether the port's caches serve, and
whether a translation found by a walk is kept in them. -/
structure Who where
  vf : Nat
  s1tb : W64
  part : Nat
  die : Option Nat
  cached : Bool
  fill : Bool
deriving DecidableEq, Repr

/-- The context of the core that moves. -/
def State.who (s : State) : Who :=
  ⟨s.core.place.vf, s.core.regs.s1tb, s.core.place.part, some (s.core.place.site / 128), true, true⟩
/-- A virtual function's context, as the dispatcher, the Crossroads and the collective engine use it. -/
def State.whoVf (s : State) (vf : Nat) : Who := ⟨vf, (s.vfAt vf).s1tb, (s.vfAt vf).part.getD 0, none, false, false⟩

/-- A stage-2 translation: the leaf's base and size, where it leads, its attributes and where the leaf stands. -/
structure S2 where
  base : Nat
  size : Nat
  hpa : Nat
  w : Bool
  dirty : Bool
  sum : Bool
  scale : Int
  leafAt : Nat
deriving DecidableEq, Repr

/-- The one address of a byte of the store aperture: of all that name a way of a colour, that with HPA[35:28] zero (R388, R393). -/
def apertureAddr (a : Nat) : Nat :=
  if inAperture a then a / 2 ^ 36 * 2 ^ 36 + sliceOf a * 2 ^ 20 + a % 2 ^ 20 else a
/-- Where a guest-physical address lands. -/
def S2.at (t : S2) (gpa : Nat) : Nat := apertureAddr (t.hpa + (gpa - t.base))
/-- The frame whose entry keeps the page's earmark: its own, or the first of a 512 MiB leaf (R336). -/
def S2.frame (t : S2) (gpa : Nat) : Nat := if t.size = 65536 then frameOf (t.at gpa) else frameOf t.hpa

/-! ### Stage 2 (R334, R335) -/

def s2Err (cause : Cause) (level gpa : Nat) : TrErr := ⟨cause, 2, level, gpa, false⟩

/-- Whether a valid stage-2 entry of a level breaks its layout (R335, R393). -/
def s2Bad (level : Nat) (e : W64) : Bool :=
  let leaf := fld e 1 1 == 1
  fld e 44 20 != 0 || fld e 13 3 != 0 || (leaf && level == 3) || (!leaf && level == 1)
    || (!leaf && (fld e 4 1 != 0 || fld e 5 8 != 0 || fld e 3 1 != 0 || fld e 2 1 != 0))
    || (fld e 4 1 == 0 && fld e 5 8 != 0) || (leaf && level == 2 && fld e 16 13 != 0)
    || fld e 40 4 ≥ 2 || (leaf && level == 2 && fld e 40 4 == 1)

/-- What a walk has met: the table entries it can keep, and where it has read (R337, R338). -/
structure Met where
  entries : List WalkEntry
  reads : List Nat

/-- The walk from the table of level n down, with what it met (R334, R337). -/
def s2Walk (s : State) (vf gpa : Nat) : Nat → Nat → Met → Except TrErr S2 × Met
  | 0, _, acc => (.error (s2Err .stage2 0 gpa), acc)
  | n + 1, t, acc =>
    let sh := 16 + 13 * n
    let at_ := apertureAddr (t + 8 * (gpa / 2 ^ sh % (if n = 2 then 64 else 8192)))
    let e := s.read64 at_
    let acc := { acc with reads := acc.reads ++ [at_] }
    if fld e 0 1 = 0 then (.error (s2Err .stage2 (n + 1) gpa), acc)
    else if s2Bad (n + 1) e then (.error (s2Err .reservedBit (n + 1) gpa), acc)
    else
      let oa := fld e 16 28 * 2 ^ 16
      if fld e 1 1 = 1 then
        (.ok ⟨gpa / 2 ^ sh * 2 ^ sh, 2 ^ sh, oa, fld e 2 1 == 1, fld e 3 1 == 1, fld e 4 1 == 1, sextNat 8 (fld e 5 8), at_⟩, acc)
      else s2Walk s vf gpa n oa { acc with entries := ⟨vf, n + 1, gpa / 2 ^ sh, oa⟩ :: acc.entries }

/-- A cache of n entries per level takes new entries, the free choice saying which old one goes (R338). -/
def addWalks (pick n : Nat) (l new : List WalkEntry) : List WalkEntry :=
  new.foldl (fun l e =>
    if l.contains e then l
    else
      let same := l.filter fun x => x.level == e.level
      if n ≤ same.length then
        match same[pick % same.length]? with
        | some v => e :: l.erase v
        | none => e :: l
      else e :: l) l
/-- Whether two entries of the translation cache map the same range of the same function. -/
def TcEntry.sameAs (e x : TcEntry) : Bool := x.vf == e.vf && x.s2only == e.s2only && x.base == e.base && x.size == e.size
/-- An entry added to the translation cache, in the place of one of the same range. -/
def addTc (pick : Nat) (l : List TcEntry) (e : TcEntry) : List TcEntry :=
  let l := l.filter fun x => !e.sameAs x
  if Config.tcCount ≤ l.length then e :: l.eraseIdx (pick % l.length) else e :: l

/-- The failure of an access whose walk reads a block that fails a sealed partition's tag, or a poisoned line (R154, R241, R414; log entry 78). -/
def tagErr (gpa : Nat) : TrErr := ⟨.integrity, 8, 0, gpa, false⟩
/-- A walk's reads at their homes: misses allocate or are counted (R391); the read of a poisoned line kills the context of the port that
walks, as the next event (R414). -/
def State.walkRead (who : Who) (hpa n : Nat) (s : State) : State :=
  let s := s.afterRead who.part hpa n
  if who.die.isSome && s.poisoned hpa n then { s with agenda := .poison s.core.id hpa :: s.agenda } else s
/-- Whether what a walk reads cannot be used: its block fails a sealed partition's tag, or a line of it is poisoned. -/
def State.walkBad (s : State) (who : Who) (hpa n : Nat) : Bool := s.badBlock who.part hpa n || s.poisoned hpa n

/-- Whether the aperture admits the access: the way must be a store way of the function's partition (R393). -/
def State.apertureOk (s : State) (part hpa : Nat) : Bool :=
  !inAperture hpa || (match s.grantFor (sliceOf hpa) (colourOf hpa) part with
    | some g => g.storeWays.contains (hpa / 2 ^ 36 % 16)
    | none => false)

/-- Stage 2 of one guest-physical address, through the port's caches where they serve (R337, R338). -/
def State.stage2 (who : Who) (gpa : Nat) (s : State) : Except TrErr S2 × State :=
  match if who.cached then s.core.port.tc.find? (fun e => e.vf == who.vf && e.s2only && decide (e.base ≤ gpa ∧ gpa < e.base + e.size))
    else none with
  | some e => (.ok ⟨e.base, e.size, e.hpa, e.w2, e.dirty, e.sum, e.scale, e.leafAt⟩, s)
  | none =>
    let ws := s.core.port.walks2.filter fun e => who.cached && e.vf == who.vf
    let from_ : Nat × Nat :=
      match ws.find? (fun e => e.level == 2 && e.tagBits == gpa / 2 ^ 29) with
      | some e => (1, e.next)
      | none => match ws.find? (fun e => e.level == 3 && e.tagBits == gpa / 2 ^ 42) with
        | some e => (2, e.next)
        | none => (3, (s.vfAt who.vf).s2root)
    let (r, met) := s2Walk s who.vf gpa from_.1 from_.2 ⟨[], []⟩
    let lost := met.reads.any fun a => s.poisoned a 8
    let s := met.reads.foldl (fun s a => s.walkRead who a 8) s
    let s := if who.cached then s.onPort fun p => { p with walks2 := addWalks (s.pick 0 Config.walkCount) Config.walkCount p.walks2 met.entries } else s
    match if lost then .error (tagErr gpa) else r with
    | .error e => (.error e, s)
    | .ok t =>
      let c : TcEntry := { vf := who.vf, s2only := true, base := t.base, size := t.size, hpa := t.hpa, w1 := true, w2 := t.w,
                           dirty := t.dirty, sum := t.sum, scale := t.scale, leafAt := t.leafAt, leafBig := t.size != 65536,
                           gpaPage := t.base, desc := none, kind := 0 }
      (.ok t, if who.fill then s.onPort fun p => { p with tc := addTc (s.pick 1 Config.tcCount) p.tc c } else s)

/-! ### Stage 1 (R327 to R331) -/

/-- A stage-1 leaf: what it maps and where, its write bit, its kind. -/
structure S1 where
  base : Nat
  size : Nat
  oa : Nat
  w : Bool
  kind : Nat
deriving DecidableEq, Repr

/-- Whether a valid stage-1 entry breaks its layout (R330). -/
def s1Bad (level ix : Nat) (e : W64) : Bool :=
  let leaf := fld e 1 1 == 1
  let kind := fld e 5 3
  let cont := fld e 3 1 == 1
  fld e 48 16 != 0 || fld e 8 4 != 0 || fld e 4 1 != 0 || fld e 7 1 != 0 || (leaf && 4 ≤ level) || (!leaf && level == 1)
    || (!leaf && (kind != 0 || cont || fld e 2 1 != 0)) || (leaf && kind != 0 && (level == 3 || level == 1))
    || (leaf && cont && level != 1) || (leaf && kind == 0 && level == 2 && fld e 12 9 != 0)
    || (leaf && level == 3 && fld e 12 18 != 0) || (leaf && level == 1 && cont && fld e 12 4 != ix % 16)

/-- The walk from the table of level n down (R328, R337). -/
def s1Walk (who : Who) (va : Nat) : Nat → Nat → List WalkEntry → State → Except TrErr S1 × List WalkEntry × State
  | 0, _, acc, s => (.error ⟨.stage1, 1, 0, 0, false⟩, acc, s)
  | n + 1, t, acc, s =>
    let sh := 12 + 9 * n
    let ix := va / 2 ^ sh % 512
    match s.stage2 who t with
    | (.error e, s) => (.error { e with table := true }, acc, s)
    | (.ok t2, s) =>
      let at_ := t2.at (t + 8 * ix)
      let e : W64 := BitVec.ofNat 64 (leNat (s.seen who.part at_ 8))
      let lost := s.walkBad who at_ 8
      let s := s.walkRead who at_ 8
      if !s.apertureOk who.part at_ then (.error { s2Err .permission 0 t with table := true }, acc, s)
      else if lost then (.error (tagErr t), acc, s)
      else if fld e 0 1 = 0 then (.error ⟨.stage1, 1, n + 1, 0, false⟩, acc, s)
      else if s1Bad (n + 1) ix e then (.error ⟨.reservedBit, 1, n + 1, 0, false⟩, acc, s)
      else
        let oa := fld e 12 36 * 2 ^ 12
        if fld e 1 1 = 1 then
          if fld e 3 1 = 1 then (.ok ⟨va / 65536 * 65536, 65536, oa / 65536 * 65536, fld e 2 1 == 1, 0⟩, acc, s)
          else (.ok ⟨va / 2 ^ sh * 2 ^ sh, 2 ^ sh, oa, fld e 2 1 == 1, fld e 5 2⟩, acc, s)
        else s1Walk who va n oa (⟨who.vf, n + 1, va / 2 ^ sh, oa⟩ :: acc) s

/-- Stage 1 of one address, from the lowest walk-cache entry that matches (R337, R338). -/
def State.stage1 (who : Who) (va : Nat) (s : State) : Except TrErr S1 × State :=
  if fld who.s1tb 0 1 = 0 then (.error ⟨.stage1, 1, 5, 0, false⟩, s)
  else
    let ws := s.core.port.walks1.filter fun e => who.cached && e.vf == who.vf
    let hit (lv : Nat) : Option WalkEntry := ws.find? fun e => e.level == lv && e.tagBits == va / 2 ^ (12 + 9 * (lv - 1))
    let from_ : Nat × Nat :=
      match [2, 3, 4, 5].filterMap fun lv => (hit lv).map fun e => (lv - 1, e.next) with
      | p :: _ => p
      | [] => (5, fld who.s1tb 12 36 * 2 ^ 12)
    let (r, met, s) := s1Walk who va from_.1 from_.2 [] s
    (r, if who.cached then s.onPort fun p => { p with walks1 := addWalks (s.pick 2 Config.walkCount) Config.walkCount p.walks1 met } else s)

/-! ### Window descriptors (R332) -/

/-- A window descriptor as an access uses it. -/
structure Desc where
  kind : Nat
  sum : Bool
  home : Nat
  hvf : Nat
  scale : Int
  mset : Nat
  tgpa : Nat
  cores : List Nat
deriving DecidableEq, Repr

/-- Bytes i to i + n - 1 of a list, as a number. -/
def leAt (b : List Byte) (i n : Nat) : Nat := leNat ((b.drop i).take n)

def bitsSet (x n : Nat) : List Nat := (List.range n).filter fun i => x / 2 ^ i % 2 == 1

def parseDesc (b : List Byte) : Desc :=
  { kind := leAt b 0 1, sum := leAt b 1 1 % 2 == 1, home := leAt b 2 2, hvf := leAt b 4 1, scale := sextNat 8 (leAt b 5 1),
    mset := leAt b 8 8, tgpa := leAt b 0x10 8, cores := bitsSet (leAt b 0x18 48) 384 }

/-- Whether a descriptor breaks its layout for the leaf's kind, or a field is out of its range: the member bitmap and the 2 MiB behind the
window lie within the 48 bits of a guest-physical address (R332). -/
def descBad (kind : Nat) (b : List Byte) : Bool :=
  let z (i n : Nat) : Bool := leAt b i n == 0
  leAt b 0 1 != kind || !z 6 2 || !z 0x48 56
    || (kind == 1 && (!(z 1 1 && z 2 2 && z 4 1 && z 5 1 && z 8 8 && z 0x10 8) || (bitsSet (leAt b 0x18 48) 384).length != 1))
    || (kind == 2 && !(z 1 1 && z 2 2 && z 4 1 && z 5 1))
    || (kind == 3 && (2 ≤ leAt b 1 1 || 0x1000 ≤ leAt b 2 2 || 192 ≤ leAt b 4 1 || !z 0x18 48 || (leAt b 1 1 == 0 && !z 5 1)))
    || leAt b 8 8 % 512 != 0 || decide (2 ^ 48 ≤ leAt b 8 8) || decide (2 ^ 48 < leAt b 0x10 8 + 2 ^ 21)

/-- The node at coordinates (x, y, z), and the other way (R226, R332). -/
def nodeOf (x y z : Nat) : Nat := x + 16 * y + 256 * z

/-- A group by its member set, the same number on every member. -/
def groupKey (nodes : List Nat) : Nat := nodes.foldl (fun k n => k + 2 ^ n) 0

/-- The members of a window's group, in ascending node order with X fastest; this module alone when MSET is 0. -/
def State.memberNodes (who : Who) (d : Desc) (s : State) : Except TrErr (List Nat) × State :=
  if d.mset = 0 then (.ok [s.mgmt.node], s)
  else match s.stage2 who d.mset with
    | (.error e, s) => (.error e, s)
    | (.ok t, s) =>
      let b := s.seen who.part (t.at d.mset) 512
      let lost := s.walkBad who (t.at d.mset) 512
      let s := s.walkRead who (t.at d.mset) 512
      if !s.apertureOk who.part (t.at d.mset) then (.error (s2Err .permission 0 d.mset), s)
      else if lost then (.error (tagErr d.mset), s)
      else (.ok (bitsSet (leNat b) 4096), s)

/-! ### The whole translation (R337, R340, R393) -/

/-- Where an access lands. -/
inductive Target
  | mem (hpa frame : Nat) (sum : Bool) (scale : Int)
  | row (core row off : Nat)
  | rows (row : Nat) (cores nodes : List Nat) (whole : Bool)
  | red (d : Desc) (nodes : List Nat) (gpa : Nat)
  /-- A prefetch of a window ends silently (R333). -/
  | nothing
deriving DecidableEq, Repr

/-- D set by one action at the leaf, with its log record (R341, R343). -/
def State.setDirty (vf : Nat) (t : S2) (s : State) : State :=
  if t.dirty || fld (s.read64 t.leafAt) 3 1 == 1 then s
  else
    let v := s.vfAt vf
    let part := v.part.getD 0
    let s := s.actAt part t.leafAt [BitVec.ofNat 8 ((s.mem.byte t.leafAt).toNat + 8)]
    let s := s.onPort fun p => { p with tc := p.tc.map fun e => if e.leafAt = t.leafAt then { e with dirty := true } else e }
    if fld v.dlog0 63 1 = 1 ∧ fld v.dlog0 62 1 = 0 then
      let next := fld v.dlog1 32 32
      if next = fld v.dlog1 0 32 then s.setVf vf fun v => { v with dlog0 := v.dlog0 ||| 0x4000000000000000 }
      else
        (s.actAt part (fld v.dlog0 12 32 * 2 ^ 12 + 8 * next) (natLe (2 ^ 63 + t.base % 2 ^ 48) 8)).setVf vf
          fun v => { v with dlog1 := v.dlog1 + 0x100000000 }
    else s

/-- Stage 2 of the data address and the checks on it: a write that stage 1 denies is met there, one that stage 2 or the aperture denies
at stage 2 (R181, R337). -/
def State.landMem (who : Who) (gpa : Nat) (wr w1 : Bool) (s : State) : Except TrErr (Target × S2) × State :=
  match s.stage2 who gpa with
  | (.error e, s) => (.error e, s)
  | (.ok t, s) =>
    if wr && !w1 then (.error ⟨.permission, 1, 0, gpa, false⟩, s)
    else if (wr && !t.w) || !s.apertureOk who.part (t.at gpa) then (.error ⟨.permission, 2, 0, gpa, false⟩, s)
    else (.ok (.mem (t.at gpa) (t.frame gpa) t.sum t.scale, t), s)

def permErr : TrErr := ⟨.permission, 7, 0, 0, false⟩
/-- A write through a window whose stage-1 leaf denies it. -/
def writeErr : TrErr := ⟨.permission, 1, 0, 0, false⟩

/-- An access through a window whose descriptor has been read and checked (R333): where it lands, by the window's kind; the memory behind
the window is translated before the access is checked (R337). A member bitmap without this module, or a core number at or above the
partition's core count, gives PERMISSION (R332, R360). -/
def State.landDesc (who : Who) (cls : AClass) (wr : Bool) (l : S1) (b : List Byte) (ea : Nat) (s : State) :
    Except TrErr (Target × Option S2) × State :=
  let d := parseDesc b
  let o := ea - l.base
  match s.memberNodes who d with
  | (.error e, s) => (.error e, s)
  | (.ok nodes, s) =>
    let known := d.cores.all fun c => decide (c < (s.partAt who.part).sites.length)
    let mine := nodes.contains s.mgmt.node && known
    let behind (s : State) : Except TrErr (Target × Option S2) × State :=
      match s.landMem who (d.tgpa + o) wr l.w with
      | (.error e, s) => (.error e, s)
      | (.ok (x, t), s) => if mine then (.ok (x, some t), s) else (.error permErr, s)
    let lands (ok : Bool) (x : Target) : Except TrErr (Target × Option S2) × State :=
      if !ok then (.error permErr, s) else if wr && !l.w then (.error writeErr, s) else (.ok (x, none), s)
    match l.kind, cls with
    | 1, .ls | 1, .elem =>
      let c := d.cores.headD 0
      let okCore := match who.die, s.coreAt ⟨who.part, c⟩ with
        | some die, some k => k.place.site / 128 == die
        | _, _ => false
      lands (okCore && decide (o / 256 < Config.carryRow)) (.row c (o / 256) (o % 256))
    | 2, .ls | 2, .deliver => if d.tgpa = 0 then (.error permErr, s) else behind s
    | 2, .mcast => lands (mine && decide (o / 256 < Config.carryRow)) (.rows (o / 256) d.cores nodes true)
    | 2, .group => lands mine (.rows 0 d.cores nodes false)
    | 2, .named => lands known (.rows 0 d.cores nodes false)
    | 3, .ls => if d.home != s.mgmt.node then (.error permErr, s) else behind s
    | 3, .aacc => lands mine (.red d nodes (d.tgpa + o))
    | _, _ => (.error permErr, s)

/-- The descriptor of a window leaf, read and checked (R332), and where it stands. -/
def State.readDesc (who : Who) (l : S1) (s : State) : Except TrErr (List Byte × Nat) × State :=
  match s.stage2 who l.oa with
  | (.error e, s) => (.error e, s)
  | (.ok t, s) =>
    let b := s.seen who.part (t.at l.oa) 128
    let lost := s.walkBad who (t.at l.oa) 128
    let s := s.walkRead who (t.at l.oa) 128
    if !s.apertureOk who.part (t.at l.oa) then (.error (s2Err .permission 0 l.oa), s)
    else if lost then (.error (tagErr l.oa), s)
    else if descBad l.kind b then (.error ⟨.reservedBit, 7, 2, l.oa, false⟩, s) else (.ok (b, t.at l.oa), s)

/-- An entry kept in the translation cache where the walk is to be kept (R338). -/
def State.keepTc (who : Who) (e : TcEntry) (s : State) : State :=
  if who.fill then s.onPort fun p => { p with tc := addTc (s.pick 3 Config.tcCount) p.tc e } else s

/-- The window side of R333; the leaf and its descriptor are kept in the translation cache (R338). -/
def State.landWindow (who : Who) (cls : AClass) (wr : Bool) (l : S1) (ea : Nat) (s : State) : Except TrErr (Target × Option S2) × State :=
  if cls = .pref then (.ok (.nothing, none), s)
  else match s.readDesc who l with
  | (.error e, s) => (.error e, s)
  | (.ok (b, _), s) =>
    let e : TcEntry := { vf := who.vf, s2only := false, base := l.base, size := l.size, hpa := l.oa, w1 := l.w, w2 := true, dirty := true,
                         sum := false, scale := 0, leafAt := 0, leafBig := false, gpaPage := l.oa, desc := some b, kind := l.kind }
    (s.keepTc who e).landDesc who cls wr l b ea

/-- Whether a class of access reaches group windows alone (R333). -/
def AClass.groupOnly (c : AClass) : Bool := c == .mcast || c == .deliver || c == .group || c == .named

/-- A walk that uses the caches or not, down to where the access lands, before D. -/
def State.walkAll (who : Who) (cls : AClass) (wr : Bool) (ea : Nat) (s : State) : Except TrErr (Target × Option S2) × State :=
  match s.stage1 who ea with
  | (.error e, s) => (.error e, s)
  | (.ok l, s) =>
    if l.kind = 0 then
      match s.landMem who (l.oa + (ea - l.base)) wr l.w with
      | (.error e, s) => (.error e, s)
      | (.ok (x, t), s) =>
        let gpa := l.oa + (ea - l.base)
        let size := min l.size t.size
        let base := ea / size * size
        let e : TcEntry := { vf := who.vf, s2only := false, base := base, size := size, hpa := t.at gpa - (ea - base), w1 := l.w,
                             w2 := t.w, dirty := t.dirty, sum := t.sum, scale := t.scale, leafAt := t.leafAt,
                             leafBig := t.size != 65536, gpaPage := t.base, desc := none, kind := 0 }
        if cls.groupOnly then (.error permErr, s) else (.ok (x, some t), s.keepTc who e)
    else s.landWindow who cls wr l ea

/-- An access through an entry of the translation cache. -/
def State.landHit (who : Who) (cls : AClass) (wr : Bool) (ea : Nat) (e : TcEntry) (s : State) : Except TrErr (Target × Option S2) × State :=
  if e.kind = 0 then
    let hpa := e.hpa + (ea - e.base)
    if cls.groupOnly || (wr && !(e.w1 && e.w2)) || !s.apertureOk who.part hpa then (.error ⟨.permission, 2, 0, e.gpaPage, false⟩, s)
    else
      let frame := if e.leafBig then frameOf hpa - frameOf hpa % 8192 else frameOf hpa
      (.ok (.mem hpa frame e.sum e.scale, some ⟨e.gpaPage, if e.leafBig then 2 ^ 29 else 65536, 0, e.w2, e.dirty, e.sum, e.scale, e.leafAt⟩), s)
  else if cls = .pref then (.ok (.nothing, none), s)
  else s.landDesc who cls wr ⟨e.base, e.size, e.hpa, e.w1, e.kind⟩ (e.desc.getD []) ea

/-- D set for a write (R341). -/
def dirtied (who : Who) (wr : Bool) : Except TrErr (Target × Option S2) × State → Except TrErr Target × State
  | (.error x, s) => (.error x, s)
  | (.ok (x, t), s) => (.ok x, if wr then (match t with
    | some t => s.setDirty who.vf t
    | none => s) else s)

/-- A denial met through a cache: the entry falls out, with the stage-2 entry that denied, and the port walks once more from the roots,
past every cache (R340). -/
def State.walkFresh (who : Who) (cls : AClass) (wr : Bool) (ea : Nat) (e : Option TcEntry) (gpa : Nat) (s : State) :
    Except TrErr Target × State :=
  let out (x : TcEntry) : Bool := some x == e || (x.vf == who.vf && x.s2only && decide (x.base ≤ gpa ∧ gpa < x.base + x.size))
  let s := s.onPort fun p => { p with tc := p.tc.filter fun x => !out x }
  dirtied who wr (State.walkAll { who with cached := false } cls wr ea s)

/-- One access translated: through a combined entry that grants it, or by a walk; a denial met through any cache is walked once more
from the roots, and what that walk finds is cached (R340). D is set for a write (R341). Bits [63:57] must be zero (R129). -/
def State.translate (who : Who) (cls : AClass) (wr : Bool) (addr : W64) (s : State) : Except TrErr Target × State :=
  let ea := addr.toNat
  if 2 ^ 57 ≤ ea then (.error ⟨.stage1, 0, 5, 0, false⟩, s)
  else
    let hit := if who.cached then
        s.core.port.tc.find? fun e => e.vf == who.vf && !e.s2only && decide (e.base ≤ ea ∧ ea < e.base + e.size)
      else none
    match hit with
    | some e => (match s.landHit who cls wr ea e with
      | (.error x, s) => if x.cause = .permission then s.walkFresh who cls wr ea (some e) x.gpa else (.error x, s)
      | r => dirtied who wr r)
    | none => (match s.walkAll who cls wr ea with
      | (.error x, s) => if x.cause = .permission ∧ who.cached then s.walkFresh who cls wr ea none x.gpa else (.error x, s)
      | r => dirtied who wr r)

/-- The group window that an address names: where its descriptor stands; an error says whether the translation itself failed (R333). -/
def State.groupWindow (who : Who) (addr : W64) (s : State) : Except Bool Nat × State :=
  match s.translate who .group false addr with
  | (.error e, s) => (.error (e.cause != .permission), s)
  | (.ok (.rows ..), s) => (match s.stage1 who addr.toNat with
    | (.ok l, s) => (match s.readDesc who l with
      | (.ok (_, h), s) => (.ok h, s)
      | (.error _, s) => (.error true, s))
    | (.error _, s) => (.error true, s))
  | (.ok _, s) => (.error false, s)

/-! ### Faults of an access -/

/-- The page record a failed access will raise (R344): a request for STAGE2, an event for STAGE1, nothing otherwise. -/
def TrErr.misses (e : TrErr) (va : W64) (write tens : Bool) : List PageMiss :=
  match e.cause with
  | .stage2 => [⟨false, e.gpa / 65536 * 65536, va, write, e.table, tens, e.level, e.gpa / 65536⟩]
  | .stage1 => [⟨true, 0, va, write, false, tens, e.level, va.toNat / 4096⟩]
  | _ => []

/-- Every entry of the port's caches for a function that a predicate names is dropped (R339, R357). -/
def Core.dropTc (p : TcEntry → Bool) (c : Core) : Core :=
  { c with port := { c.port with tc := c.port.tc.filter fun e => !p e } }

end Sys2Proof.Machine
end

