-- ==== Sys2Proof/Machine/Operands.lean ====
section
/-! DEFINITION. Operand forms: registers, K pairs, queue entries, effective addresses, and the accesses of S and P with their checks. -/

namespace Sys2Proof.Machine

/-! ### Registers (R126, R149, R185) -/

/-- An X register: zero with an empty earmark when its generation is stale. -/
def State.x (s : State) (r : XR) : Tagged W64 := (s.core.regs.x[r]).live 0 s.gen
/-- A result written to X: the context's generation and its earmark. -/
def State.setX (r : XR) (v : W64) (m : Mark) (s : State) : State :=
  s.onRegs fun g => { g with x := g.x.set r ⟨v, s.gen, m⟩ }
/-- A V register. -/
def State.v (s : State) (r : VR) : QEntry := (s.core.regs.v[r]).live 0 s.gen
def State.setVreg (r : VR) (v : Row) (m : Mark) (s : State) : State :=
  s.onRegs fun g => { g with v := g.v.set r ⟨v, s.gen, m⟩ }
/-- A K register as the engine that executes sees it (R16). -/
def State.k (s : State) (r : KR) : Tagged W32 := ((s.core.kView s.act)[r]).live 0 s.gen
/-- A K pair, named by its even register (R94). -/
def State.kp (s : State) (r : KR) : Tagged W64 :=
  let lo := s.k r
  let hi := s.k (Fin.ofNat 16 (r.val + 1))
  ⟨hi.val ++ lo.val, s.gen, hi.mark.union lo.mark⟩

/-- Whether S has not yet come as far as the word the engine stands at (R18). -/
def State.kAhead (s : State) : Bool := after s.me.six (s.eng .s).six
/-- A word that reads K waits for S (R18). -/
def needK (body : State → WordRes) (s : State) : WordRes := if s.kAhead then .stall .kAhead else body s

/-- The sign-extended 32-bit immediate (R127). -/
def imm64 (i : W32) : W64 := i.signExtend 64

/-! ### Data queues (R22, R151) -/

def Core.lqLen (c : Core) (q : Fin 4) : Nat := (c.q.lq[q]).length
def Core.lqFull (c : Core) (q : Fin 4) : Bool := decide (Config.lqDepth ≤ c.lqLen q)
/-- A push into a load queue with the context's generation. -/
def Core.pushLq (q : Fin 4) (d : Row) (m : Mark) (c : Core) : Core :=
  { c with q := { c.q with lq := c.q.lq.set q (c.q.lq[q] ++ [⟨d, c.place.gen, m⟩]) } }
def Core.setSq (q : Fin 2) (l : List QEntry) (c : Core) : Core := { c with q := { c.q with sq := c.q.sq.set q l } }
def Core.setLq (q : Fin 4) (l : List QEntry) (c : Core) : Core := { c with q := { c.q with lq := c.q.lq.set q l } }

/-! ### Where an access lands -/

/-- A byte of memory or of a scratchpad row. -/
def Target.loc : Target → Option Loc
  | .mem hpa frame _ _ => some (.mem hpa frame)
  | .row c r o => some (.win c r o)
  | _ => none
/-- Whether the page is a sum region, and its scale. -/
def Target.sum : Target → Option Int
  | .mem _ _ true e => some e
  | _ => none

/-- A 128-byte line of a scratchpad row of a core of the die, among the lines of memory (R258). -/
def winKey (core row half : Nat) : Nat := 2 ^ 40 + (core * 8192 + row) * 2 + half
/-- The 128-byte lines, of memory or of a scratchpad row, that n bytes from a place touch (R258). -/
def Loc.keys (n : Nat) : Loc → List Nat
  | .mem hpa _ => linesOf hpa n
  | .win c r o => (linesOf o n).map (winKey c r)
/-- Whether n bytes at one place and m at another have a byte in common. -/
def Loc.meets (x : Loc) (n : Nat) (y : Loc) (m : Nat) : Bool :=
  match x, y with
  | .mem a _, .mem b _ => decide (a < b + m ∧ b < a + n)
  | .win c r o, .win d q p => c == d && r == q && decide (o < p + m ∧ p < o + n)
  | .mem .., .win .. => false
  | .win .., .mem .. => false
/-- The lines an access of a port command touches at its homes. -/
def Micro.keys : Micro → List Nat
  | .load h _ _ _ => linesOf h 256
  | .zero _ _ | .put _ _ _ => []
  | .storeRow _ h _ _ => linesOf h 256
  | .storeData _ h _ _ => linesOf h 256
  | .copy a _ b _ n _ _ => linesOf a n ++ linesOf b n
  | .elemLoad _ n l => l.keys n
  | .elemStore _ n l => l.keys n
  | .gathEnd _ => []
  | .store l bs _ => l.keys bs.length
  | .sumFlags ps _ => ps.flatMap fun p => linesOf p.1 4096
  | .prefetch _ _ => []
  | .away _ h n _ => linesOf h n
  | .cast _ r cs => cs.flatMap fun c => [winKey c r 0, winKey c r 1]
  | .send _ _ _ l => l.flatMap fun x => linesOf x.1 64
/-- The places an access of a port command reads or writes at its homes, with their bytes. -/
def Micro.places : Micro → List (Loc × Nat)
  | .load h f _ _ => [(.mem h f, 256)]
  | .zero _ _ | .put _ _ _ | .gathEnd _ | .cast _ _ _ => []
  | .storeRow _ h f _ | .storeData _ h f _ => [(.mem h f, 256)]
  | .copy a f b g n _ _ => [(.mem a f, n), (.mem b g, n)]
  | .elemLoad _ n l | .elemStore _ n l => [(l, n)]
  | .store l bs _ => [(l, bs.length)]
  | .sumFlags ps _ => ps.map fun p => (.mem p.1 p.2.1, 4096)
  | .prefetch h n => [(.mem h 0, n)]
  | .away _ h n _ => [(.mem h 0, n)]
  | .send _ _ _ l => l.map fun x => (.mem x.1 x.2, 64)
/-- Whether an access stands for an addend that has been refused and is carried (R173). -/
def Micro.isCarried : Micro → Bool
  | .away _ _ _ true => true
  | _ => false
/-- Whether nothing is left of a command but a carried addend. -/
def Pend.carried (p : Pend) : Bool := p.ops.all Micro.isCarried
/-- Whether a command stands for an accumulate on its way. -/
def Pend.addend (p : Pend) : Bool := p.ops.any fun m => match m with
  | .away .. => true
  | _ => false
/-- Whether an access has to follow an earlier command at all: the flags of a SUMST are read once the addends before it are applied or carried
(R177). -/
def Micro.heeds (q : Pend) : Micro → Bool
  | .sumFlags .. => !q.carried
  | _ => true
/-- Whether an access has still to reach its home: what is left of the others concerns the core alone (R150, R159). -/
def Micro.homeSide : Micro → Bool
  | .zero _ _ | .put _ _ _ | .gathEnd _ => false
  | _ => true

/-- Whether two accesses of one engine perform in program order (R130, R150). -/
def sameOrder (a b : Ocl) : Bool := a == b || a == 0 || b == 0
/-- Whether an access of a class on some lines has to wait for an accepted command or store: of its own engine, for those of its class
or of class 0; of another, for those of its lines (R130, R150, R257, R258). -/
def Pend.before (e : Engine) (cls : Ocl) (keys : List Nat) (p : Pend) : Bool :=
  if p.eng = e then sameOrder p.cls cls && p.ops.any Micro.homeSide else p.ops.any fun m => m.keys.any keys.contains
def State.mustWait (s : State) (cls : Ocl) (keys : List Nat) : Bool := s.core.port.pend.any fun p => p.before s.act cls keys

/-- The bytes at a place and the earmark of its page or row (R129). -/
def State.readLoc (l : Loc) (n : Nat) (s : State) : List Byte × Mark :=
  match l with
  | .mem hpa frame => (s.seen s.core.place.part hpa n, s.pageMark frame)
  | .win c r o => match s.coreAt ⟨s.core.place.part, c⟩ with
    | some k => (rowBytes (k.row r).val o n, (k.row r).mark)
    | none => (List.replicate n 0, Mark.empty)
/-- What a read leaves beside the lines it touches. -/
def State.readDone (l : Loc) (n : Nat) (s : State) : State :=
  match l with
  | .mem hpa _ => s.afterRead s.core.place.part hpa n
  | .win .. => s
/-- Data written at its home, with the page's earmark unioned in the same action; nothing when the generation is no longer current (R149, R267). -/
def State.writeData (part : Nat) (gen : Gen) (kind : WriteKind) (hpa frame : Nat) (bs : List Byte) (m : Mark) (s : State) : State :=
  if gen = (s.partAt part).gen then (s.unionPageMark frame m).writeMem part gen kind hpa bs else s
def State.writeLoc (part : Nat) (gen : Gen) (l : Loc) (bs : List Byte) (m : Mark) (s : State) : State :=
  match l with
  | .mem hpa frame => s.writeData part gen .plain hpa frame bs m
  | .win c r o =>
    if gen = (s.partAt part).gen then
      s.atCore ⟨part, c⟩ fun k => let d := k.row r; k.setRow r (rowPut d.val o bs) (d.mark.union m)
    else s

/-- Whether a place fails its integrity tag, or is poisoned (R154, R414). -/
def State.locBad (s : State) (l : Loc) (n : Nat) : Bool :=
  match l with
  | .mem hpa _ => s.badBlock s.core.place.part hpa n
  | .win .. => false
def State.locPoison (s : State) (l : Loc) (n : Nat) : Option Nat :=
  match l with
  | .mem hpa _ => if s.poisoned hpa n then some hpa else none
  | .win .. => none
/-- A read of a poisoned line: the kill of the reader is the next event (R414). -/
def State.readPoison (hpa : Nat) (s : State) : WordRes :=
  .block { s with agenda := .poison s.core.id hpa :: s.agenda } .port

/-- An early line may no longer serve loads of the classes in a mask (R130, R133). -/
def Core.dropEarly (mask : Nat) (c : Core) : Core :=
  { c with port := { c.port with early := c.port.early.bind fun e =>
    let left := (List.range 16).foldl (fun n k => if mask / 2 ^ k % 2 = 0 ∧ e.classes / 2 ^ k % 2 = 1 then n + 2 ^ k else n) 0
    if left = 0 then none else some { e with classes := left } } }
/-- The classes whose later accesses an access of a class holds back: its own and class 0, and class 0 holds back every class (R130). -/
def classMask (c : Ocl) : Nat := if c = 0 then 0xFFFF else 2 ^ c.val + 1
/-- An early line falls away when another engine's access to it is accepted (R258). -/
def Core.dropEarlyLines (keys : List Nat) (c : Core) : Core :=
  if c.port.early.any fun e => keys.contains e.line then { c with port := { c.port with early := none } } else c
/-- What an accepted access of the engine that moves leaves of the early line. -/
def State.noteAccess (ocl : Ocl) (keys : List Nat) (s : State) : State :=
  s.onCore fun c => if s.act = .s then c.dropEarly (classMask ocl) else c.dropEarlyLines keys

/-- Whether an accepted store of S whose class is in the mask has not performed. -/
def Core.storesIn (c : Core) (mask : Nat) : Bool := c.port.pend.any fun p => p.eng == .s && mask / 2 ^ p.cls.val % 2 == 1

/-! ### Accesses of S and P -/

/-- One access of 2^lg bytes by S or P, checked in the order of R129: bits [63:57], alignment, translation, integrity; then, for an
access that reads, the accepted stores and copies it must follow, when it is applied at once. k receives the target and the place. -/
def State.access (cls : AClass) (wr rd sync : Bool) (align lg : Nat) (ocl : Ocl) (st : Nat → State → W64) (ea : W64)
    (k : Target → Loc → State → WordRes) (s : State) : WordRes :=
  if ea.toNat < 2 ^ 57 ∧ ea.toNat % align ≠ 0 then .fault s .align (st 1 s) ea []
  else match s.translate s.who cls wr ea with
    | (.error e, s) => .fault s e.cause (st (if e.stage = 0 then 1 else if e.cause = .integrity then 4 else 2) s) ea (e.misses ea wr false)
    | (.ok t, s) => match t.loc with
      | none => .fault s .permission (st 2 s) ea []
      | some l =>
        if s.locBad l (2 ^ lg) then .fault s .integrity (st 4 s) ea []
        else if sync && s.mustWait ocl (l.keys (2 ^ lg)) then .stall .port
        else match if rd then s.locPoison l (2 ^ lg) else none with
          | some h => s.readPoison h
          | none => k t l (s.noteAccess ocl (l.keys (2 ^ lg)))

/-- S's accesses. -/
def State.sAccess (cls : AClass) (wr rd : Bool) (align lg : Nat) (ocl : Ocl) (ea : W64) (k : Target → Loc → State → WordRes)
    (s : State) : WordRes :=
  s.access cls wr rd rd align lg ocl (fun step s => sStatus lg ocl.val step s) ea k

end Sys2Proof.Machine
end

