-- ==== Sys2Proof/Machine/DispatchOps.lean ====
section
/-! DEFINITION. The dispatcher's shared operations: recorded choices, job indices, job starts and ends, releases, kills. -/

namespace Sys2Proof.Machine

/-! ### Recorded and forced choices (R416, R417) -/

/-- The physical slices that hold a partition's colours, and the stops that hold its cores, ascending: their places are the logical numbers
(R359). -/
def State.slicesOf (s : State) (part : Nat) : List Nat :=
  ascending ((s.gran.grants.filterMap fun kv => match kv.2 with
    | some g => if g.part = part then some (kv.1 / 64) else none
    | none => none).dedup)
def State.hamletsOf (s : State) (part : Nat) : List Nat := ascending (((s.partAt part).sites.map (· / 8)).dedup)
/-- The logical slice of a physical one, and the logical hamlet of a logical core (R2, R10, R359). A slice that holds none of the partition's
colours has no logical number: the model gives it the count of the partition's slices (log entry 101). -/
def State.logicalSlice (s : State) (part slice : Nat) : Nat := (s.slicesOf part).findIdx (· == slice)
def State.logicalHamlet (s : State) (c : CoreId) : Nat :=
  (s.hamletsOf c.part).findIdx (· == ((s.partAt c.part).sites.getD c.num 0) / 8)

/-- WHO of a replay record: the logical core, the function, a sequence. -/
def whoCode (core vf seq : Nat) : Nat := core % 512 + vf % 256 * 512 + seq % 32768 * 2 ^ 17

/-- Whether the replay unit watches a class of choices of a partition. -/
def State.watched (s : State) (mode kind part : Nat) : Bool :=
  let r := s.mgmt.replay
  r.mode == mode && r.begun && r.part == some part && r.mask.toNat / 2 ^ kind % 2 == 1

/-- A record written in capture mode; a full region sets OVF. -/
def State.capture (kind part unit who : Nat) (s : State) : State :=
  if s.watched 1 kind part && !s.mgmt.replay.ovf then
    let n := s.mgmt.replay.log.length
    if (n + 1) * 16 ≤ s.mgmt.replay.size then
      let bs := natLe s.gcc.toNat 8 ++ natLe kind 1 ++ natLe part 1 ++ natLe unit 2 ++ natLe who 4
      (s.onMgmt fun m => { m with replay := { m.replay with log := m.replay.log ++ [⟨s.gcc, kind, part, unit, BitVec.ofNat 32 who⟩] } }).poke
        (s.mgmt.replay.base + 16 * n) bs
    else s.onMgmt fun m => { m with replay := { m.replay with ovf := true } }
  else s

/-- The replay departs from the log (R417). -/
def State.diverge (kind unit : Nat) (s : State) : State :=
  s.onMgmt fun m => { m with replay := { m.replay with mode := 0, diverged := true, divGcc := s.gcc, divUnit := unit, divKind := kind } }

/-- The unit that records a choice: a Granary slice for the classes 1, 2, 4 and 6, the Crossroads for class 3, and for the others the dispatcher,
the Commons die and the collective engine (R415; log entry 80). -/
def recorder (kind unit : Nat) : Nat := if kind = 1 ∨ kind = 2 ∨ kind = 4 ∨ kind = 6 then unit else 65536 + kind
/-- The cycle of the last record that a recording unit has used, or that in which the first replayed task started. -/
def Replay.lastUse (r : Replay) (me : Nat) : W64 := ((r.used.find? fun u => u.1 == me).map Prod.snd).getD r.since
/-- The first of the records whose event has not come within 2^24 cycles of the one before it at its recording unit (R417). -/
def Replay.overdue (gcc : W64) (r : Replay) : Option ReplayRec :=
  r.todo.find? fun x => decide (16777216 ≤ (gcc - r.lastUse (recorder x.kind x.unit)).toNat)
/-- A choice made: recorded in capture mode; in replay mode, held (none) until the log names it next for the unit that records it; once an event that the
log names next is late, the replay ends and nothing is held (R415, R417, log entry 80). -/
def State.choose (kind part unit who : Nat) (s : State) : Option State :=
  if s.watched 2 kind part then
    let me := recorder kind unit
    match s.mgmt.replay.overdue s.gcc, lowest (fun r => recorder r.kind r.unit == me) s.mgmt.replay.todo with
    | some x, _ => some (s.diverge x.kind x.unit)
    | none, none => some (s.diverge kind unit)
    | none, some i =>
      if (s.mgmt.replay.todo[i]?.map fun r => (r.kind, r.who)) = some (kind, BitVec.ofNat 32 who) then
        some (s.onMgmt fun m => { m with replay := { m.replay with
          todo := m.replay.todo.eraseIdx i, used := (me, s.gcc) :: m.replay.used.filter fun u => u.1 != me } })
      else none
  else some (s.capture kind part unit who)
/-- The turn of an access at the slice of its home (R415): one choice for each place in memory; places in scratchpads have none. -/
def State.turnAt (part who : Nat) (l : Loc) (s : State) : Option State :=
  match l with
  | .mem hpa _ => s.choose 1 part (s.logicalSlice part (sliceOf hpa)) who
  | .win .. => some s
/-- The turns of one action at several places; none while any of them is held. -/
def State.turnsAt (part who : Nat) : List Loc → State → Option State
  | [], s => some s
  | l :: ls, s => match s.turnAt part who l with
    | some s => State.turnsAt part who ls s
    | none => none
/-- The function whose context stands on a core. -/
def State.vfOn (c : CoreId) (s : State) : Nat := ((s.coreAt c).map fun k => k.place.vf).getD 0
/-- WHO of an access of the core that moves, with its copy tag (R416). -/
def State.accessWho (s : State) (tag : Nat) : Nat := whoCode s.core.place.num s.core.place.vf tag

/-! ### Jobs (R28, R25) -/

/-- How often a level runs. -/
def Level.count (l : Level) : Nat := if l.hi ≤ l.lo then 0 else ((l.hi - l.lo + l.step - 1) / l.step).toNat
/-- The jobs of a nest. -/
def TaskRec.jobCount (r : TaskRec) : Nat := r.order.foldl (fun n l => n * (r.levels[l]?.map Level.count).getD 0) 1
/-- The index of each level in job j, the innermost varying fastest: pairs of level and index, from the innermost outwards. -/
def indexPairs (r : TaskRec) : List Nat → Nat → List (Nat × W32)
  | [], _ => []
  | l :: ls, j =>
    match r.levels[l]? with
    | some v => (l, BitVec.ofInt 32 (v.lo + (j % v.count : Nat) * v.step)) :: indexPairs r ls (j / v.count)
    | none => indexPairs r ls j
/-- K0 to K3 of job j. -/
def TaskRec.indices (r : TaskRec) (j : Nat) : List W32 :=
  let ps := indexPairs r r.order.reverse j
  (List.range 4).map fun l => ((ps.find? fun p => p.1 == l).map Prod.snd).getD 0

/-- K0 to K15 at a job start: the indices, then zeros. -/
def kStart (g : Gen) (idx : List W32) : Vector (Tagged W32) 16 := Vector.ofFn fun i => ⟨idx.getD i.val 0, g, Mark.empty⟩

/-- A job start: text word 0, the job's indices, empty tokens, loops, journals, queues and staging slots, RNE (R25). -/
def Core.jobStart (param : W64) (idx : List W32) (job : Nat) (c : Core) : Core :=
  let g := c.place.gen
  { c with
    place := { c.place with job := job }
    regs := { c.regs with x := c.regs.x.set 0 ⟨param, g, Mark.empty⟩, k := Vector.replicate 5 (kStart g idx),
                          jour := Vector.replicate 5 [], mmode := .rne, hmode := false }
    walk := { c.walk with engs := Vector.replicate 5 Eng.init, toks := Vector.replicate 25 0, points := [], pointBase := none,
                          decisions := [], jobReq := none, jobGives := [], stall := 0, tagSeen := false, hit := none, faults := [] }
    q := { Queues.init with bound := c.q.bound, boundFrom := c.q.boundFrom }
    port := { c.port with abuf := none, early := none }
    waits := { c.waits with stage := Vector.replicate 8 none } }

/-- An entry of a stale generation becomes zero, with the current generation and an empty earmark. -/
def Tagged.scrub {α : Type} (zero : α) (g : Gen) (t : Tagged α) : Tagged α := if t.gen = g then t else ⟨zero, g, Mark.empty⟩
/-- Every stale entry of a core; a row or a carry entry that is not listed reads as zero in every generation (R365). -/
def Core.scrub (g : Gen) (c : Core) : Core :=
  { c with
    regs := { c.regs with x := c.regs.x.map (Tagged.scrub 0 g), k := c.regs.k.map fun v => v.map (Tagged.scrub 0 g),
                          v := c.regs.v.map (Tagged.scrub 0 g) }
    q := { c.q with lq := c.q.lq.map fun l => l.map (Tagged.scrub 0 g), sq := c.q.sq.map fun l => l.map (Tagged.scrub 0 g),
                    ma := c.q.ma.map (Tagged.scrub 0 g), mb := c.q.mb.map (Tagged.scrub 0 g), fq := c.q.fq.map (Tagged.scrub 0 g) }
    port := { c.port with spad := c.port.spad.filter (fun kv => kv.2.gen == g), carry := c.port.carry.filter fun kv => kv.2.gen == g }
    mat := { c.mat with acc := c.mat.acc.map fun t => if t.gen = g then t else { AccTile.init with gen := g } } }
/-- A core with no context, every entry zero with the current generation, keeping its place and its port's credits (R297, R314, R365). -/
def Core.cleared (c : Core) : Core :=
  Core.scrub c.place.gen
    { Core.init with place := { Place.init with part := c.place.part, num := c.place.num, site := c.place.site, gen := c.place.gen,
                                                bankMap := c.place.bankMap }
                     port := { Port.init with redCredits := c.port.redCredits, redOwed := c.port.redOwed } }
/-- A core whose context has ended: its registers stand, nothing runs on it (R32). -/
def Core.freed (c : Core) : Core :=
  { c with place := { c.place with task := none, run := .idle },
           walk := { c.walk with softReq := false, hardStop := false, grace := false, kill := false } }
/-- Whether a core may be granted. -/
def Core.isFree (c : Core) : Bool := c.place.run == .idle && c.place.task.isNone

/-! ### The end of a job (R23, R32, R33) -/

/-- Whether a task's context stands on a core. -/
def Core.runsTask (t : Nat) (c : Core) : Bool := c.place.task == some t
/-- A change made in the context of a task on a logical core, whether it is resident or saved (R23, R51). -/
def State.atContext (c : CoreId) (t : Nat) (f : Core → Core) (s : State) : State :=
  if ((s.coreAt c).map (Core.runsTask t)).getD false then s.atCore c f
  else s.onDisp fun d => { d with saved := d.saved.map fun k => if Core.id k = c ∧ k.runsTask t then f k else k }
/-- n credits returned to the store queue a load queue is bound from, in the context that pushes into it (R23). -/
def State.returnCredits (peer : CoreId) (t : Nat) (sq : Fin 2) (n : Nat) (s : State) : State :=
  s.atContext peer t fun c =>
    { c.wake with q := { c.q with bound := c.q.bound.set sq ((c.q.bound[sq]).map fun b => { b with credits := b.credits + n }) } }

/-- The bindings of the core that moves end, and the entries its load queues hold return their credits. -/
def State.endBindings (s : State) : State :=
  let part := s.core.place.part
  let me := s.core.place.num
  let t := s.core.place.task.getD 0
  let s := (List.finRange 4).foldl (fun s q => match s.core.q.boundFrom[q] with
    | some b =>
      let n := s.core.lqLen q
      (List.range n).foldl (fun s _ => s.meshToCore s.core.id ⟨part, b.peer⟩ .response false) (s.returnCredits ⟨part, b.peer⟩ t b.sq n)
    | none => s) s
  let s := (List.finRange 2).foldl (fun s q => match s.core.q.bound[q] with
    | some b => s.atContext ⟨part, b.peer⟩ t fun c =>
        if c.q.boundFrom[b.plq] = some ⟨me, q⟩ then { c with q := { c.q with boundFrom := c.q.boundFrom.set b.plq none } } else c
    | none => s) s
  s.onQ fun q => { q with bound := Vector.replicate 2 none, binds := [] }

/-- Whether any data queue or token queue holds entries (R33). -/
def Core.hasResidue (c : Core) : Bool :=
  c.q.lq.toList.any (· ≠ []) || c.q.sq.toList.any (· ≠ []) || c.q.ma ≠ [] || c.q.mb ≠ [] || c.q.fq ≠ [] || c.walk.toks.toList.any (· ≠ 0)

def Task.setSeat (num : Nat) (x : Seat) (t : Task) : Task :=
  { t with cores := t.cores.map fun p => if p.1 = num then (p.1, x) else p }
def Task.seat (t : Task) (num : Nat) : Option Seat := (t.cores.find? fun p => p.1 == num).map Prod.snd

/-- Cores that wait for a job when none is left are released (R32). -/
def State.releaseIdle (t : Nat) (s : State) : State :=
  match s.taskAt t with
  | none => s
  | some k =>
    if k.r.static ∨ k.nextJob < k.jobs then s
    else
      let idle := (k.cores.filter fun p => p.2 == .waiting).map Prod.fst
      let s := idle.foldl (fun s n => s.atCore ⟨k.part, n⟩ fun c => if c.place.task = some t then c.freed else c) s
      s.setTask t fun k => { k with cores := k.cores.map fun p => if p.2 = .waiting then (p.1, .released) else p }

/-- The tile job of the core that moves ends: what its queues hold is discarded, its bindings end, and the core waits for another job,
is released, or is released with nothing saved when a soft request is pending (R33, R32, R47). -/
def State.jobEnd (s : State) : State :=
  let residue := s.core.hasResidue
  let num := s.core.place.num
  let s := s.endBindings
  let s := s.onCore fun c => { c with walk := { c.walk with toks := Vector.replicate 25 0 },
                                      q := { Queues.init with boundFrom := c.q.boundFrom } }
  match s.core.place.task with
  | none => s.onCore Core.freed
  | some t =>
    let s := s.setTask t fun k => { k with residue := k.residue || residue }
    match s.taskAt t with
    | none => s.onCore Core.freed
    | some k =>
      let more := !k.r.static && !k.r.persist && decide (k.nextJob < k.jobs)
      if s.core.walk.softReq || s.core.walk.hardStop then
        (s.onCore Core.freed).setTask t (Task.setSeat num (if more then .waiting else .released))
      else if more then s.setTask t (Task.setSeat num .waiting)
      else (s.onCore Core.freed).setTask t (Task.setSeat num .released)

/-- Whether every command of the core has completed and no addend is carried (R176). -/
def Core.drained (c : Core) : Bool :=
  c.port.pend.isEmpty && c.port.compl.isEmpty && c.port.carry.isEmpty && c.mat.ops.isEmpty && c.mat.word.isNone && c.mat.sigs.isEmpty
    && c.regs.counts.toList.all (· == 0)
/-- Whether the five engines stand at the same HALT (R123). -/
def Core.allHalted (c : Core) : Bool :=
  engines.all fun e => (c.eng e).blk == .atHalt && (c.eng e).six == (c.eng .s).six
/-- Whether the job of the core that moves has not ended yet. -/
def State.jobOn (s : State) : Bool :=
  match s.core.place.task.bind s.taskAt with
  | some k => k.seat s.core.place.num == some .running
  | none => s.core.place.run == .running
/-- The job ends once every engine is at HALT and the port is drained (R33, R176). -/
def State.tryHalt (s : State) : State :=
  if s.core.place.run == .running && s.core.allHalted && s.core.drained && s.jobOn then s.jobEnd else s

/-! ### The generation of a function (R347) -/

def State.notice (n : Notice) (s : State) : State := s.onMgmt fun m => { m with notices := m.notices ++ [n] }
/-- The notice of a page record. -/
def State.pageNotice (r : PageRec) (s : State) : State :=
  s.notice ⟨if r.event then .pageEvt r else .pageReq r, r.vfn, r.core, 0, s.gcc⟩

/-- A function's generation rises: its kept records take it and their notices are sent again. -/
def State.raiseVfGen (vf : Nat) (s : State) : State :=
  let s := s.setVf vf fun v =>
    let up (r : PageRec) : PageRec := { r with gen := v.gen + 1 }
    { v with gen := v.gen + 1, reqQ := v.reqQ.map up, evQ := v.evQ.map up }
  ((s.vfAt vf).reqQ ++ (s.vfAt vf).evQ).foldl (fun s r => s.pageNotice r) s
def State.raiseVfGens (vf : Nat) : Nat → State → State
  | 0, s => s
  | n + 1, s => State.raiseVfGens vf n (s.raiseVfGen vf)

/-! ### The kill step (R50) -/

/-- Carry entries that hold a carried addend: the VALID ones, whether or not a re-send of theirs is in flight (log entry 71). -/
def Core.carried (c : Core) : Nat := (c.port.carry.filter fun e => e.2.valid).length

/-- What a kill leaves of the command: of one that has been sent, what it still writes at its homes (R50, R268). -/
def Pend.afterKill (p : Pend) : Option Pend :=
  let ops := p.ops.filter fun m => match m with
    | .storeRow .. | .storeData .. | .copy .. | .elemStore .. | .store .. => true
    | _ => false
  if p.sent && !ops.isEmpty then some { p with ops := ops, tag := none } else none
/-- A killed context: engines stop where they are, commands not yet sent are dropped, requests already on the ring go on, the carry tile is
discarded; the core waits for the scrubber (R50, R365). -/
def Core.killed (c : Core) : Core :=
  { c with place := { c.place with task := none, run := .scrubbing }
           port := { c.port with pend := c.port.pend.filterMap Pend.afterKill, compl := [], carry := [], abuf := none, early := none }
           walk := { c.walk with hit := none, faults := [], softReq := false, hardStop := false, grace := false, kill := false, jobReq := none }
           mat := { c.mat with ops := [], word := none, sigs := [] }
           waits := { c.waits with waitm := none, bar := none } }

/-- The monitors of a core fall away. -/
def State.dropMonitors (c : CoreId) (s : State) : State :=
  s.onGran fun g => { g with monitors := g.monitors.filter fun m => m.core != c }
/-- The faults of a task's contexts that still wait for a place in a page record queue fall away with them (R345, R347). -/
def State.dropWaits (t : Nat) (s : State) : State :=
  s.onDisp fun d => { d with vfs := d.vfs.map fun v => { v with pageWait := v.pageWait.filter fun w => w.task != t } }

/-- Whether a command stands for the packet of a number. -/
def Pend.standsFor (id : Nat) (p : Pend) : Bool := p.ops.any fun m => match m with
  | .away k _ _ _ | .cast k _ _ => k == id
  | _ => false
/-- The slice of the accumulate a command stands for, if it is one to memory. -/
def Pend.channel (p : Pend) : Option Nat := p.ops.findSome? fun m => match m with
  | .away _ h (_ + 1) _ => some (sliceOf h)
  | _ => none
/-- Whether two commands are accumulates of one channel, which the ring and the slice keep in order, refusals aside (R171). -/
def Pend.sameChannel (p q : Pend) : Bool := p.eng == q.eng && p.cls == q.cls && p.channel.isSome && p.channel == q.channel
/-- Whether a command may be sent, as far as those before it go: nothing the port has to apply first is left of them. -/
def Pend.behind (earlier : List Pend) (p : Pend) : Bool :=
  earlier.any fun q => q.before p.eng p.cls (p.ops.flatMap Micro.keys) && !q.sameChannel p
/-- Whether the command that stands for a packet may be sent: nothing the port has to apply first stands before it. -/
def Core.awayFirst (id : Nat) (c : Core) : Bool :=
  match c.port.pend.find? (Pend.standsFor id) with
  | none => true
  | some p => !p.behind (c.port.pend.takeWhile fun q => !q.standsFor id)
/-- Whether the command that stands for a packet has been sent. -/
def Core.awaySent (id : Nat) (c : Core) : Bool :=
  match c.port.pend.find? (Pend.standsFor id) with
  | none => true
  | some p => p.sent
/-- Packets of a core that its port has not yet sent are dropped (R50). -/
def State.dropUnsent (c : CoreId) (s : State) : State :=
  let first (id : Option Nat) : Bool := match id, s.coreAt c with
    | some i, some k => k.awaySent i
    | _, _ => true
  (s.onGran fun g => { g with air := g.air.filter fun p => p.core != c || first p.carryIx,
                              mcasts := g.mcasts.filter fun p => p.src != c || first (some p.id) }).onXr fun x =>
    { x with redIn := x.redIn.filter fun p => p.core != c || first p.carryIx }
/-- The credits of a reservation that a core's port holds (R297). -/
def Core.redCredit (id : Nat) (c : Core) : Nat := Sparse.get 0 c.port.redCredits id
def Core.setRedCredit (id n : Nat) (c : Core) : Core :=
  { c with port := { c.port with redCredits := Sparse.set 0 c.port.redCredits id n } }
/-- A credit returned to a port while its reservation stands (R297). -/
def State.giveRedCredit (s : State) (r : Nat) (c : Core) : Core :=
  if s.xr.resv.any (fun x => x.id == r) then c.setRedCredit r (c.redCredit r + 1) else c
/-- The credits that a context being killed has spent: its port keeps account of those whose AACC has been sent, whose notice returns them, and takes back
the others (R297). -/
def State.keepCredits (c : CoreId) (s : State) : State :=
  s.atCore c fun k =>
    (k.port.carry.filter fun kv => kv.2.red && kv.2.busy && !kv.2.pair2).foldl (fun k kv => match kv.2.credit with
      | none => k
      | some r => if k.awaySent kv.1 then { k with port := { k.port with redOwed := (kv.2.id, r) :: k.port.redOwed } } else s.giveRedCredit r k) k
def State.killCore (c : CoreId) (s : State) : State := (((s.keepCredits c).dropUnsent c).atCore c Core.killed).dropMonitors c

/-- A started task ends: the kill step on every context of it, running or saved, and its outcome; the function's generation rises as
gens of the number of kills says (R44, R50). -/
def State.endTask (t outcome failCore : Nat) (gens : Nat → Nat) (s : State) : State :=
  match s.taskAt t with
  | none => s
  | some k =>
    let live := s.cores.filter (Core.runsTask t)
    let saved := s.disp.saved.filter (Core.runsTask t)
    let lost := ((live ++ saved).map Core.carried).foldl (· + ·) 0
    let s := live.foldl (fun s c => s.killCore c.id) s
    let s := (s.onDisp fun d => { d with saved := d.saved.filter fun c => !Core.runsTask t c }).dropWaits t
    let n := live.length + saved.length
    let s := s.raiseVfGens k.vf (gens n)
    let s := s.setPart k.part fun p => { p with cnt := { p.cnt with kills := p.cnt.kills + (if outcome = 6 then n - 1 else n) } }
    s.setTask t fun k =>
      if k.outcome.isSome then k
      else { k with outcome := some outcome, failCore := failCore, discarded := k.discarded + lost,
                    cores := k.cores.map fun p => (p.1, .released) }

/-- The task fails (R44): once for the task. -/
def State.failTask (t core : Nat) (s : State) : State :=
  if ((s.taskAt t).bind Task.outcome).isSome then s else s.endTask t 6 core (fun _ => 1)

/-! ### The next job of a static core (R139, R125) -/

/-- The cursor moves on: the job it comes to, if any. -/
def Core.advanceCursor (c : Core) : Core × Option Nat :=
  let cur := min (c.place.cursor + 1) c.place.count
  let c' := { c with place := { c.place with cursor := cur } }
  if cur < c.place.count then (c', some (c.place.first + cur * c.place.stride)) else (c', none)

/-- K0 to K3 written by S with a job's indices, at S's stream index (R31, R139). -/
def Core.writeIndices (idx : List W32) (c : Core) : Core :=
  (List.range 4).foldl (fun c i => c.writeK (Fin.ofNat 16 i) ⟨idx.getD i 0, c.place.gen, Mark.empty⟩) c

/-- The record of the task the core runs. -/
def State.curTask (s : State) : Option Task := s.core.place.task.bind s.taskAt

end Sys2Proof.Machine
end

