-- ==== Sys2Proof/Machine/Torus.lean ====
section
/-! DEFINITION. The torus: routes, channels and their credits, and the notes that a Crossroads or a collective engine sends itself
(R230 to R232). -/

namespace Sys2Proof.Machine

/-! ### Routes (R231) -/

/-- Coordinate d of a node, and the size of the torus in dimension d. -/
def coord (n d : Nat) : Nat := n / 16 ^ d % 16
def State.dimSize (s : State) (d : Nat) : Nat := match d with
  | 0 => s.mgmt.dims.1
  | 1 => s.mgmt.dims.2.1
  | _ => s.mgmt.dims.2.2
/-- (DST - c) mod n in dimension d, from this node. -/
def State.ringDist (s : State) (dst d : Nat) : Nat :=
  let n := max 1 (s.dimSize d)
  (coord dst d + n - coord s.mgmt.node d % n) % n
/-- The dimension-order port toward a node; none at the node itself. Port 2d goes up in dimension d, port 2d + 1 down. -/
def State.dimOrder (s : State) (dst : Nat) : Option Nat :=
  ((List.range 3).find? fun d => s.ringDist dst d ≠ 0).map fun d =>
    if 2 * s.ringDist dst d ≤ s.dimSize d then 2 * d else 2 * d + 1
/-- Whether a port is a minimal hop toward a node: it lowers the ring distance. -/
def State.minimalHop (s : State) (dst port : Nat) : Bool :=
  let d := port / 2
  let n := max 1 (s.dimSize d)
  let x := s.ringDist dst d
  let y := if port % 2 = 0 then (x + n - 1) % n else (x + 1) % n
  decide (min y (n - y) < min x (n - x))
def State.torusPort (s : State) (p : Nat) : TorusPort := s.xr.ports[p]?.getD TorusPort.init
/-- The node across a port. -/
def State.neighbour (s : State) (p : Nat) : Nat :=
  let d := p / 2
  let n := max 1 (s.dimSize d)
  let c := coord s.mgmt.node d
  s.mgmt.node - c * 16 ^ d + (if p % 2 = 0 then (c + 1) % n else (c + n - 1) % n) * 16 ^ d
/-- Whether a port is up: its link is up and its dimension has more than one node (R231). -/
def State.portUp (s : State) (p : Nat) : Bool := decide (p < 6) && (s.torusPort p).up && decide (1 < s.dimSize (p / 2))

def State.setPort (p : Nat) (f : TorusPort → TorusPort) (s : State) : State :=
  s.onXr fun x => { x with ports := x.ports.setIfInBounds p (f (x.ports[p]?.getD TorusPort.init)) }

/-! ### Channels (R230, R232) -/

/-- The dateline class of a hop: 1 across the dateline, else that of the last hop in the same dimension, and 0 on entering a dimension (R230). -/
def State.dateAfter (s : State) (hop : Option (Nat × Nat)) (port : Nat) : Nat :=
  if (s.torusPort port).dateline then 1
  else match hop with
    | some (last, d) => if last / 2 = port / 2 then d else 0
    | none => 0
def TorusPort.credit (t : TorusPort) (vc : Nat) : Nat := t.credits[vc]?.getD 0
/-- Flits of a direction counted: their numbers, from which the nonces are formed, and those since the last key update (R381). -/
def LinkDir.count (n : Nat) (d : LinkDir) : LinkDir := { d with seq := d.seq + BitVec.ofNat 64 n, flits := d.flits + n }
/-- A direction takes its next data key (R381). -/
def LinkDir.update (d : LinkDir) : LinkDir := { d with flits := d.flits - 2 ^ 32, epoch := d.epoch + 1, key := Config.nextKey d.key }
/-- A credit of a channel is spent on a packet of some flits; the cycle in which the last credit goes is kept (R232; log entry 119). -/
def State.spend (port vc flits : Nat) (s : State) : State :=
  s.setPort port fun q =>
    { q with credits := q.credits.setIfInBounds vc (q.credit vc - 1), outDir := q.outDir.count flits
             dryAt := if q.credit vc ≤ 1 then q.dryAt.setIfInBounds vc s.gcc else q.dryAt }
/-- Whether a channel has had no credit for some cycles. -/
def State.dryFor (s : State) (port vc cycles : Nat) : Bool :=
  (s.torusPort port).credit vc == 0 && decide (cycles ≤ (s.gcc - (s.torusPort port).dryAt[vc]?.getD 0).toNat)

/-! ### The trust group (R286, R382) -/

/-- The modules that a set reaches in one hop of some links, with the set. -/
def reachOne (links : List (Nat × Nat)) (l : List Nat) : List Nat :=
  (l ++ links.flatMap fun x => (if l.contains x.1 then [x.2] else []) ++ if l.contains x.2 then [x.1] else []).dedup
/-- The modules reached in at most n hops; no hop adds one any more where one adds none. -/
def reach (links : List (Nat × Nat)) : Nat → List Nat → List Nat
  | 0, l => l
  | n + 1, l => if (reachOne links l).length = l.length then l else reach links n (reachOne links l)
/-- The modules reachable from this one over links that are up and authenticated: the trust group (R382). -/
def State.trustGroup (s : State) : List Nat :=
  reach (((List.range 6).filter s.portUp).map (fun p => (s.mgmt.node, s.neighbour p)) ++ s.mgmt.links)
    (s.dimSize 0 * s.dimSize 1 * s.dimSize 2) [s.mgmt.node]
/-- Whether data may go to a destination: a module of the trust group, which is judged as it stands at the access; to the control node, which is
none, an earmark goes by itself when it is empty or its one label is owned by the reading session (R286, R382). -/
def State.releasesTo (s : State) (dest : Option Nat) (owns : Nat → Bool) (m : Mark) : Bool :=
  (dest.map s.trustGroup.contains).getD false || (!m.ovf && (match m.labels with
    | [] => true
    | [l] => owns l
    | _ => false))
/-- Whether data with an earmark may leave over a channel of a port now: the link is up and authenticated, the channel has a credit, and the module
across it may have the data (R231, R232, R286, R380). -/
def State.mayCross (s : State) (port vc : Nat) (m : Mark) : Bool :=
  s.portUp port && decide (0 < (s.torusPort port).credit vc) && s.releasesTo (some (s.neighbour port)) (fun _ => false) m

/-! ### Flits (R226, R228) -/

/-- The flits of 256 bytes that some beats of 64 bytes take. -/
def beatFlits (n : Nat) : Nat := (n + 3) / 4
def Packet.flits (p : Packet) : Nat := beatFlits (1 + (if p.code.isSome then 1 else 0) + p.payload.length / 64)
/-- Of a reduction packet: its lanes and a header beat; of a note: what it carries and a header beat. -/
def AaccPkt.flits (p : AaccPkt) : Nat := if p.fx then beatFlits 9 else beatFlits 5
def Note.flits : Note → Nat
  | .row _ => beatFlits 5
  | .chunk c => beatFlits (1 + (c.work.data.length + 63) / 64)
  | _ => 1
/-- The earmark of the data a note carries. -/
def Note.mark : Note → Mark
  | .row p => p.mark
  | .chunk c => c.work.mark
  | _ => Mark.empty

/-! ### Notes (R230) -/

/-- A note goes on toward its node over an escape channel, dimension-ordered, or waits for a credit there. -/
def State.emit (n : NotePkt) (s : State) : State :=
  match s.dimOrder n.dst with
  | none => s
  | some port =>
    let vc := s.dateAfter n.hop port
    if s.mayCross port vc n.note.mark then
      (s.spend port vc n.note.flits).onXr fun x => { x with notesSent := x.notesSent ++ [(port, { n with hop := some (port, vc) })] }
    else s.onXr fun x => { x with notes := x.notes ++ [n] }
/-- A note of this module to another; to several others. -/
def State.tell (dst : Nat) (n : Note) (s : State) : State := s.emit ⟨dst, n, none⟩
def State.tellAll (dsts : List Nat) (n : Note) (s : State) : State := dsts.foldl (fun s d => s.tell d n) s
/-- Waiting notes leave, in order, as far as credits go. -/
def State.drainNotes (s : State) : State :=
  let l := s.xr.notes
  l.foldl (fun s n => s.emit n) (s.onXr fun x => { x with notes := [] })

end Sys2Proof.Machine
end

