-- ==== Sys2Proof/Machine/PacketOps.lean ====
section
/-! DEFINITION. Packets: their header, routes, sending, parking and delivery (R226 to R233, R242, R248). -/

namespace Sys2Proof.Machine

/-! ### The header (R226) -/

/-- The four label bytes of an earmark (R283). -/
def Mark.bytes (m : Mark) : List Byte := (List.range 4).map fun i => BitVec.ofNat 8 (m.labels.getD i 0)
def flagBit (b : Bool) (n : Nat) : Nat := if b then 2 ^ n else 0

/-- The 64 bytes of a header. -/
def Packet.header (p : Packet) : List Byte :=
  natLe p.dst 2 ++ natLe p.src 2 ++ natLe p.tc 1 ++ natLe (p.vc + flagBit p.esc 3) 1 ++ natLe p.part 1 ++ natLe p.vfn 1
    ++ p.mark.bytes ++ natLe (flagBit p.mark.ovf 0) 1 ++ natLe p.budget 1 ++ natLe p.visits 1
    ++ natLe (flagBit p.code.isSome 0 + flagBit p.clone 1 + p.cld % 4 * 4 + flagBit p.msg 4) 1
    ++ p.w.toList.flatMap (fun x => natLe x.toNat 4) ++ p.places.toList.flatMap (fun x => natLe x.toNat 4)
    ++ natLe p.sp 1 ++ natLe (p.pc % 16 + p.next % 8 * 16 + flagBit p.nv 7) 1
    ++ natLe (p.payload.length / 64 + p.nbead * 16) 1 ++ natLe p.gen.toNat 1 ++ natLe p.score 2
    ++ natLe (p.dcore + p.dbead * 512) 2 ++ natLe p.daddr.toNat 8

/-- A code block as its sixteen instructions, and as its 32 bytes (R227). -/
def codeOf (b : List Byte) : List W16 := (List.range 16).map fun k => BitVec.ofNat 16 (leAt b (2 * k) 2)
def codeBytes (c : List W16) : List Byte := (c.flatMap fun x => natLe x.toNat 2).take 32
/-- The code a packet carries, zero bytes when it carries none. -/
def Packet.codeBlock (p : Packet) : List Byte := match p.code with
  | some c => codeBytes c
  | none => List.replicate 32 0

/-! ### Sending (R230, R232) -/

/-- The port of a packet's last hop and that hop's dateline class; none at its source. -/
def Packet.hop (p : Packet) : Option (Nat × Nat) := if p.came < 6 then some (p.came, p.vc % 2) else none
def TxPkt.hop (t : TxPkt) : Option (Nat × Nat) := match t.back with
  | some b => b.hop
  | none => t.pkt.hop
/-- The channel of a packet's class toward a port. -/
def TxPkt.channel (t : TxPkt) (esc : Bool) (s : State) : Nat := (if esc then 0 else 2 * t.pkt.tc) + s.dateAfter t.hop t.port

/-- A packet leaves on a channel of a port: a credit is spent and its flits counted. A park's return leaves its packet as it is. -/
def State.depart (t : TxPkt) (esc : Bool) (s : State) : State :=
  let vc := t.channel esc s
  let t' := match t.back with
    | some b => { t with back := some { b with hop := some (t.port, vc % 2) } }
    | none => { t with pkt := { t.pkt with vc := vc, esc := esc, came := t.port } }
  (s.spend t.port vc t.pkt.flits).onXr fun x => { x with sent := x.sent ++ [t'] }
/-- Whether the packet's own channel toward its port has a credit; a park's return takes the escape channel alone (R230). -/
def State.mayDepart (t : TxPkt) (s : State) : Option Bool :=
  let esc := t.back.isSome
  if s.mayCross t.port (t.channel esc s) t.pkt.mark then some esc else none
/-- A packet sent toward a port leaves at once or waits for a credit (R232). -/
def State.send (t : TxPkt) (s : State) : State :=
  match s.mayDepart t with
  | some esc => s.depart t esc
  | none => s.onXr fun x => { x with tx := x.tx ++ [t] }
/-- A packet sent from now on. -/
def State.sendNow (p : Packet) (port : Nat) (back : Option ParkedPkt) (s : State) : State := s.send ⟨p, port, s.gcc, back⟩
/-- Waiting packets and notes leave, in order, as far as credits go. -/
def State.drainTx (s : State) : State :=
  let l := s.xr.tx
  (l.foldl (fun s t => s.send t) (s.onXr fun x => { x with tx := [] })).drainNotes

/-! ### Limits, windows, counters (R229, R243, R244) -/

/-- The partition whose limits hold for a packet here; none when that number is FREE. -/
def State.limits (s : State) (part : Nat) : Part :=
  if (s.partAt part).st = .free then Part.init else s.partAt part
def beadKey (part core n : Nat) : Nat := (part * 512 + core) * 16 + n
def State.bead (s : State) (part core n : Nat) : W32 := Sparse.get 0 s.xr.beads (beadKey part core n)
/-- 1 added to a core's bead counter, modulo 2^32; the core has notice of it, and whoever waits on it looks again. -/
def State.addBead (part core n : Nat) (s : State) : State :=
  ((s.onXr fun x => { x with beads := Sparse.set 0 x.beads (beadKey part core n) (s.bead part core n + 1) }).meshDown ⟨part, core⟩ .urgent).atCore
    ⟨part, core⟩ Core.wake
def State.rxQueue (s : State) (part core : Nat) : RxQueue := Sparse.get RxQueue.init s.xr.rx (part * 512 + core)
def State.setRx (part core : Nat) (q : RxQueue) (s : State) : State :=
  s.onXr fun x => { x with rx := Sparse.set RxQueue.init x.rx (part * 512 + core) q }

/-! ### Parking (R248) -/

def ParkReason.code : ParkReason → Nat
  | .budget => 1 | .forbid => 2 | .stack => 3 | .endcode => 4 | .illegal => 5 | .range => 6 | .clonedepth => 7
  | .user _ => 8 | .group => 9 | .link => 10 | .stuck => 11
def ParkReason.user8 : ParkReason → Nat
  | .user c => c.toNat
  | _ => 0

/-- A parked packet waits at home for the bay, or starts its return (R248). -/
def State.returnPark (p : ParkedPkt) (s : State) : State :=
  match s.dimOrder p.pkt.src with
  | none => s.onXr fun x => { x with parks := x.parks ++ [p] }
  | some port => s.sendNow p.pkt port (some p)
/-- A packet parks here for a reason: its state freezes. -/
def State.park (r : ParkReason) (p : Packet) (s : State) : State :=
  s.returnPark ⟨p, r, s.mgmt.node, s.gcc.extractLsb' 0 32, none⟩

/-! ### Delivery (R228) -/

/-- The context in which a packet for a logical core is delivered, running or saved: that of the task that ran most recently on it, unless that
task has completed. It keeps the tables it took when it last started or resumed (R228, R326, R357). -/
def State.deliverWho (s : State) (part core : Nat) : Option Who :=
  match Sparse.get 0 s.xr.owner (part * 512 + core) with
  | 0 => none
  | t + 1 => match s.taskAt t with
    | some k =>
      let ctx := (s.disp.saved.find? fun c => c.id == ⟨part, core⟩ && c.runsTask t).orElse fun _ => s.coreAt ⟨part, core⟩
      if k.outcome.isNone then some { s.whoVf k.vf with s1tb := (ctx.map fun c => c.regs.s1tb).getD (s.vfAt k.vf).s1tb } else none
    | none => none
/-- A task's context comes to run on a logical core: the counters and the header queue there become its own, zero and empty at the
task's first start on that core; those of the context that ran before are held for it (R229, R24). -/
def State.takeRx (task part core : Nat) (s : State) : State :=
  let own := Sparse.get 0 s.xr.owner (part * 512 + core)
  if own = task + 1 then s
  else
    let mine (h : HeldRx) : Bool := h.task == task && h.part == part && h.core == core
    let kept := s.xr.held.filter fun h => !mine h && (s.taskAt h.task).isSome
    let before := if own = 0 ∨ (s.taskAt (own - 1)).isNone then []
      else [⟨own - 1, part, core, (List.range 16).map fun n => s.bead part core n, s.rxQueue part core⟩]
    let new := (s.xr.held.find? mine).getD ⟨task, part, core, List.replicate 16 0, RxQueue.init⟩
    (s.onXr fun x => { x with owner := Sparse.set 0 x.owner (part * 512 + core) (task + 1), held := kept ++ before,
                              beads := Sparse.setMany 0 x.beads (beadKey part core 0) new.beads }).setRx part core new.rx

/-- The members of the group window that holds an address, in a context: this module one of them, or not where a command names the group of a
tree that leads here (R314). -/
def State.windowNodes (who : Who) (cls : AClass) (addr : W64) (s : State) : Option (List Nat) :=
  match (State.translate who cls false addr s).1 with
  | .ok (.rows _ _ nodes _) => some nodes
  | _ => none
def State.groupNodes (who : Who) (addr : W64) (s : State) : Option (List Nat) := s.windowNodes who .group addr

/-- The places of consecutive 64-byte beats; none when one does not translate. For a packet without payload there is nothing to translate (R228; log
entry 118). -/
def State.landBeats (who : Who) (addr : W64) : Nat → State → Option (List (Nat × Nat)) × State
  | 0, s => (some [], s)
  | n + 1, s =>
    match State.translate who .deliver true addr s with
    | (.ok (.mem hpa frame _ _), s) =>
      (match State.landBeats who (addr + 64) n s with
        | (some l, s) => (some ((hpa, frame) :: l), s)
        | (none, s) => (none, s))
    | (_, s) => (none, s)

/-- The beats written, each at once, in order. -/
def State.writeBeats (part : Nat) (gen : Gen) (m : Mark) : List (Nat × Nat) → List Byte → State → State
  | [], _, s => s
  | (hpa, frame) :: l, bs, s =>
    State.writeBeats part gen m l (bs.drop 64) (s.writeData part gen .plain hpa frame (bs.take 64) m)

/-- A packet delivered at this node; it parks with GROUP where DCORE is no core of the partition (R360) or the window check fails, and a stale one is
discarded and counted; none while a replay holds back one of its writes (R417). -/
def State.deliver (p : Packet) (s : State) : Option State :=
  if p.gen ≠ (s.partAt p.part).gen then
    some (s.setPart p.part fun q => { q with cnt := { q.cnt with discarded := q.cnt.discarded + 1 } })
  else
    let beats := p.payload.length / 64
    match if p.dcore < (s.partAt p.part).sites.length then s.deliverWho p.part p.dcore else none with
    | none => some (s.park .group p)
    | some who =>
      if ((s.groupNodes who p.daddr).getD []).contains p.src = false then some (s.park .group p)
      else match State.landBeats who p.daddr beats s with
        | (none, s) => some (s.park .group p)
        | (some places, s) =>
          (s.turnsAt p.part (whoCode p.score p.vfn p.visits) (places.map fun x => .mem x.1 x.2)).map fun s =>
          let s := (State.writeBeats p.part p.gen p.mark places p.payload s).meshDown ⟨p.part, p.dcore⟩ (.packet beats)
          let s := if p.msg then
              let q := s.rxQueue p.part p.dcore
              s.setRx p.part p.dcore (if q.hdrs.length < 16 then { q with hdrs := q.hdrs ++ [{ p with pc := if p.code.isSome then 0 else p.pc }] } else { q with ovf := true })
            else s
          s.addBead p.part p.dcore p.dbead

/-! ### Lanes (R242, R246) -/

def State.laneJob (s : State) (n : Nat) : Option LaneJob := Sparse.get none s.xr.lanes n
def State.setLane (n : Nat) (j : Option LaneJob) (s : State) : State := s.onXr fun x => { x with lanes := Sparse.set none x.lanes n j }
def State.baySlot (s : State) (n : Nat) : Option ParkSlot := Sparse.get none s.xr.bay n
def State.setBay (n : Nat) (j : Option ParkSlot) (s : State) : State := s.onXr fun x => { x with bay := Sparse.set none x.bay n j }

/-- The first free lane of the 64. -/
def State.freeLane (s : State) : Option Nat := (List.range 64).find? fun n => (s.laneJob n).isNone

/-- Whether an errand class of a partition is permitted here (R243). -/
def State.permits (s : State) (part cls : Nat) : Bool := (s.limits part).emask.toNat / 2 ^ cls % 2 == 1

/-- A packet takes a lane: the slot it was resumed from is freed; away from SRC the REMOTE class is checked before its first
instruction (R243, R250). A clone starts past the last instruction when its CLONE stood at index 15. -/
def State.enterLane (n : Nat) (j : LaneJob) (s : State) : State :=
  let s := match j.fromSlot with
    | some k => s.setBay k none
    | none => s
  if j.pkt.src ≠ s.mgmt.node ∧ s.permits j.pkt.part 14 = false ∧ j.pkt.nv = false then s.park .forbid j.pkt
  else if 16 ≤ j.pkt.pc then s.park .endcode { j.pkt with pc := 0 }
  else s.setLane n (some j)

/-- Waiting packets take free lanes in arrival order (R242). -/
def State.fillLanes : Nat → State → State
  | 0, s => s
  | n + 1, s =>
    match s.xr.waiting, s.freeLane with
    | j :: rest, some k =>
      (match s.choose 3 j.pkt.part k (whoCode j.pkt.score j.pkt.vfn j.pkt.visits) with
        | some s => State.fillLanes n ((s.onXr fun x => { x with waiting := rest }).enterLane k j)
        | none => s)
    | _, _ => s
/-- Every waiting packet that a free lane can take takes one. -/
def State.giveLanes (s : State) : State := State.fillLanes s.xr.waiting.length s
/-- A packet joins the lanes' queue; a free choice says whether a lane takes it at once. -/
def State.queueLane (j : LaneJob) (s : State) : State :=
  let s := s.onXr fun x => { x with waiting := x.waiting ++ [j] }
  if s.pick 9 2 = 0 then s.giveLanes else s

/-- A visit ends: its lane is free, its clones wait for a lane (R246). -/
def State.endVisit (s : State) : State :=
  match s.laneJob s.lane with
  | none => s
  | some j =>
    let s := (s.setLane s.lane none).onXr fun x => { x with waiting := x.waiting ++ j.clones.map fun p => ⟨p, [], none⟩ }
    s.giveLanes
/-- The packet on the lane parks, which ends its visit. -/
def State.parkLane (r : ParkReason) (p : Packet) (s : State) : State := (s.endVisit).park r p

end Sys2Proof.Machine
end

