-- ==== Sys2Proof/Machine/PacketWords.lean ====
section
/-! DEFINITION. The words of P (R234 to R241, R249, R250), and the checks of a collective's block (R300, R301). -/

namespace Sys2Proof.Machine

/-! ### PST and the accesses of P -/

/-- PST (R236). -/
def pstWord (value slot reason : Nat) (ovf : Bool) (status : Nat) : W64 :=
  BitVec.ofNat 64 (value % 2 ^ 32 * 2 ^ 32 + slot % 256 * 2 ^ 24 + reason % 256 * 2 ^ 16 + flagBit ovf 8 + status)
def State.myRx (s : State) : RxQueue := s.rxQueue s.core.place.part s.core.place.num
def State.setPst (value slot reason status : Nat) (s : State) : State :=
  s.onRegs fun r => { r with pst := pstWord value slot reason s.myRx.ovf status }

/-- ILLEGAL in P with a check code, found at execution (R252). -/
def pIllegal (slot pslot check : Nat) (s : State) : WordRes := .fault s .illegal (pStatus slot pslot check 1 s) 0 []

/-- An access of P of 2^lg bytes, class 0 (R235). -/
def State.pAccess (wr rd : Bool) (align lg slot pslot : Nat) (ea : W64) (k : Nat → Nat → State → WordRes) (s : State)
    (bs : List Byte := []) : WordRes :=
  s.access .home wr rd true align lg 0 (fun step s => pStatus slot pslot 0 (min step 3) s) ea (fun _ l s =>
    match l with
    | .mem hpa frame => (match s.turnAt s.core.place.part (s.accessWho 0) l with
      | some s => k hpa frame (s.ringAsk s.core.id hpa (2 ^ lg) bs)
      | none => .stall .port)
    | .win .. => .fault s .permission (pStatus slot pslot 0 2 s) ea [])

/-! ### PBUILD and PSEND (R237, R238) -/

/-- Whether a template breaks R237. -/
def templateBad (b : List Byte) : Bool :=
  let z (i n : Nat) : Bool := leAt b i n == 0
  let at8 (i : Nat) : Nat := leAt b i 1
  let plen := at8 0x32 % 16
  !(decide (leAt b 0 2 < 0x1000) && z 2 2 && decide (at8 4 < 4) && z 5 1 && z 6 1 && z 7 1 && z 8 4 && z 0xC 1 && z 0xE 1)
    || at8 4 % 4 == 0 || at8 0xF / 2 % 8 != 0 || at8 0xF / 32 != 0 || decide (4 < at8 0x30) || at8 0x31 / 16 != 0
    || decide (8 < plen) || !z 0x33 1 || !z 0x34 2 || decide (0x2000 ≤ leAt b 0x36 2)
    || leAt b 0x38 8 % 64 != 0 || decide (2 ^ 57 ≤ leAt b 0x38 8)
    || (plen != 0 && (leAt b 96 8 % 64 != 0 || decide (2 ^ 57 ≤ leAt b 96 8))) || !z 104 24

/-- The packet of a template, its hardware fields filled (R237). -/
def State.fromTemplate (s : State) (b : List Byte) (m : Mark) : Staged :=
  let w (i k : Nat) : W32 := BitVec.ofNat 32 (leAt b (i + 4 * k) 4)
  let p : Packet :=
    { dst := leAt b 0 2, src := s.mgmt.node, tc := leAt b 4 1 % 4, vc := 0, esc := false, part := s.core.place.part,
      vfn := s.core.place.vf, mark := m, budget := leAt b 0xD 1, visits := 0, clone := false, cld := 0,
      msg := leAt b 0xF 1 / 16 % 2 == 1, w := Vector.ofFn fun i => w 0x10 i.val, places := Vector.ofFn fun i => w 0x20 i.val,
      sp := leAt b 0x30 1 % 8, pc := leAt b 0x31 1 % 16, next := 0, nv := false, came := 6, nbead := leAt b 0x32 1 / 16,
      gen := s.gen, score := s.core.place.num, dcore := leAt b 0x36 2 % 512, dbead := leAt b 0x36 2 / 512 % 16,
      daddr := BitVec.ofNat 64 (leAt b 0x38 8),
      code := if leAt b 0xF 1 % 2 = 1 then some (codeOf (b.drop 64)) else none, payload := [] }
  ⟨p, leAt b 0x32 1 % 16, BitVec.ofNat 64 (leAt b 96 8)⟩

/-- Whether a PSEND that the port has accepted still holds a staging slot (R237). -/
def Core.holdsSlot (slot : Fin 8) (c : Core) : Bool := c.port.pend.any fun p => p.ops.any fun m => match m with
  | .send n _ _ _ => n == slot
  | _ => false
/-- PBUILD (R237). -/
def pbuildBody (ka : KR) (slot : Fin 8) (s : State) : WordRes :=
  let kp := s.kp ka
  if s.core.holdsSlot slot then .stall .port
  else s.pAccess false true 128 7 slot.val 0 kp.val (fun hpa frame s =>
    let b := s.seen s.core.place.part hpa 128
    let t := s.fromTemplate b ((s.pageMark frame).union kp.mark)
    let s := s.afterRead s.core.place.part hpa 128
    if templateBad b then pIllegal slot.val 0 3 s
    else .done (s.onWaits fun w => { w with stage := w.stage.set slot (some t) }))
def execPbuild (w g : Tok) (ka : KR) (slot : Fin 8) (s : State) : Out := runShort w g (needK (pbuildBody ka slot)) s

/-- Where consecutive beats from an address lie, each checked as an access of P (R235). -/
def findBeats (slot : Nat) : Nat → W64 → List (Nat × Nat) → (List (Nat × Nat) → State → WordRes) → State → WordRes
  | 0, _, l, k, s => k l s
  | n + 1, ea, l, k, s =>
    s.access .home false false false 64 6 0 (fun step s => pStatus slot 0 0 (min step 3) s) ea (fun _ x s => match x with
      | .mem hpa frame => findBeats slot n (ea + 64) (l ++ [(hpa, frame)]) k s
      | .win .. => .fault s .permission (pStatus slot 0 0 2 s) ea [])

/-- PSEND: the port accepts the send once its beats have been found; it reads them, hands the packet over and releases the slot afterwards
(R19, R234, R238; log entry 121). -/
def psendBody (bc : BcR) (ben : Bool) (slot : Fin 8) (s : State) : WordRes :=
  match s.core.waits.stage[slot] with
  | none => pIllegal slot.val 0 4 s
  | some t =>
    findBeats slot.val t.beats t.payaddr [] (fun l s =>
      .done (s.onPort fun p => { p with
        pend := p.pend ++ [⟨.p, 0, s.gen, none, [.send slot t.pkt (if ben then some bc else none) l], 0, Mark.empty, false⟩] })) s
def execPsend (w g : Tok) (bc : BcR) (ben : Bool) (slot : Fin 8) (s : State) : Out := runShort w g (psendBody bc ben slot) s

/-! ### Bead counters and headers (R239, R240) -/

def State.myBead (s : State) (n : BcR) : W32 := s.bead s.core.place.part s.core.place.num n.val
/-- PCOUNT.WAIT with its target (R239). -/
def pcountWaitBody (bc : BcR) (t : W32) (s : State) : WordRes := if (s.myBead bc).ult t then .stall .bead else .done s
def execPcountWait (w g : Tok) (ka : KR) (bc : BcR) (s : State) : Out :=
  runShort w g (needK fun s => pcountWaitBody bc (s.k ka).val s) s
def execPcountWaitImm (w g : Tok) (bc : BcR) (t : W32) (s : State) : Out := runLong w g (pcountWaitBody bc t) s

/-- PCOUNT.RD: with CLR the value read is subtracted at once (R239). -/
def pcountRdBody (bc : BcR) (clr : Bool) (s : State) : WordRes :=
  let v := s.myBead bc
  let s := s.setPst v.toNat 0xFF 0 0
  .done (if clr then s.onXr fun x =>
    { x with beads := Sparse.set 0 x.beads (beadKey s.core.place.part s.core.place.num bc.val) 0 } else s)
def execPcountRd (w g : Tok) (bc : BcR) (clr : Bool) (s : State) : Out := runShort w g (pcountRdBody bc clr) s

/-- PRECV (R240). -/
def precvBody (ka : KR) (s : State) : WordRes :=
  match s.myRx.hdrs with
  | [] => .stall .bead
  | h :: rest =>
    s.pAccess true false 64 6 0 0 (s.kp ka).val (fun hpa frame s =>
      let s := s.writeData s.core.place.part s.gen .plain hpa frame h.header h.mark
      let s := s.setPst 0 0xFF 0 0
      .done (s.setRx s.core.place.part s.core.place.num ⟨rest, false⟩)) h.header
def execPrecv (w g : Tok) (ka : KR) (s : State) : Out := runShort w g (needK (precvBody ka)) s

/-! ### Collective blocks (R300, R301) -/

/-- Whether a format may be named for an operation (R301). -/
def dtypeOk (op red dtype : Nat) : Bool :=
  match op with
  | 0 | 1 | 4 => dtype == 0 || dtype == 7 || (red == 0 && dtype == 9)
  | 2 | 3 | 5 => decide (dtype < 10)
  | _ => dtype == 0

/-- Whether the fields of a block break R301, the group left aside. -/
def blockBad (b : List Byte) : Bool :=
  let at8 (i : Nat) : Nat := leAt b i 1
  let op := at8 0
  let algo := at8 3 % 8
  let fb := at8 3 / 16 % 8
  let red := at8 2
  let slots := at8 4
  let moves := op == 2 || op == 3 || op == 5 || op == 6
  let needsSlots (a : Nat) : Bool := a == 3 || a == 4
  decide (6 < op) || decide (15 < at8 1) || decide (2 < red) || (moves && red != 0) || at8 3 / 8 % 2 != 0 || at8 3 / 128 != 0
    || decide (4 < algo) || decide (4 < fb) || decide (64 < slots) || decide (15 < at8 5) || !dtypeOk op red (at8 1)
    || ((needsSlots algo || needsSlots fb) && slots == 0) || (op != 1 && op != 2 && leAt b 6 2 != 0)
    || decide (2 ^ 40 ≤ leAt b 0x20 8) || !(b.drop 0x30).all (· == 0)
    || leAt b 0x10 8 % 256 != 0 || leAt b 0x18 8 % 256 != 0
    || (op == 6 && (leAt b 0x10 8 != 0 || leAt b 0x18 8 != 0 || leAt b 0x20 8 != 0))

/-- A block as the engine keeps it. -/
def parseBlock (b : List Byte) (ticket : W32) (key : CollKey) (core : CoreId) (addr : W64) (nodes : List Nat) : CollBlock :=
  { ticket := ticket, key := key, core := core, addr := addr, op := leAt b 0 1, dtype := leAt b 1 1 % 16, red := leAt b 2 1 % 4,
    algo := leAt b 3 1 % 8, fallback := leAt b 3 1 / 16 % 8, nslot := leAt b 4 1, bead := leAt b 5 1 % 16, root := leAt b 6 2,
    group := BitVec.ofNat 64 (leAt b 8 8), members := nodes, send := BitVec.ofNat 64 (leAt b 0x10 8),
    recv := BitVec.ofNat 64 (leAt b 0x18 8), count := leAt b 0x20 8 }

/-- A collective as it stands when accepted. -/
def Coll.fresh (b : CollBlock) : Coll :=
  { blk := b, planned := false, algo := b.algo, fellBack := false, bookings := [], booked := [], pos := 0, step := 0, begun := false, work := [], finished := [],
    misses := [], outcome := none }

/-- What the other members learn of a block (R302). -/
def CollBlock.posted (node : Nat) (b : CollBlock) : PeerBlock :=
  { node := node, key := b.key, op := b.op, dtype := b.dtype, red := b.red, algo := b.algo, fallback := b.fallback,
    nslot := b.nslot, root := b.root, count := b.count }

/-- A collective changed, wherever it stands in its function's queue. -/
def State.onCollKey (k : CollKey) (f : Coll → Coll) (s : State) : State :=
  s.setVf k.vfn fun v => { v with colls := v.colls.map fun c => if c.blk.key = k then f c else c }
def State.collAt (s : State) (k : CollKey) : Option Coll := (s.vfAt k.vfn).colls.find? fun c => c.blk.key == k
/-- Whether a collective's block has been posted here and has ended. -/
def State.collGone (s : State) (k : CollKey) : Bool := (s.collAt k).isNone && decide (k.seq < Sparse.get 0 (s.vfAt k.vfn).posted k.group)
/-- The collective a note is about. -/
def Note.coll : Note → Option CollKey
  | .failed k _ | .booked k _ _ | .replan k | .finished k _ | .alive k _ => some k
  | _ => none
/-- What a note does to the collective it is about: a failure ends it the same way (R299, R306), a reservation stands, the fallback is taken before the
first step (R298), a member has done what is its own (R304, R306), the first step has been issued. -/
def Coll.heed (n : Note) (c : Coll) : Coll :=
  match n with
  | .failed _ o => if c.outcome.isNone then { c with outcome := some o } else c
  | .booked _ p h => { c with booked := (p, h) :: c.booked }
  | .replan _ => if c.fellBack then c else { c with planned := false, fellBack := true, algo := c.blk.fallback, booked := [], pos := 0 }
  | .finished _ m => { c with finished := m :: c.finished }
  | .alive _ step => { c with begun := c.begun || step }
  | _ => c
/-- What other members told of a collective before its block was posted here. -/
def State.heedEarly (k : CollKey) (s : State) : State :=
  let mine := s.coll.early.filter fun n => n.coll == some k
  mine.foldl (fun s n => s.onCollKey k (Coll.heed n)) (s.onColl fun c => { c with early := c.early.filter fun n => n.coll != some k })

/-- Whether every earlier access of S, A and P of the core has performed (R241, R261). -/
def State.allPerformed (s : State) : Bool :=
  s.core.port.pend.isEmpty && s.core.port.carry.isEmpty && !(s.gran.mcasts.any fun m => m.src == s.core.id)

/-- The group window of a collective, and which group it names: the window's page (R333). -/
def State.groupOf (who : Who) (addr : W64) (s : State) : Except TrErr (Option (List Nat)) × State :=
  match s.translate who .group false addr with
  | (.ok (.rows _ _ nodes _), s) => (.ok (some nodes), s)
  | (.ok _, s) => (.ok none, s)
  | (.error e, s) => if e.cause = .permission then (.ok none, s) else (.error e, s)

/-- PCOLL once its block is read (R241, R301): its GROUP is translated before its fields are checked (log entry 109), and only a block that is accepted is written to. The other members are told of it (R302). -/
def pcollBlock (ea : W64) (b : List Byte) (s : State) : WordRes :=
  let grp : W64 := BitVec.ofNat 64 (leAt b 8 8)
  match s.groupOf s.who grp with
  | (.error e, s) => .fault s e.cause (pStatus 0 0 0 (if e.cause = .integrity then 3 else 2) s) grp (e.misses grp false false)
  | (.ok none, s) => .done (s.setPst 0 0xFF 0 5)
  | (.ok (some nodes), s) =>
    let vf := s.core.place.vf
    if blockBad b || decide (nodes.length ≤ leAt b 6 2) then .done (s.setPst 0 0xFF 0 5)
    else if Config.collDepth ≤ (s.vfAt vf).colls.length then .done (s.setPst 0 0xFF 0 4)
    else s.pAccess true false 8 3 0 0 (ea + 0x28) (fun hpa frame s =>
      let g := groupKey nodes
      let t := (s.vfAt vf).ticket
      let n := Sparse.get 0 (s.vfAt vf).posted g
      let blk := parseBlock b t ⟨s.core.place.part, vf, g, n⟩ s.core.id ea nodes
      let s := s.writeData s.core.place.part s.gen .plain hpa frame (natLe 0xFF 8) Mark.empty
      let s := s.setVf vf fun v => { v with ticket := v.ticket + 1, posted := Sparse.set 0 v.posted g (n + 1), colls := v.colls ++ [Coll.fresh blk] }
      let s := (s.heedEarly blk.key).tellAll (nodes.filter fun n => n != s.mgmt.node) (.posted (blk.posted s.mgmt.node))
      .done (s.setPst t.toNat 0xFF 0 0)) (natLe 0xFF 8)
/-- PCOLL (R241). -/
def pcollBody (ka : KR) (s : State) : WordRes :=
  let ea := (s.kp ka).val
  if !s.allPerformed then .stall .port
  else s.pAccess false true 128 7 0 0 ea (fun hpa _ s => pcollBlock ea (s.seen s.core.place.part hpa 128) (s.afterRead s.core.place.part hpa 128))
def execPcoll (w g : Tok) (ka : KR) (s : State) : Out := runShort w g (needK (pcollBody ka)) s

/-! ### The park bay (R249 to R251) -/

/-- Whether a parked packet belongs to the function of the core that moves. -/
def State.ownsPark (s : State) (p : Packet) : Bool := p.part == s.core.place.part && p.vfn == s.core.place.vf
/-- The occupied slots of the function. -/
def State.parkCount (s : State) : Nat :=
  (s.xr.bay.filter fun kv => match kv.2 with
    | some x => s.ownsPark x.p.pkt
    | none => false).length
/-- A slot as a word names it: a stale one is discarded (R251). -/
def State.nameSlot (slot : Nat) (s : State) : Option ParkSlot × State :=
  match s.baySlot slot with
  | none => (none, s)
  | some x =>
    if x.p.pkt.gen ≠ (s.partAt x.p.pkt.part).gen then (none, s.setBay slot none)
    else if s.ownsPark x.p.pkt then (some x, s) else (none, s)
/-- The oldest slot of this core whose record has not been read. -/
def State.oldestPark (s : State) : Option Nat :=
  (s.xr.bay.foldl (fun (best : Option (Nat × Nat)) kv => match kv.2 with
    | some x =>
      if s.ownsPark x.p.pkt && x.p.pkt.score == s.core.place.num && !x.read.contains s.core.place.num
          && x.p.pkt.gen == (s.partAt x.p.pkt.part).gen then
        (match best with
          | some b => if b.2 ≤ x.order then best else some (kv.1, x.order)
          | none => some (kv.1, x.order))
      else best
    | none => best) none).map Prod.fst

/-- The 128 bytes of a park record (R249). -/
def parkRecord (p : ParkedPkt) : List Byte :=
  p.pkt.header ++ p.pkt.codeBlock ++ natLe p.reason.code 1 ++ natLe p.reason.user8 1 ++ natLe p.node 2 ++ natLe p.gcc.toNat 4
    ++ List.replicate 24 0

/-- A park record read out of a slot, for a word that names a slot or 0xFF. -/
def pparkRead (ka : KR) (named slot : Nat) (s : State) : WordRes :=
  match s.nameSlot slot with
  | (none, s) => .done (s.setPst s.parkCount slot 0 2)
  | (some x, s) =>
    if x.busy then .done (s.setPst s.parkCount slot x.p.reason.code 3)
    else s.pAccess true false 128 7 0 named (s.kp ka).val (fun hpa frame s =>
      let s := s.writeData s.core.place.part s.gen .plain hpa frame (parkRecord x.p) x.p.pkt.mark
      .done ((s.setBay slot (some { x with read := s.core.place.num :: x.read })).setPst s.parkCount slot x.p.reason.code 0))
      (parkRecord x.p)
/-- PPARK.RD (R249): the address is checked before the slot, as far as R129 checks it without translating. -/
def pparkRdBody (ka : KR) (slot : BitVec 8) (s : State) : WordRes :=
  let n := slot.toNat
  if 63 < n ∧ n ≠ 0xFF then pIllegal 0 n 2 s
  else if 2 ^ 57 ≤ (s.kp ka).val.toNat ∨ (s.kp ka).val.toNat % 128 ≠ 0 then
    s.pAccess true false 128 7 0 n (s.kp ka).val fun _ _ s => .done s
  else if n = 0xFF then
    (match s.oldestPark with
      | none => .done (s.setPst s.parkCount 0xFF 0 1)
      | some k => pparkRead ka n k s)
  else pparkRead ka n n s
def execPparkRd (w g : Tok) (ka : KR) (slot : BitVec 8) (s : State) : Out := runShort w g (needK (pparkRdBody ka slot)) s

/-- A packet resumed from a slot, as if its core had sent it: with code it queues for a lane as a new visit and the slot stays busy until it has
one; without code it goes on its way at once (R230, R250, R242). -/
def State.reinject (slot : Nat) (x : ParkSlot) (p : Packet) (s : State) : State :=
  if p.code.isSome then
    (s.setBay slot (some { x with busy := true })).queueLane ⟨{ p with visits := min 255 (p.visits + 1), nv := false }, [], some slot⟩
  else (s.setBay slot none).onXr fun y => { y with arrived := y.arrived ++ [p] }

/-- PRESUME: its options and its W image, if any (R250). VALUE counts the slots before the packet leaves its own (log entry 111). -/
def presumeBody (slot : BitVec 8) (addb : Nat) (npc : Option Nat) (img : Option KR) (s : State) : WordRes :=
  let n := slot.toNat
  if 63 < n then pIllegal 0 n 2 s
  else match s.nameSlot n with
    | (none, s) => .done (s.setPst s.parkCount n 0 2)
    | (some x, s) =>
      if x.busy then .done (s.setPst s.parkCount n x.p.reason.code 3)
      else
        let p := { x.p.pkt with budget := min 255 (x.p.pkt.budget + addb), pc := npc.getD x.p.pkt.pc, came := 6 }
        let fin (p : Packet) (s : State) : WordRes := .done ((s.reinject n x p).setPst s.parkCount n x.p.reason.code 0)
        match img with
        | none => fin p s
        | some ka =>
          s.pAccess false true 16 4 0 n (s.kp ka).val (fun hpa frame s =>
            let b := s.seen s.core.place.part hpa 16
            fin { p with w := Vector.ofFn fun i => BitVec.ofNat 32 (leAt b (4 * i.val) 4), mark := p.mark.union (s.pageMark frame) }
              (s.afterRead s.core.place.part hpa 16))
def execPresume (w g : Tok) (slot : BitVec 8) (s : State) : Out := runShort w g (presumeBody slot 0 none none) s
def execPresumeOptions (w g : Tok) (ka : KR) (slot : BitVec 8) (addb : BitVec 8) (npc : Fin 16) (newpc loadw : Bool) (s : State) : Out :=
  let body := presumeBody slot addb.toNat (if newpc then some npc.val else none) (if loadw then some ka else none)
  runLong w g (if loadw then needK body else body) s

/-- PDROP (R250). -/
def pdropBody (slot : BitVec 8) (s : State) : WordRes :=
  let n := slot.toNat
  if 63 < n then pIllegal 0 n 2 s
  else match s.nameSlot n with
    | (none, s) => .done (s.setPst s.parkCount n 0 2)
    | (some x, s) =>
      if x.busy then .done (s.setPst s.parkCount n x.p.reason.code 3)
      else .done ((s.setBay n none).setPst (s.setBay n none).parkCount n x.p.reason.code 0)
def execPdrop (w g : Tok) (slot : BitVec 8) (s : State) : Out := runShort w g (pdropBody slot) s

end Sys2Proof.Machine
end

