-- ==== Sys2Proof/Machine/TensorOps.lean ====
section
/-! DEFINITION. The layout unit: tensor table, shape records, boundary tables, tile tables, and where the rows of a block lie
(R157, R158, R270 to R278). -/

namespace Sys2Proof.Machine

/-! ### Steps of an A word that may stop -/

/-- Why an A word cannot go on: a fault, a poisoned line (R414), or an accepted access to the same line that has still to be applied
(R258), as well as a read that a replay holds back (R417). -/
inductive AStop
  | fault (cause : Cause) (step : Nat) (addr : W64) (tens : Bool) (tid : Nat) (pages : List PageMiss)
  | poison (hpa : Nat)
  | busy
deriving DecidableEq, Repr

/-- A step that may stop. -/
abbrev Try (α : Type) := State → Except AStop α × State
def tryRet {α : Type} (a : α) : Try α := fun s => (.ok a, s)
def tryStop {α : Type} (e : AStop) : Try α := fun s => (.error e, s)
def tryThen {α β : Type} (x : Try α) (f : α → Try β) : Try β := fun s => match x s with
  | (.ok a, s) => f a s
  | (.error e, s) => (.error e, s)
/-- A step for every element, in order. -/
def tryAll {α β : Type} (f : α → Try β) : List α → Try (List β)
  | [] => tryRet []
  | a :: l => tryThen (f a) fun b => tryThen (tryAll f l) fun bs => tryRet (b :: bs)

/-- The STEP code of a translation's failure (R181). -/
def TrErr.step (e : TrErr) : Nat := match e.stage with
  | 0 => 1
  | 1 => 2
  | 2 => 3
  | 8 => 5
  | _ => 7
/-- A flat fault without a page record, and ILLEGAL found at execution. -/
def flatFault {α : Type} (cause : Cause) (step : Nat) (addr : W64) : Try α := tryStop (.fault cause step addr false 0 [])
def aIllegal {α : Type} (step : Nat) : Try α := flatFault .illegal step 0
/-- A stop as the word's result: the tag and class of the word go into the status (R181). -/
def AStop.res (t : Nat) (c : Nat) (s : State) : AStop → WordRes
  | .fault cause step addr tens tid pages => .fault s cause (aStatus 0 tid 0 t c (if tens then 1 else 0) step s) addr pages
  | .poison h => s.readPoison h
  | .busy => .stall .port
/-- A word whose steps may stop. -/
def runTry {α : Type} (t c : Nat) (x : Try α) (k : α → State → WordRes) (s : State) : WordRes := match x s with
  | (.ok a, s) => k a s
  | (.error e, s) => e.res t c s

/-- Whether an accepted access to one of the lines has still to be applied. -/
def State.lineBusy (s : State) (keys : List Nat) : Bool :=
  s.core.port.pend.any fun p => p.ops.any fun m => m.keys.any keys.contains

/-- A read of memory by the port for a table or record: the bytes and their page's earmark. -/
def readTable (va : W64) (n : Nat) : Try (List Byte × Mark) := fun s =>
  match s.translate s.who .home false va with
  | (.error e, s) => (.error (.fault e.cause e.step va false 0 (e.misses va false false)), s)
  | (.ok (.mem hpa frame _ _), s) =>
    if s.lineBusy (linesOf hpa n) then (.error .busy, s)
    else if s.badBlock s.core.place.part hpa n then (.error (.fault .integrity 5 va false 0 []), s)
    else if s.poisoned hpa n then (.error (.poison hpa), s)
    else match s.turnAt s.core.place.part (s.accessWho 0) (.mem hpa frame) with
      | some s => (.ok (s.seen s.core.place.part hpa n, s.pageMark frame), s.afterRead s.core.place.part hpa n)
      | none => (.error .busy, s)
  | (.ok _, s) => (.error (.fault .permission 7 va false 0 []), s)

/-! ### The tensor table and the shape record (R270 to R273) -/

/-- Whether an entry breaks R271, VALID aside; whether a record breaks R272 or R273. -/
def entryBad (b : List Byte) : Bool :=
  leAt b 0x14 4 / 2 != 0 || leAt b 0x18 8 != 0 || leAt b 0 8 % 64 != 0 || leAt b 8 8 % 8 != 0 || decide (2 ^ 57 ≤ leAt b 0 8)
    || decide (2 ^ 57 ≤ leAt b 8 8)
def recordExt (r : List Byte) (d : Nat) : Nat := leAt r (8 + 4 * d) 4
def recordBad (r : List Byte) : Bool :=
  let rank := leAt r 5 1
  let ragged := leAt r 7 1 % 2 == 1
  decide (9 < leAt r 4 1) || rank == 0 || decide (4 < rank) || leAt r 6 1 == 0 || decide (128 < leAt r 6 1) || leAt r 7 1 / 2 != 0
    || !(r.drop 0x28).all (· == 0) || (List.range 4).any (fun d => rank ≤ d && recordExt r d != 0)
    || (if ragged then recordExt r 0 != 0 || decide (0xFFFFFF < leAt r 0x1C 4) || leAt r 0x20 8 % 256 != 0
        else leAt r 0x1C 4 != 0 || leAt r 0x20 8 != 0 || (leAt r 0x18 4 != 0 && decide (leAt r 0x18 4 < recordExt r 0)))
def tensorOf (tid : Nat) (b r : List Byte) (m : Mark) : Tensor :=
  { tid := tid, fmt := leAt r 4 1, rank := leAt r 5 1, brows := leAt r 6 1, ragged := leAt r 7 1 % 2 == 1,
    ext := (List.range 4).map (recordExt r), pitch0 := leAt r 0x18 4, nseg := leAt r 0x1C 4, btab := leAt r 0x20 8,
    ttab := leAt b 8 8, ntile := leAt b 0x10 4, mark := m }

/-- The cached shape of a tensor. -/
def State.shape (s : State) (tid : Nat) : Option ShapeEntry := s.core.port.shapes.find? fun e => e.tid == tid
/-- A shape cached; the sixteen places are taken as the free choice says (R162). -/
def State.addShape (e : ShapeEntry) (s : State) : State :=
  s.onPort fun p => { p with shapes :=
    e :: (if Config.shapeCount ≤ p.shapes.length then p.shapes.eraseIdx (s.pick 4 p.shapes.length) else p.shapes) }
def State.onShape (tid : Nat) (f : ShapeEntry → ShapeEntry) (s : State) : State :=
  s.onPort fun p => { p with shapes := p.shapes.map fun e => if e.tid = tid then f e else e }

/-- The page event of a STAGE1 fault of the tensor path: its record has LEVEL 0 (R344). -/
def tableEvent (va : W64) (write tens : Bool) : List PageMiss := [⟨true, 0, va, write, false, tens, 0, va.toNat / 4096⟩]

/-- The tensor-table entry of a TID, with the earmark of its page: from the cached shape, or from memory (R270, R271). -/
def getEntry (tid : Nat) : Try (List Byte × Mark) := fun s =>
  let ttb := s.core.regs.ttbA
  if fld ttb 0 1 = 0 then (.error (.fault .stage1 2 0 false 0 (tableEvent 0 false false)), s)
  else match s.shape tid with
    | some e => (.ok (e.entry, e.mark), s)
    | none =>
      let ea : W64 := BitVec.ofNat 64 (fld ttb 13 44 * 2 ^ 13 + 32 * tid)
      tryThen (readTable ea 32) (fun (b, m) =>
        if leAt b 0x14 4 % 2 = 0 then tryStop (.fault .stage1 2 ea false 0 (tableEvent ea false false))
        else tryRet (b, m)) s
/-- The tensor whose entry has been read: its record from the cache, or from memory (R162, R272, R273). -/
def getRecord (tid : Nat) (b : List Byte) (m1 : Mark) : Try Tensor := fun s =>
  match s.shape tid with
  | some e => (.ok (tensorOf tid e.entry e.record e.mark), s)
  | none =>
    (if entryBad b then aIllegal 2
      else tryThen (readTable (BitVec.ofNat 64 (leAt b 0 8)) 64) fun (r, m2) =>
        if recordBad r then aIllegal 2
        else fun s => (.ok (tensorOf tid b r (m1.union m2)), s.addShape ⟨tid, b, r, [], [], m1.union m2⟩)) s
/-- The tensor of a TID (R162, R270 to R273). -/
def getTensor (tid : Nat) : Try Tensor := tryThen (getEntry tid) fun (b, m) => getRecord tid b m
/-- A port reads the record of a tensor of the text that A walks ahead of the copy that needs it, and keeps it in its cache; an error is left to the
copy (R278, R312; log entry 97). -/
def State.readAhead (c : CoreId) (tid : Nat) (s : State) : State :=
  match s.focus c with
  | none => s
  | some f =>
    if f.core.place.run != .running || decide (256 ≤ tid) then s
    else match getTensor tid { f with act := .a } with
      | (.ok _, t) => { t with act := s.act }
      | (.error _, _) => s
/-- The tensors of two TIDs: both entries are read, and then the records (R157). -/
def getTensors (tid tid2 : Nat) : Try (Tensor × Tensor) :=
  tryThen (getEntry tid) fun (b, m) => tryThen (getEntry tid2) fun (b2, m2) =>
    tryThen (getRecord tid b m) fun t => tryThen (getRecord tid2 b2 m2) fun u => tryRet (t, u)

/-! ### The boundary table (R275, R276) -/

/-- The number of windows a port caches in all. -/
def State.windowsHeld (s : State) : Nat := (s.core.port.shapes.map fun e => e.windows.length).foldl (· + ·) 0
/-- A window cached with its record; a full cache first drops the windows of the oldest record. -/
def State.addWindow (tid w : Nat) (b : List Byte) (m : Mark) (s : State) : State :=
  let s := if Config.windowCount ≤ s.windowsHeld then
      (match s.core.port.shapes.reverse.find? fun e => !e.windows.isEmpty with
        | some e => s.onShape e.tid fun x => { x with windows := [] }
        | none => s)
    else s
  s.onShape tid fun e => { e with windows := e.windows ++ [(w, b, m)] }

/-- B[i] with the earmark of its page. -/
def boundary (t : Tensor) (i : Nat) : Try (Nat × Mark) := fun s =>
  match (s.shape t.tid).bind fun e => e.windows.find? fun w => w.1 == i / 64 with
  | some (_, b, m) => (.ok (leAt b (4 * (i % 64)) 4, m), s)
  | none =>
    let at_ := t.btab + 256 * (i / 64)
    tryThen (readTable (BitVec.ofNat 64 (at_ + (i % 64) / 32 * 128)) 128) (fun (line, m) s =>
      let v := leAt line (4 * (i % 32)) 4
      match readTable (BitVec.ofNat 64 at_) 256 s with
      | (.ok (b, m2), s) => (.ok (v, m), s.addWindow t.tid (i / 64) b m2)
      | (.error _, _) => (.ok (v, m), s)) s

/-- The bisection of R276 between two entries already read: the value of the largest entry at or below c0 and of the one after it;
none when what was read contradicts R275. -/
def segSearch (t : Tensor) (c0 : Nat) : Nat → Nat → Nat → Nat → Nat → Mark → Try (Option (Nat × Mark))
  | 0, _, _, _, vhi, m => tryRet (some (vhi, m))
  | n + 1, lo, hi, vlo, vhi, m =>
    if hi ≤ lo + 1 then tryRet (some (vhi, m))
    else
      let mid := (lo + hi) / 2
      tryThen (boundary t mid) fun (v, m2) =>
        if v < vlo ∨ vhi < v then tryRet none
        else if v ≤ c0 then segSearch t c0 n mid hi v vhi (m.union m2)
        else segSearch t c0 n lo mid vlo v (m.union m2)

/-! ### From coordinates to rows (R158, R277) -/

/-- ADDR in tensor form, of a linear row and of a whole tile (R161). -/
def tensorForm (tid : Nat) (tile : Int) (off : Nat) : W64 :=
  BitVec.ofNat 64 (2 ^ 63 + tid % 256 * 2 ^ 55 + (tile % 2 ^ 39).toNat * 2 ^ 16 + off)
def rowForm (tid : Nat) (lin : Int) : W64 := tensorForm tid (lin / 256) ((lin % 256).toNat * 256)

/-- The dimension-0 extent, with the earmark of what was read for it (R275). -/
def extent0 (t : Tensor) : Try (Nat × Mark) :=
  if !t.ragged then tryRet (t.ext.getD 0 0, Mark.empty)
  else if t.nseg = 0 then tryRet (0, Mark.empty)
  else boundary t t.nseg
/-- The linear row of a dimension-0 coordinate (R277). -/
def linearRow (t : Tensor) (c : List Int) (e0 : Nat) (r : Int) : Int :=
  let p0 : Nat := if t.pitch0 = 0 then e0 else t.pitch0
  r + p0 * (c.getD 1 0 + t.ext.getD 1 0 * (c.getD 2 0 + t.ext.getD 2 0 * c.getD 3 0))

/-- BOUNDARY at a row of the block (R181). -/
def boundaryAt {α : Type} (tid : Nat) (lin : Int) : Try α := tryStop (.fault .boundary 6 (rowForm tid lin) true tid [])

/-- The rows of a block whose first row is inside, the segment of that row ending at e; the first row that offends is the one reported, whichever
of the two tests it fails (log entry 112). -/
def rowsFrom (t : Tensor) (c : List Int) (seg : Seg) (c0 e0 e : Nat) : Nat → Nat → Try (List (Option Int))
  | 0, _ => tryRet []
  | n + 1, j =>
    let r := c0 + j
    let lin := linearRow t c e0 r
    let p0 : Nat := if t.pitch0 = 0 then e0 else t.pitch0
    let here : Try (Option Int) :=
      if e0 ≤ r then tryRet none
      else if e ≤ r then (match seg with
        | .segment => tryRet none
        | .strict => boundaryAt t.tid lin)
      else if t.ragged && decide (2 ≤ t.rank) && decide (p0 ≤ r) then boundaryAt t.tid lin
      else tryRet (some lin)
    tryThen here fun x => tryThen (rowsFrom t c seg c0 e0 e n (j + 1)) fun l => tryRet (x :: l)

/-- The block of R158: the linear row of each inside row, none for an outside row, with the earmark of the entries read. -/
def classify (t : Tensor) (c : List Int) (seg : Seg) : Try (List (Option Int) × Mark) :=
  let none_ : List (Option Int) := List.replicate t.brows none
  if (List.range t.rank).any fun d => d != 0 && !decide (0 ≤ c.getD d 0 ∧ c.getD d 0 < t.ext.getD d 0) then
    tryRet (none_, Mark.empty)
  else tryThen (extent0 t) fun (e0, m0) =>
    let c0 := c.getD 0 0
    if c0 < 0 ∨ e0 ≤ c0 then tryRet (none_, m0)
    else if !t.ragged then tryThen (rowsFrom t c seg c0.toNat e0 e0 t.brows 0) fun l => tryRet (l, m0)
    else tryThen (boundary t 0) fun (b0, m1) =>
      let bad : Try (List (Option Int) × Mark) := boundaryAt t.tid (linearRow t c e0 c0)
      if b0 ≠ 0 then bad
      else tryThen (segSearch t c0.toNat 25 0 t.nseg 0 e0 (m0.union m1)) fun r =>
        match r with
        | none => bad
        | some (e, m) => tryThen (rowsFrom t c seg c0.toNat e0 e t.brows 0) fun l => tryRet (l, m)

/-! ### Tiles (R278) -/

/-- The tile-table entry of a tile, with its earmark. -/
def tileEntry (t : Tensor) (tile : Int) (ta : W64) (write : Bool) : Try (W64 × Mark) := fun s =>
  if tile < 0 ∨ t.ntile ≤ tile then (.error (.fault .stage1 2 ta true t.tid (tableEvent ta write true)), s)
  else match (s.shape t.tid).bind fun e => e.tiles.find? fun x => x.1 == tile.toNat with
    | some (_, e, m) => (.ok (e, m), s)
    | none =>
      tryThen (readTable (BitVec.ofNat 64 (t.ttab + 8 * tile.toNat)) 8) (fun (b, m) =>
        let e : W64 := BitVec.ofNat 64 (leNat b)
        if fld e 0 1 = 0 then tryStop (.fault .stage1 2 ta true t.tid (tableEvent ta write true))
        else if fld e 48 16 ≠ 0 ∨ fld e 1 15 ≠ 0 then tryStop (.fault .reservedBit 2 ta true t.tid [])
        else fun s => (.ok (e, m), s.onShape t.tid fun x => { x with tiles := x.tiles ++ [(tile.toNat, e, m)] })) s

/-- Stage 2 of a tile's frame, walked afresh after a denial through a cache (R340), with D set for a write. -/
def State.landFrame (gpa : Nat) (write : Bool) (s : State) : Except TrErr (Nat × S2) × State :=
  let fin (r : Except TrErr (Target × S2) × State) : Except TrErr (Nat × S2) × State := match r with
    | (.ok (_, t), s) => (.ok (t.at gpa, t), if write then s.setDirty s.who.vf t else s)
    | (.error e, s) => (.error e, s)
  match s.landMem s.who gpa write true with
  | (.error e, s) =>
    if e.cause = .permission then
      let s := s.onCore (Core.dropTc fun x => x.s2only && x.vf == s.who.vf && decide (x.base ≤ gpa ∧ gpa < x.base + x.size))
      fin (State.landMem { s.who with cached := false } gpa write true s)
    else (.error e, s)
  | r => fin r

/-- Where a row or a whole tile lies: its address, the frame of its earmark, the size of its leaf, and the tile table's earmark. -/
structure Landed where
  hpa : Nat
  frame : Nat
  size : Nat
  mark : Mark
deriving DecidableEq, Repr

/-- A linear row, or with n = 65536 the tile that starts at it, landed in memory; what is overwritten whole is not checked against its
integrity tag (R154). -/
def landRow (t : Tensor) (n : Nat) (write : Bool) (lin : Int) : Try Landed :=
  let ta := rowForm t.tid lin
  tryThen (tileEntry t (lin / 256) ta write) fun (e, m) s =>
    let gpa := fld e 16 32 * 65536
    match s.landFrame gpa write with
    | (.error x, s) => (.error (.fault x.cause x.step ta true t.tid (x.misses ta write true)), s)
    | (.ok (hpa, t2), s) =>
      let a := hpa + (lin % 256).toNat * 256
      if !write && s.badBlock s.core.place.part a n then (.error (.fault .integrity 5 ta true t.tid []), s)
      else (.ok ⟨a, t2.frame gpa, t2.size, m⟩, s)

end Sys2Proof.Machine
end

