-- ==== Sys2Proof/Machine/Copy.lean ====
section
/-! DEFINITION. The tensor copies TLD, TST, TCPY and TCPYO, and the shape words SHPUB and SHINV (R147, R148, R157 to R164). -/

namespace Sys2Proof.Machine

/-! ### Bank groups (R152) -/

/-- The group of a tile reference (R108). -/
def refGroup (r : W64) : Nat := fld r 30 2
/-- The tile rows a reference names, and the A format of a format word (R107, R108). -/
def refCount (r : W64) : Nat := fld r 12 7 + 1
def fwA (f : W32) : Nat := fld f 0 4
/-- The cycles of one K-step: D of R215. -/
def stepCycles (fw : W32) (rb : W64) : Nat := (if fwA fw = 0 then 512 else 64) * ((refCount rb + 63) / 64)
def MatOp.cycles (o : MatOp) : Nat := stepCycles o.fw o.rb
/-- The cycles since an operation's issue. -/
def MatOp.age (gcc : W64) (o : MatOp) : Nat := (gcc - o.issue).toNat
/-- Whether M holds a bank group in this cycle: it lies in a K-step's interval of an operation that reads the group, or an MLOAD or MSAVE of
the group is under way (R152, R215, R216). -/
def State.groupBusy (g : Nat) (s : State) : Bool :=
  s.core.mat.ops.any (fun o => decide (o.age s.gcc < o.stopAt * o.cycles) && (refGroup o.ra == g || refGroup o.rb == g))
    || (match s.core.mat.word with
      | some (.load _ r, _) => Sys2Proof.Machine.groupOf r == g
      | some (.save _ r, _) => Sys2Proof.Machine.groupOf r == g
      | _ => false)
def State.rowBusy (r : Nat) (s : State) : Bool := s.groupBusy (Sys2Proof.Machine.groupOf r)

/-! ### Commands of the port (R147, R148) -/

/-- Whether the port's command queue is full: a command keeps its place until its last request has been sent (R147). -/
def Core.portFull (c : Core) : Bool := decide (Config.portDepth ≤ (c.port.pend.filter fun p => p.eng == .a && !p.sent).length)
/-- The command at A's word as it stands, if it faulted or is still popping. -/
def State.abuf (s : State) : ABuf := s.core.port.abuf.getD ⟨false, [], 0, Mark.empty, 0, none⟩
/-- The tag of the command counted, once (R148, R161). -/
def State.countTag (t : Ctag) (s : State) : State := if s.abuf.counted then s else s.onCore (Core.issueTag t)
/-- A command that faults after it was accepted: it keeps its tag count and its buffer (R161, R167). -/
def State.keepCommand (t : Ctag) (b : ABuf) (s : State) : State :=
  (s.countTag t).onPort fun p => { p with abuf := some { b with counted := true } }
/-- The port accepts a command; one with nothing to do completes. -/
def State.acceptCmd (t : Ctag) (c : Ocl) (ops : List Micro) (buf : Row) (m : Mark) (s : State) : State :=
  ((s.countTag t).onPort fun p =>
    if ops.isEmpty then { p with abuf := none, compl := p.compl ++ [t] }
    else { p with abuf := none, pend := p.pend ++ [⟨.a, c, s.gen, some t, ops, buf, m, false⟩] }).onCore
      (Core.dropEarlyLines (ops.flatMap Micro.keys))
/-- A step that faults after the command was accepted. -/
def runAccepted {α : Type} (t c : Ctag) (cls : Ocl) (b : ABuf) (x : Try α) (k : α → State → WordRes) (s : State) : WordRes := match x s with
  | (.ok a, s) => k a s
  | (.error (.fault cause step addr tens tid pages), s) =>
    AStop.res c.val cls.val (s.keepCommand t b) (.fault cause step addr tens tid pages)
  | (.error e, s) => e.res c.val cls.val s

/-! ### The plan of a copy (R157 to R159) -/

/-- The coordinates a copy reads, and their earmark (R157). -/
def coords (kc : KR) (rank : Nat) : Try (List Int × Mark) := fun s =>
  if 16 < kc.val + rank then aIllegal 1 s
  else
    let ks := (List.range rank).map fun d => s.k (Fin.ofNat 16 (kc.val + d))
    (.ok (ks.map fun k => k.val.toInt, Mark.unions (ks.map fun k => k.mark)), s)

/-- The plan of a block of one tensor (R157, R158). -/
def planCopy (kc : KR) (tid : Nat) (seg : Seg) : Try Plan :=
  tryThen (getTensor tid) fun t => tryThen (coords kc t.rank) fun (c, km) => tryThen (classify t c seg) fun (rows, bm) =>
    tryRet ⟨t, t, rows.map fun r => r.map fun x => (x, x), (km.union t.mark).union bm⟩
/-- The plan of a copy as it was made at its issue: a command that faulted after it was accepted keeps it, and A reads no record, boundary
or coordinate again (R161, R162). -/
def issued (p : Try Plan) : Try Plan := fun s =>
  match s.core.port.abuf.bind ABuf.plan with
  | some q => (.ok q, s)
  | none => p s
/-- The rows of a plan in its first tensor, and in its second. -/
def Plan.rowsA (p : Plan) : List (Option Int) := p.rows.map fun r => r.map Prod.fst
def Plan.rowsB (p : Plan) : List (Option Int) := p.rows.map fun r => r.map Prod.snd

/-- Every inside row of a block landed. -/
def landRows (t : Tensor) (write : Bool) : List (Option Int) → Try (List (Option Landed)) :=
  tryAll fun r => match r with
    | none => tryRet none
    | some lin => tryThen (landRow t 256 write lin) fun l => tryRet (some l)
/-- The metadata earmark of the tile-table entries of a block. -/
def rowMarks (l : List (Option Landed)) : Mark := Mark.unions (l.filterMap fun x => x.map Landed.mark)

/-! ### TLD and TST -/

/-- The places of a block's rows. -/
def DstSel.place (d : DstSel) (j : Nat) : PDst := match d with
  | .rows r => .row (r.val + j)
  | .lq q => .lq q
/-- Whether a block of rows would run into the carry tile (R153, R158). -/
def spanBad (r : RowIx) (n : Nat) : Bool := decide (Config.carryRow < r.val + n)
/-- Whether a load queue is bound from a peer (R23). -/
def State.lqBound (s : State) (q : Fin 4) : Bool := (s.core.q.boundFrom[q]).isSome
def State.sqBound (s : State) (q : Fin 2) : Bool := (s.core.q.bound[q]).isSome
/-- QUEUE_BOUND at the word. -/
def queueBound (t c : Nat) (s : State) : WordRes := .fault s .queueBound (aStatus 0 0 0 t c 0 1 s) 0 []

/-- TLD (R157, R158): rows that would reach the carry tile raise ILLEGAL after the block's BOUNDARY and STAGE1 checks (R153; log entry 89). -/
def tldBody (kc : KR) (t : Ctag) (c : Ocl) (seg : Seg) (tid : Fin 256) (dst : DstSel) (s : State) : WordRes :=
  let carry : Nat → Bool := fun n => match dst with
    | .rows r => spanBad r n
    | .lq _ => false
  let bound := match dst with
    | .rows _ => false
    | .lq q => s.lqBound q
  if carry 1 then AStop.res t.val c.val s (.fault .illegal 1 0 false 0 [])
  else if bound then queueBound t.val c.val s
  else if s.core.portFull then .stall .port
  else runTry t.val c.val (issued (planCopy kc tid.val seg)) (fun p s =>
    if carry p.t.brows then AStop.res t.val c.val s (.fault .illegal 1 0 false 0 [])
    else runAccepted t t c { s.abuf with plan := some p } (landRows p.t false p.rowsA) (fun l s =>
      let m := p.mark.union (rowMarks l)
      let ops := l.zipIdx.map fun (x, j) => match x with
        | some x => Micro.load x.hpa x.frame (DstSel.place dst j) m
        | none => Micro.zero (DstSel.place dst j) m
      .done (s.acceptCmd t c ops 0 Mark.empty)) s) s
def execTld (w g : Tok) (kc : KR) (t : Ctag) (c : Ocl) (seg : Seg) (tid : Fin 256) (dst : DstSel) (s : State) : Out :=
  runLong w g (needK (tldBody kc t c seg tid dst)) s

/-- The entries of a store queue popped into the port's buffer, n at most; a credit goes to nobody, since the queue is not bound. -/
def State.popInto (q : Fin 2) (n : Nat) (s : State) : State :=
  let l := s.core.q.sq[q]
  let b := s.abuf
  let got := (l.take (n - b.popped.length)).map fun e => Tagged.live 0 s.gen e
  (s.onCore fun c => (c.setSq q (l.drop (n - b.popped.length))).stir).onPort fun p => { p with abuf := some { b with popped := b.popped ++ got } }

/-- TST (R157 to R159). -/
def tstBody (kc : KR) (t : Ctag) (c : Ocl) (seg : Seg) (tid : Fin 256) (src : SrcSel) (s : State) : WordRes :=
  let ill (s : State) : WordRes := AStop.res t.val c.val s (.fault .illegal 1 0 false 0 [])
  let finish (p : Plan) (data : Nat → Nat → Nat → Mark → Micro) (s : State) : WordRes :=
    runAccepted t t c { s.abuf with plan := some p } (landRows p.t true p.rowsB) (fun l s =>
      let m := p.mark.union (rowMarks l)
      let ops := l.zipIdx.filterMap fun (x, j) => x.map fun x => data j x.hpa x.frame m
      .done (s.acceptCmd t c ops 0 Mark.empty)) s
  match src with
  | .rows r =>
    if spanBad r 1 then ill s
    else if s.core.portFull then .stall .port
    else runTry t.val c.val (issued (planCopy kc tid.val seg)) (fun p s =>
      if spanBad r p.t.brows then ill s else finish p (fun j h f m => .storeRow (r.val + j) h f m) s) s
  | .sq q =>
    if s.sqBound q then queueBound t.val c.val s
    else if s.core.portFull then .stall .port
    else runTry t.val c.val (issued (planCopy kc tid.val seg)) (fun p s =>
      let some_ := decide (s.abuf.popped.length < p.t.brows) && s.core.q.sq[q] ≠ []
      let s := s.popInto q p.t.brows
      if s.abuf.popped.length < p.t.brows then (if some_ then .block s .dataEmpty else .stall .dataEmpty)
      else
        let es := s.abuf.popped
        finish p (fun j h f m => .storeData (es.getD j ⟨0, 0, Mark.empty⟩) h f m) s) s
def execTst (w g : Tok) (kc : KR) (t : Ctag) (c : Ocl) (seg : Seg) (tid : Fin 256) (src : SrcSel) (s : State) : Out :=
  runLong w g (needK (tstBody kc t c seg tid src)) s

/-! ### TCPY and TCPYO -/

/-- A row counts as inside only when it is inside in both tensors (R159). -/
def bothRows : List (Option Int) → List (Option Int) → List (Option (Int × Int))
  | some a :: l, some b :: m => some (a, b) :: bothRows l m
  | _ :: l, _ :: m => none :: bothRows l m
  | _, _ => []

/-- TCPY (R158, R159): records that differ raise ILLEGAL with STEP 2 (log entry 41). -/
def tcpyBody (kc : KR) (t : Ctag) (c : Ocl) (seg : Seg) (tid tid2 : Fin 256) (s : State) : WordRes :=
  if s.core.portFull then .stall .port
  else runTry t.val c.val (issued (
    tryThen (getTensors tid.val tid2.val) fun (a, b) =>
      if a.fmt ≠ b.fmt ∨ a.rank ≠ b.rank ∨ a.brows ≠ b.brows ∨ a.ragged ≠ b.ragged then aIllegal 2
      else tryThen (coords kc a.rank) fun (cs, km) => tryThen (classify a cs seg) fun (ra, ma) => tryThen (classify b cs seg) fun (rb, mb) =>
        tryRet ⟨a, b, bothRows ra rb, Mark.unions [km, a.mark, b.mark, ma, mb]⟩)) (fun p s =>
    runAccepted t t c { s.abuf with plan := some p } (tryThen (landRows p.t false p.rowsA) fun la =>
        tryThen (landRows p.u true p.rowsB) fun lb => tryRet (la, lb)) (fun (la, lb) s =>
      let m := (p.mark.union (rowMarks la)).union (rowMarks lb)
      let ops := (la.zip lb).filterMap fun (x, y) => match x, y with
        | some x, some y => some (Micro.copy x.hpa x.frame y.hpa y.frame 256 m false)
        | _, _ => none
      .done (s.acceptCmd t c ops 0 Mark.empty)) s) s
def execTcpy (w g : Tok) (kc : KR) (t : Ctag) (c : Ocl) (seg : Seg) (tid tid2 : Fin 256) (s : State) : Out :=
  runLong w g (needK (tcpyBody kc t c seg tid tid2)) s

/-- TCPYO: the whole tile that holds the block's first row, line by line; the last line replaces the earmark of a page that is a
64 KiB leaf of its own (R160). -/
def tcpyoBody (kc : KR) (t : Ctag) (c : Ocl) (tid tid2 : Fin 256) (s : State) : WordRes :=
  if s.core.portFull then .stall .port
  else runTry t.val c.val (issued (
    tryThen (getTensors tid.val tid2.val) fun (a, b) => tryThen (coords kc a.rank) fun (cs, km) =>
      tryThen (if a.pitch0 = 0 then extent0 a else tryRet (0, Mark.empty)) fun (e0, me) =>
        let lin := linearRow a cs e0 (cs.getD 0 0) / 256 * 256
        tryRet ⟨a, b, [some (lin, lin)], Mark.unions [km, a.mark, b.mark, me]⟩))
    (fun p s =>
    let lin := ((p.rows.headD none).map Prod.fst).getD 0
    runAccepted t t c { s.abuf with plan := some p } (tryThen (landRow p.t 65536 false lin) fun x => tryThen (landRow p.u 65536 true lin) fun y => tryRet (x, y))
      (fun (x, y) s =>
        let m := (p.mark.union x.mark).union y.mark
        let ops := (List.range 512).map fun i =>
          Micro.copy (x.hpa + 128 * i) x.frame (y.hpa + 128 * i) y.frame 128 m (i == 511 && y.size == 65536)
        .done (s.acceptCmd t c ops 0 Mark.empty)) s) s
def execTcpyo (w g : Tok) (kc : KR) (t : Ctag) (c : Ocl) (tid tid2 : Fin 256) (s : State) : Out :=
  runLong w g (needK (tcpyoBody kc t c tid tid2)) s

/-! ### SHPUB and SHINV (R163, R164) -/

/-- A tensor's record, windows and tiles dropped from a core's shape cache. -/
def Core.dropShape (tid : Nat) (c : Core) : Core := { c with port := { c.port with shapes := c.port.shapes.filter fun e => e.tid != tid } }

/-- Whether an access of a port command writes memory. -/
def Micro.writes : Micro → Bool
  | .storeRow .. | .storeData .. | .copy .. | .elemStore .. | .store .. | .away .. | .cast .. => true
  | _ => false
/-- Whether a store the port has accepted has not performed. -/
def Core.storesLeft (c : Core) : Bool := c.port.pend.any fun p => p.ops.any Micro.writes

/-- SHPUB: after every store the port accepted, VERSION rises at its home, in its place among A's accesses of the class, and every core of
the partition drops the shape (R150, R163). A table entry that is not valid or is malformed faults as it does for a copy (log entry 104). -/
def shpubBody (tid : Fin 256) (c : Ocl) (s : State) : WordRes :=
  if s.core.storesLeft then .stall .port
  else runTry 0 c.val (getEntry tid.val) (fun (b, _) s =>
    let at_ : W64 := BitVec.ofNat 64 (leAt b 0 8)
    if entryBad b then AStop.res 0 c.val s (.fault .illegal 2 0 false 0 [])
    else match s.translate s.who .home true at_ with
    | (.error e, s) => AStop.res 0 c.val s (.fault e.cause e.step at_ false 0 (e.misses at_ true false))
    | (.ok (.mem hpa frame _ _), s) =>
      if s.mustWait c (linesOf hpa 4) then .stall .port
      else
      match s.turnAt s.core.place.part (s.accessWho 0) (.mem hpa frame) with
      | none => .stall .port
      | some s =>
      let s := s.noteAccess c (linesOf hpa 4)
      let v := leNat (s.seen s.core.place.part hpa 4)
      let s := s.writeData s.core.place.part s.gen .plain hpa frame (natLe ((v + 1) % 2 ^ 32) 4) Mark.empty
      let drop (k : Core) : Core := if k.place.part = s.core.place.part then k.dropShape tid.val else k
      .done { s with core := drop s.core, others := s.others.map drop }
    | (.ok _, s) => AStop.res 0 c.val s (.fault .permission 7 at_ false 0 [])) s
def execShpub (w g : Tok) (tid : Fin 256) (c : Ocl) (s : State) : Out := runShort w g (shpubBody tid c) s
/-- SHINV (R164). -/
def execShinv (w g : Tok) (tid : Fin 256) (s : State) : Out := runShort w g (simply fun s => s.onCore (Core.dropShape tid.val)) s

end Sys2Proof.Machine
end

