-- ==== Sys2Proof/Machine/Gather.lean ====
section
/-! DEFINITION. GATH and SCAT (R165 to R167). -/

namespace Sys2Proof.Machine

/-- How an element stands after its checks: skipped, landed, or faulted with its address. -/
inductive Elem
  | skip
  | land (i : Nat) (loc : Loc)
  | bad (i : Nat) (cause : Cause) (step : Nat) (addr : W64) (pages : List PageMiss)
deriving DecidableEq, Repr

/-- Whether a cause leaves the context resumable (R44). -/
def Cause.resumable : Cause → Bool
  | .stage1 | .stage2 => true
  | _ => false

/-- The checks of R129 on one element. -/
def checkElem (write : Bool) (sz i : Nat) (ea : W64) (s : State) : Elem × State :=
  if ea.toNat < 2 ^ 57 ∧ ea.toNat % sz ≠ 0 then (.bad i .align 1 ea [], s)
  else match s.translate s.who .elem write ea with
    | (.error e, s) => (.bad i e.cause e.step ea (e.misses ea write false), s)
    | (.ok t, s) => match t.loc with
      | none => (.bad i .permission 7 ea [], s)
      | some l => if s.locBad l sz then (.bad i .integrity 5 ea [], s) else (.land i l, s)

/-- The elements from i on: n of them, those done or disabled left out (R165). -/
def checkElems (write : Bool) (sz : Nat) (base : W64) (irow : Row) (done : W64) : Nat → Nat → State → List Elem × State
  | 0, _, s => ([], s)
  | n + 1, i, s =>
    let idx := Row.lane irow i
    if idx = 0x80000000 ∨ done.toNat / 2 ^ i % 2 = 1 then
      let (l, s) := checkElems write sz base irow done n (i + 1) s
      (.skip :: l, s)
    else
      let (x, s) := checkElem write sz i (base + idx.signExtend 64 * BitVec.ofNat 64 sz) s
      let (l, s) := checkElems write sz base irow done n (i + 1) s
      (x :: l, s)

/-- The elements of a size in a row (R165). -/
def elemCount (sz : Nat) : Nat := if sz = 8 then 32 else 64

/-- The faulted element R167 chooses: the lowest of a cause that is not resumable, else the lowest. -/
def chosen (l : List Elem) : Option Elem :=
  match l.find? fun e => match e with
    | .bad _ c _ _ _ => !c.resumable
    | _ => false with
  | some e => some e
  | none => l.find? fun e => match e with
    | .bad .. => true
    | _ => false
def badCount (l : List Elem) : Nat := (l.filter fun e => match e with
  | .bad .. => true
  | _ => false).length
def badPages (l : List Elem) : List PageMiss := l.flatMap fun e => match e with
  | .bad _ _ _ _ p => p
  | _ => []
def landedOf (l : List Elem) : List (Nat × Loc) := l.filterMap fun e => match e with
  | .land i loc => some (i, loc)
  | _ => none

/-- An element read into a buffer, or written out of it. -/
def moveElem (write : Bool) (sz : Nat) (b : ABuf) (e : Nat × Loc) (s : State) : ABuf × State :=
  let (i, loc) := e
  let s := s.accessOut s.core.id loc sz (if write then rowBytes b.buf (i * sz) sz else [])
  if write then
    ({ b with done := b.done ||| ((1 : W64) <<< i) },
      s.writeLoc s.core.place.part s.gen loc (rowBytes b.buf (i * sz) sz) b.mark)
  else
    let (bs, m) := s.readLoc loc sz
    ({ b with buf := rowPut b.buf (i * sz) bs, mark := b.mark.union m, done := b.done ||| ((1 : W64) <<< i) }, s.readDone loc sz)
/-- Elements moved in their turns at their homes, in ascending order as far as a replay lets them; whether all have moved (R167, R415). -/
def moveElems (write : Bool) (sz : Nat) (t : Ctag) : List (Nat × Loc) → ABuf → State → Bool × ABuf × State
  | [], b, s => (true, b, s)
  | e :: l, b, s => match s.turnAt s.core.place.part (s.accessWho t.val) e.2 with
    | none => (false, b, s)
    | some s =>
      let (b, s) := moveElem write sz b e s
      moveElems write sz t l b s

/-- The command with its buffer as it stands: accepted when no element faults; otherwise its other elements move and A stops, once they
have had their turns (R167, R415). -/
def gathRun (write : Bool) (dst : Option PDst) (base : W64) (irow : Row) (t : Ctag) (c : Ocl) (z : Sz) (b : ABuf) (s : State) : WordRes :=
  let sz := z.bytes
  let (l, s) := checkElems write sz base irow b.done (elemCount sz) 0 s
  match chosen l with
  | some (.bad i cause step addr _) =>
    let good := landedOf l
    if s.mustWait c (good.flatMap fun e => e.2.keys sz) then .stall .port
    else match (good.filterMap fun e => if write then none else s.locPoison e.2 sz).head? with
      | some h => s.readPoison h
      | none =>
        match moveElems write sz t good b s with
        | (true, b, s) =>
          let s := s.keepCommand t b
          .fault s cause (aStatus (badCount l) 0 i t.val c.val 0 step s) addr (badPages l)
        | (false, b, s) => .block (s.onPort fun p => { p with abuf := some b }) .port
  | _ =>
    let ops := (landedOf l).map fun e => if write then Micro.elemStore e.1 sz e.2 else Micro.elemLoad e.1 sz e.2
    let fin := match dst with
      | some d => [Micro.gathEnd d]
      | none => []
    .done (s.acceptCmd t c (ops ++ fin) b.buf b.mark)

/-- GATH (R165). -/
def gathBody (ka : KR) (t : Ctag) (c : Ocl) (z : Sz) (irow : RowIx) (dst : DstSel) (s : State) : WordRes :=
  let carry := decide (Config.carryRow ≤ irow.val) || (match dst with
    | .rows r => spanBad r 1
    | .lq _ => false)
  let bound := match dst with
    | .rows _ => false
    | .lq q => s.lqBound q
  if carry then AStop.res t.val c.val s (.fault .illegal 1 0 false 0 [])
  else if bound then queueBound t.val c.val s
  else if s.core.portFull ∨ s.rowBusy irow.val then .stall .port
  else
    let base := s.kp ka
    let ix := s.core.row irow.val
    let b := match s.core.port.abuf with
      | some b => b
      | none => ⟨false, [], 0, base.mark.union ix.mark, 0, none⟩
    gathRun false (some (DstSel.place dst 0)) base.val ix.val t c z b s
def execGath (w g : Tok) (ka : KR) (t : Ctag) (c : Ocl) (z : Sz) (irow : RowIx) (dst : DstSel) (s : State) : Out :=
  runLong w g (needK (gathBody ka t c z irow dst)) s

/-- SCAT (R165): the source entry is popped once. -/
def scatBody (ka : KR) (t : Ctag) (c : Ocl) (z : Sz) (irow : RowIx) (src : SrcSel) (s : State) : WordRes :=
  let ill := AStop.res t.val c.val s (.fault .illegal 1 0 false 0 [])
  let base := s.kp ka
  let ix := s.core.row irow.val
  let km := base.mark.union ix.mark
  if Config.carryRow ≤ irow.val then ill
  else if s.core.portFull ∨ s.rowBusy irow.val then .stall .port
  else match s.core.port.abuf with
  | some b => gathRun true none base.val ix.val t c z b s
  | none =>
    match src with
    | .rows r =>
      if spanBad r 1 then ill
      else if s.rowBusy r.val then .stall .port
      else
        let d := s.core.row r.val
        gathRun true none base.val ix.val t c z ⟨false, [], d.val, km.union d.mark, 0, none⟩ s
    | .sq q =>
      if s.sqBound q then queueBound t.val c.val s
      else match s.core.q.sq[q] with
        | [] => .stall .dataEmpty
        | d :: rest =>
          let d := Tagged.live 0 s.gen d
          gathRun true none base.val ix.val t c z ⟨false, [], d.val, km.union d.mark, 0, none⟩ (s.onCore (Core.setSq q rest))
def execScat (w g : Tok) (ka : KR) (t : Ctag) (c : Ocl) (z : Sz) (irow : RowIx) (src : SrcSel) (s : State) : Out :=
  runLong w g (needK (scatBody ka t c z irow src)) s

end Sys2Proof.Machine
end

