-- ==== Sys2Proof/Machine/RowWords.lean ====
section
/-! DEFINITION. The A words on A's side of the core: SPLD, SPST, TREF, the tag waits, and BIND; MCAST and PREF (R151, R156, R168, R169,
R178 to R180). -/

namespace Sys2Proof.Machine

/-! ### Pushes (R151) -/

/-- Whether an access of a port command writes a scratchpad row of its own core, whose number is given, an MCAST's row in it among them; and
whether it pushes into a load queue. -/
def Micro.rowOn (core : Nat) : Micro → Option Nat
  | .load _ _ (.row r) _ | .zero (.row r) _ | .put (.row r) _ _ | .gathEnd (.row r) => some r
  | .cast _ r cores => if cores.contains core then some r else none
  | _ => none
def Micro.queue : Micro → Option (Fin 4)
  | .load _ _ (.lq q) _ | .zero (.lq q) _ | .put (.lq q) _ _ | .gathEnd (.lq q) | .sumFlags _ q => some q
  | _ => none
/-- Whether a push waits for rows earlier A words have still to write (R151), or for earlier pushes into its queue (R159). -/
def Core.rowsPending (c : Core) : Bool :=
  c.port.pend.any fun p => p.eng == .a && p.ops.any fun m => (m.rowOn c.place.num).isSome
def Core.pushesPending (q : Fin 4) (c : Core) : Bool := c.port.pend.any fun p => p.eng == .a && p.ops.any fun m => m.queue == some q

/-! ### SPLD and SPST (R168) -/

/-- The row a word names, K added where the form says so. -/
def namedRow (r : RowIx) (k : Option KR) (s : State) : Nat := match k with
  | some k => (r.val + (s.k k).val.toNat) % 8192
  | none => r.val

/-- ILLEGAL in A found at execution. -/
def aIll (s : State) : WordRes := AStop.res 0 0 s (.fault .illegal 1 0 false 0 [])

/-- SPLD (R151); while earlier A words have still to make their pushes or rows, A shows reason 11, as TREF and FFR do (log entry 88). -/
def spldBody (q : Fin 4) (r : RowIx) (k : Option KR) (s : State) : WordRes :=
  let n := namedRow r k s
  if Config.carryRow ≤ n then aIll s
  else if s.lqBound q then queueBound 0 0 s
  else if s.rowBusy n ∨ s.core.rowsPending ∨ s.core.pushesPending q then .stall .port
  else if s.core.lqFull q then .stall .dataFull
  else
    let d := s.core.row n
    .done (s.onCore (Core.pushLq q d.val d.mark))
def execSpld (w g : Tok) (q : Fin 4) (r : RowIx) (s : State) : Out := runShort w g (spldBody q r none) s
def execSpldK (w g : Tok) (q : Fin 4) (r : RowIx) (ken : Bool) (k : KR) (s : State) : Out :=
  runLong w g (if ken then needK (spldBody q r (some k)) else spldBody q r none) s

def spstBody (q : Fin 2) (r : RowIx) (k : Option KR) (s : State) : WordRes :=
  let n := namedRow r k s
  if Config.carryRow ≤ n then aIll s
  else if s.sqBound q then queueBound 0 0 s
  else if s.rowBusy n then .stall .port
  else match s.core.q.sq[q] with
    | [] => .stall .dataEmpty
    | d :: rest =>
      let d := Tagged.live 0 s.gen d
      .done (s.onCore fun c => (c.setSq q rest).setRow n d.val d.mark)
def execSpst (w g : Tok) (q : Fin 2) (r : RowIx) (s : State) : Out := runShort w g (spstBody q r none) s
def execSpstK (w g : Tok) (q : Fin 2) (r : RowIx) (ken : Bool) (k : KR) (s : State) : Out :=
  runLong w g (if ken then needK (spstBody q r (some k)) else spstBody q r none) s

/-! ### TREF (R169) -/

/-- The scratchpad rows a reference names (R108): its tile rows' first rows, and the auxiliary rows it uses. -/
def refRows (r : W64) : List Nat :=
  let step := if fld r 8 4 = 0 then 16 else fld r 8 4
  (List.range (fld r 12 7 + 1)).map (fun m => fld r 19 13 + m * step)
    ++ (if fld r 5 1 = 1 then [fld r 32 13] else []) ++ (if fld r 4 1 = 1 then [fld r 32 13 + 1] else [])

/-- Whether M stands at an MMA or MMAT of the short form that waits for no token any more (R212). -/
def Core.mWaits (c : Core) : Bool :=
  let x := c.eng .m
  let w := c.wordAt x.pc
  let free := match tokField .m (fld w 26 3) with
    | .ok none => true
    | _ => x.popped
  c.place.run == .running && fld w 29 3 == 3 && !bit w 22 && (fld w 16 6 == 1 || fld w 16 6 == 2) && free
/-- A reference pushed: an MMA or MMAT that waits for it issues in this cycle (R212). -/
def State.pushRef (mb : Bool) (e : Tagged W64) (s : State) : State :=
  let s := s.onQ fun q => if mb then { q with mb := q.mb ++ [e] } else { q with ma := q.ma ++ [e] }
  if s.core.mWaits then { s with agenda := .engine s.core.id .m :: s.agenda } else s
def trefBody (mb : Bool) (ref : W64) (s : State) : WordRes :=
  let e : Tagged W64 := ⟨ref, s.gen, Mark.empty⟩
  if fld ref 0 4 ≠ 0 ∨ (refRows ref).any (fun r => decide (Config.carryRow ≤ r)) then aIll s
  else if s.groupBusy (refGroup ref) ∨ s.core.rowsPending then .stall .port
  else if Config.refDepth ≤ (if mb then s.core.q.mb else s.core.q.ma).length then .stall .dataFull
  else .done (s.pushRef mb e)
def execTref (w g : Tok) (mb : Bool) (hi : BitVec 13) (lo : W32) (s : State) : Out :=
  runLong w g (trefBody mb ((hi ++ lo).setWidth 64)) s

/-! ### Copy tags (R156) -/

/-- A literal mask in its half. -/
def halfMask (half : Bool) (mask : W32) : W64 := if half then mask ++ (0 : W32) else mask.setWidth 64

/-- A has finished a wait on copy tags. -/
def State.tagsSeen (s : State) : State := s.onWalk fun w => { w with tagSeen := true }
def waitanyBody (m : W64) (s : State) : WordRes :=
  if m = 0 then aIll s else if s.core.regs.ctags &&& m = 0 then .stall .copyTag else .done s.tagsSeen
def execWaitany (w g : Tok) (half : Bool) (mask : W32) (s : State) : Out := runLong w g (waitanyBody (halfMask half mask)) s
def execWaitanyK (w g : Tok) (km : KR) (s : State) : Out := runShort w g (needK fun s => waitanyBody (s.kp km).val s) s

def waitallBody (m : W64) (s : State) : WordRes := if s.core.regs.ctags &&& m = m then .done s.tagsSeen else .stall .copyTag
def execWaitall (w g : Tok) (half : Bool) (mask : W32) (s : State) : Out := runLong w g (waitallBody (halfMask half mask)) s
def execWaitallK (w g : Tok) (km : KR) (s : State) : Out := runShort w g (needK fun s => waitallBody (s.kp km).val s) s

/-- The index of the lowest set bit. -/
def lowestBit (m : W64) : Nat := ((List.range 64).find? fun i => m.toNat / 2 ^ i % 2 == 1).getD 0
/-- The entry FFR forms of the tag it picks and of CTAGS. -/
def ffrEntry (tags : W64) (n : Nat) : Row :=
  Row.ofLanes fun i => if i = 0 then BitVec.ofNat 32 n else if i = 1 then tags.extractLsb' 0 32
    else if i = 2 then tags.extractLsb' 32 32 else 0
/-- Why a push of A into a load queue waits, if it does (R151, R159). -/
def Core.pushWaits (q : Fin 4) (c : Core) : Option Block :=
  if c.rowsPending || c.pushesPending q then some .port else if c.lqFull q then some .dataFull else none
/-- The entry an FFR has formed and not yet pushed. -/
def State.ffrHeld (s : State) : Option Row := (s.core.port.abuf.bind fun b => b.popped.head?).map Tagged.val
/-- FFR: the tag is picked, the entry formed and the bit cleared at once; a push that has to wait keeps the entry (R156). -/
def ffrBody (m : W64) (q : Fin 4) (s : State) : WordRes :=
  let tags := s.core.regs.ctags
  let push (e : Row) (s : State) : State := ((s.onPort fun p => { p with abuf := none }).onCore (Core.pushLq q e Mark.empty)).tagsSeen
  match s.ffrHeld with
  | some e => (match s.core.pushWaits q with
    | some r => .stall r
    | none => .done (push e s))
  | none =>
    if m = 0 then aIll s
    else if s.lqBound q then queueBound 0 0 s
    else if tags &&& m = 0 then .stall .copyTag
    else
      let n := lowestBit (tags &&& m)
      let e := ffrEntry tags n
      let s := s.onRegs fun r => { r with ctags := r.ctags &&& ~~~((1 : W64) <<< n) }
      match s.core.pushWaits q with
      | some r => .block ((s.onPort fun p => { p with abuf := some ⟨false, [⟨e, s.gen, Mark.empty⟩], 0, Mark.empty, 0, none⟩ }).onCore Core.stir) r
      | none => .done (push e s)
def execFfr (w g : Tok) (half : Bool) (q : Fin 4) (mask : W32) (s : State) : Out := runLong w g (ffrBody (halfMask half mask) q) s
def execFfrK (w g : Tok) (km : KR) (q : Fin 4) (s : State) : Out := runShort w g (needK fun s => ffrBody (s.kp km).val q s) s

/-! ### MCAST and PREF (R178, R179) -/

/-- EA of an AF form (R155). -/
def afEa (ka : KR) (off : W64) (s : State) : W64 := (s.kp ka).val + off

/-- The packets of one MCAST: one for each die that holds members here, and one for every other module; the port issues them later. -/
def State.mcastPkts (id row : Nat) (c : Ocl) (cores nodes : List Nat) (d : QEntry) (s : State) : List McastPkt :=
  let part := s.core.place.part
  let here := cores.filter fun n => (s.coreAt ⟨part, n⟩).isSome
  let die (n : Nat) : Nat := ((s.coreAt ⟨part, n⟩).map fun k => k.place.site / 128).getD 0
  let mk (node die : Nat) (l : List Nat) : McastPkt :=
    ⟨id, s.mgmt.node, node, die, s.core.id, s.gen, c, d.val, d.mark, row, l, none⟩
  nodes.flatMap fun n =>
    if n = s.mgmt.node then
      (List.range 4).filterMap fun x => if (here.filter fun k => die k == x).isEmpty then none else some (mk n x (here.filter fun k => die k == x))
    else [mk n 0 cores]

/-- MCAST (R178): the entry leaves for every member, and the port keeps the command until every row is written. -/
def mcastBody (ka : KR) (t : Ctag) (c : Ocl) (q : Fin 2) (off : W64) (s : State) : WordRes :=
  let ea := afEa ka off s
  let stop (cause : Cause) (step : Nat) (pages : List PageMiss) (s : State) : WordRes :=
    AStop.res t.val c.val s (.fault cause step ea false 0 pages)
  if s.sqBound q then queueBound t.val c.val s
  else if s.core.portFull then .stall .port
  else if ea.toNat < 2 ^ 57 ∧ ea.toNat % 256 ≠ 0 then stop .align 1 [] s
  else match s.translate s.who .mcast true ea with
    | (.error e, s) => stop e.cause e.step (e.misses ea true false) s
    | (.ok (.rows row cores nodes true), s) =>
      (match s.core.q.sq[q] with
        | [] => .stall .dataEmpty
        | d :: rest =>
          let d := Tagged.live 0 s.gen d
          let id := 64 + s.ticks
          let pkts := s.mcastPkts id row c cores nodes d
          let s := s.onCore (Core.setSq q rest)
          let s := s.acceptCmd t c (if pkts.isEmpty then [] else [.cast id row (if nodes.contains s.mgmt.node then cores else [])]) 0 Mark.empty
          .done (s.onGran fun g => { g with mcasts := g.mcasts ++ pkts }))
    | (.ok _, s) => stop .permission 7 [] s
def execMcast (w g : Tok) (ka : KR) (t : Ctag) (c : Ocl) (q : Fin 2) (s : State) : Out := runShort w g (needK (mcastBody ka t c q 0)) s
def execMcastOffset (w g : Tok) (ka : KR) (t : Ctag) (c : Ocl) (q : Fin 2) (off : W32) (s : State) : Out :=
  runLong w g (needK (mcastBody ka t c q (imm64 off))) s

/-- The 4 KiB pieces of a prefetch, or its 256 bytes, up to the first that does not translate. -/
def prefPieces (n : Nat) : Nat → W64 → State → List Micro × State
  | 0, _, s => ([], s)
  | k + 1, ea, s => match s.translate s.who .pref false ea with
    | (.ok (.mem hpa _ _ _), s) =>
      let (l, s) := prefPieces n k (ea + BitVec.ofNat 64 n) s
      (.prefetch hpa n :: l, s)
    | (_, s) => ([], s)
/-- PREF (R179). -/
def prefBody (ka : KR) (t : Ctag) (c : Ocl) (z : Fin 3) (off : W64) (s : State) : WordRes :=
  if s.core.portFull then .stall .port
  else
    let size := [256, 4096, 65536].getD z.val 256
    let ea := afEa ka off s
    let at_ : W64 := BitVec.ofNat 64 (ea.toNat / size * size)
    let (ops, s) := prefPieces (min size 4096) (if z.val = 2 then 16 else 1) at_ s
    .done (s.acceptCmd t c ops 0 Mark.empty)
def execPref (w g : Tok) (ka : KR) (t : Ctag) (c : Ocl) (z : Fin 3) (s : State) : Out := runShort w g (needK (prefBody ka t c z 0)) s
def execPrefOffset (w g : Tok) (ka : KR) (t : Ctag) (c : Ocl) (z : Fin 3) (off : W32) (s : State) : Out :=
  runLong w g (needK (prefBody ka t c z (imm64 off))) s

/-! ### BIND (R23, R180) -/

/-- Whether V has passed the BIND word at which A stands. -/
def State.vPassed (s : State) : Bool := after (s.eng .v).six s.me.six
/-- The word at which A stands is executed: it no longer holds V back. -/
def State.bindDone (s : State) : State := s.onQ fun q => { q with binds := q.binds.filter fun b => b.1 != s.me.six }

/-- How a peer stands toward a binding: it runs its job, will run one, or never will. -/
inductive PeerState | runs | later | never
deriving DecidableEq, Repr
def State.peerState (peer : Nat) (s : State) : PeerState :=
  match s.curTask, s.coreAt ⟨s.core.place.part, peer⟩ with
  | some k, some p =>
    if peer = s.core.place.num ∨ p.place.site / 128 ≠ s.core.place.site / 128 then .never
    else
      let more := !k.r.static && !k.r.persist && decide (k.nextJob < k.jobs)
      match k.seat peer with
      | some .running => if p.allHalted then (if more then .later else .never) else if p.runsTask k.id then .runs else .later
      | some .waiting => .later
      | _ => .never
  | _, _ => .never

def bindBody (q : Fin 2) (plq : Fin 4) (peer : Fin 128) (s : State) : WordRes :=
  if !s.vPassed then .stall .dataEmpty
  else match s.peerState peer.val with
    | .never => aIll s
    | .later => .stall .credit
    | .runs =>
      let id : CoreId := ⟨s.core.place.part, peer.val⟩
      let taken := ((s.coreAt id).map fun k => (k.q.boundFrom[plq]).isSome).getD true
      if s.sqBound q || taken || s.core.q.sq[q] ≠ [] then queueBound 0 0 s
      else
        let me := s.core.place.num
        let s := s.onQ fun x => { x with bound := x.bound.set q (some ⟨peer.val, plq, 16⟩) }
        .done ((s.atCore id fun k => { k with q := { k.q with boundFrom := k.q.boundFrom.set plq (some ⟨me, q⟩) } }).bindDone)
def execBind (w g : Tok) (q : Fin 2) (plq : Fin 4) (peer : Fin 128) (s : State) : Out := runShort w g (bindBody q plq peer) s

/-- A release waits for V and for every credit; it names no peer, and its PLQ and PEER fields are not read (R101, R180). -/
def bindOffBody (q : Fin 2) (s : State) : WordRes :=
  if !s.vPassed then .stall .dataEmpty
  else match s.core.q.bound[q] with
    | none => .done s.bindDone
    | some b =>
      if b.credits < 16 then .stall .credit
      else
        let s := s.onQ fun x => { x with bound := x.bound.set q none }
        .done ((s.atCore ⟨s.core.place.part, b.peer⟩ fun k => { k with q := { k.q with boundFrom := k.q.boundFrom.set b.plq none } }).bindDone)
def execBindOff (w g : Tok) (q : Release) (s : State) : Out := runShort w g (bindOffBody q.q) s

end Sys2Proof.Machine
end

