-- ==== Sys2Proof/Machine/Sums.lean ====
section
/-! DEFINITION. AACC, FLUSHC and SUMST, the carry tile, and the slices' accumulate queues (R170 to R177, R288). -/

namespace Sys2Proof.Machine

/-! ### Lanes and carry entries (R173 to R175) -/

/-- The 64 FP32 lanes of an entry, or the lanes converted to FX64 at a scale, with the flags of the conversion (R64). -/
def sendLanes (d : Row) (scale : Option Int) : List W64 × Bool × Bool :=
  match scale with
  | none => ((List.range 64).map fun i => (Row.lane d i).setWidth 64, false, false)
  | some e =>
    let l := (List.range 64).map fun i => toFx64 e (Row.lane d i)
    (l.map Prod.fst, l.any fun x => x.2.2, l.any fun x => x.2.1)

/-- Lanes as one carry row, or as two. -/
def lanesRow (fx : Bool) (l : List W64) (half : Nat) : Row :=
  if fx then BitVec.ofNat 2048 (packNat 64 (fun i => (l.getD (32 * half + i) 0).toNat) 32)
  else Row.ofLanes fun i => (l.getD i 0).extractLsb' 0 32

def Core.carry (c : Core) (i : Nat) : CarryEntry := Sparse.get CarryEntry.free c.port.carry i
def Core.setCarry (i : Nat) (e : CarryEntry) (c : Core) : Core :=
  { c with port := { c.port with carry := Sparse.set CarryEntry.free c.port.carry i e } }
/-- An entry and, for FX64, its second one freed. -/
def Core.freeCarry (i : Nat) (c : Core) : Core :=
  let fx := (c.carry i).fx
  let c := c.setCarry i CarryEntry.free
  if fx then c.setCarry (i + 1) CarryEntry.free else c
/-- The lowest place of n free entries (R173; log entry 117). -/
def Core.carrySpace (n : Nat) (c : Core) : Option Nat :=
  (List.range (65 - n)).find? fun i => (List.range n).all fun j => c.carry (i + j) == CarryEntry.free

/-- The lanes an entry holds. -/
def Core.carryLanes (i : Nat) (c : Core) : List W64 :=
  let e := c.carry i
  if e.fx then
    (List.range 64).map fun j => (if j < 32 then e.data else (c.carry (i + 1)).data).extractLsb' (64 * (j % 32)) 64
  else (List.range 64).map fun j => (Row.lane e.data j).setWidth 64
/-- The saturation flags of an entry and its second one. -/
def Core.carrySatf (i : Nat) (c : Core) : Nat :=
  let e := c.carry i
  if e.fx then e.satf % 4 + (c.carry (i + 1)).satf % 4 * 4 else e.satf % 4

/-- An addend written into its entry, or entries. -/
def Core.putCarry (i : Nat) (e : CarryEntry) (lanes : List W64) (satf : Nat) (c : Core) : Core :=
  let c := c.setCarry i { e with data := lanesRow e.fx lanes 0, satf := satf % 4 }
  if e.fx then c.setCarry (i + 1) { e with data := lanesRow true lanes 1, satf := satf / 4 % 4, pair2 := true } else c
/-- A change made to the descriptor of an entry and its second one. -/
def Core.onCarry (i : Nat) (f : CarryEntry → CarryEntry) (c : Core) : Core :=
  let fx := (c.carry i).fx
  let c := c.setCarry i (f (c.carry i))
  if fx then c.setCarry (i + 1) (f (c.carry (i + 1))) else c

/-- The packet that an entry sends, with the generation of the addend (R267). -/
def State.carryPkt (i : Nat) (s : State) : AaccPkt :=
  let e := s.core.carry i
  { core := s.core.id, gen := e.gen, cls := e.cls, hpa := e.hpa, frame := e.frame, fx := e.fx, lanes := s.core.carryLanes i,
    tries := e.tries, satf := s.core.carrySatf i, tags := e.tags.map fun t => ⟨s.mgmt.node, s.core.id, t, e.id⟩, mark := e.mark,
    carryIx := some i, red := none, hop := none, resv := none }

/-! ### Lane sums (R75, R65) -/

/-- Of 64 lanes, the 128-byte lines in which one is flagged, as bits. -/
def lineFlags (l : List Bool) : Nat :=
  (((List.range 4).filter fun k => (List.range 16).any fun i => l.getD (16 * k + i) false).map fun k => 2 ^ k).foldl (· + ·) 0
/-- Lanes b added to lanes a, a first, with the flags of the 128-byte lines in which an FX64 sum saturated. -/
def addLanes (fx : Bool) (a b : List W64) : List W64 × Nat :=
  let l := (List.range 64).map fun i =>
    let x := a.getD i 0
    let y := b.getD i 0
    if fx then fxAdd x y else ((fadd (x.extractLsb' 0 32) (y.extractLsb' 0 32)).1.setWidth 64, false)
  (l.map Prod.fst, lineFlags (l.map Prod.snd))
/-- Two sets of line flags. -/
def orFlags (a b : Nat) : Nat := Nat.lor a b

/-! ### AACC (R170, R173, R174) -/

/-- The carried addend that a later AACC meets before it is sent, that of the lowest entry where there are two (R174; log entry 117). -/
def Core.mergeWith (hpa : Nat) (fx : Bool) (cls : Ocl) (c : Core) : Option Nat :=
  (c.port.carry.find? fun kv => kv.2.valid && !kv.2.busy && !kv.2.pair2 && !kv.2.red && kv.2.hpa == hpa && kv.2.fx == fx
    && kv.2.cls == cls && kv.2.gen == c.place.gen).map Prod.fst

/-- The command that stands for a packet on its way, in the order of the port's commands. -/
def State.awayCmd (c : Ocl) (id hpa n : Nat) (s : State) : State :=
  s.onPort fun p => { p with abuf := none, pend := p.pend ++ [⟨.a, c, s.gen, none, [.away id hpa n false], 0, Mark.empty, false⟩] }
/-- The command of a packet that has been refused, or that goes on its way again, in the place it has among the port's commands. -/
def Pend.markAway (id : Nat) (carried sent : Bool) (p : Pend) : Pend :=
  let mark (m : Micro) : Micro := match m with
    | .away k h n x => .away k h n (if k = id then carried else x)
    | m => m
  if p.standsFor id then { p with sent := sent, ops := p.ops.map mark } else p
def Core.markAway (id : Nat) (carried sent : Bool) (c : Core) : Core :=
  { c with port := { c.port with pend := c.port.pend.map (Pend.markAway id carried sent) } }
/-- The command of a merged addend takes the place of the carried one's (R174; log entry 95). -/
def State.mergeCmd (id : Nat) (s : State) : State :=
  (s.onPort fun p => { p with abuf := none }).onCore (Core.markAway id false false)

/-- An addend for a slice of this module: merged into a carried one, or with space of its own (R173, R174). -/
def aaccSend (t : Ctag) (c : Ocl) (hpa frame : Nat) (scale : Option Int) (d : QEntry) (m : Mark) (s : State) : WordRes :=
  let (lanes, inv, sat) := sendLanes d.val scale
  let fx := scale.isSome
  match s.core.mergeWith hpa fx c with
  | some i =>
    let e := s.core.carry i
    let (sum, f) := addLanes fx (s.core.carryLanes i) lanes
    let e := { e with busy := true, tags := e.tags ++ [t], mark := e.mark.union m, timer := none }
    let s := (s.onCore (Core.putCarry i e sum (orFlags (s.core.carrySatf i) f))).countTag t
    let s := (s.setPortFlags inv sat).mergeCmd i
    .done (s.onGran fun g => { g with air := g.air ++ [s.carryPkt i] })
  | none =>
    match s.core.carrySpace (if fx then 2 else 1) with
    | none => .stall .port
    | some i =>
      let e := { CarryEntry.free with busy := true, fx := fx, cls := c, hpa := hpa, tags := [t], mark := m, frame := frame,
                                      gen := s.gen, id := s.ticks }
      let s := (s.onCore (Core.putCarry i e lanes 0)).countTag t
      let s := (s.setPortFlags inv sat).awayCmd c i hpa (if fx then 512 else 256)
      .done (s.onGran fun g => { g with air := g.air ++ [s.carryPkt i] })

/-- The reservations of a group held at this Crossroads (R297). -/
def State.groupResv (s : State) (part group : Nat) : List Nat :=
  (s.xr.resv.filter fun r => r.part == part && r.group == group).map Reservation.id
/-- The reservation of a group whose credit the next AACC of this core spends: the first that it holds one of. -/
def State.payer (s : State) (part group : Nat) : Option Nat :=
  (s.groupResv part group).find? fun id => decide (0 < s.core.redCredit id)

/-- An addend for a reduction window leaves for the Crossroads; under a reservation it spends a credit, without one it passes through every
Crossroads (R290, R297). -/
def aaccRed (t : Ctag) (c : Ocl) (d : Desc) (nodes : List Nat) (gpa : Nat) (q : QEntry) (m : Mark) (s : State) : WordRes :=
  let scale : Option Int := if d.sum then some d.scale else none
  let (lanes, inv, sat) := sendLanes q.val scale
  let group := groupKey nodes
  let payer := s.payer s.core.place.part group
  let held := !(s.groupResv s.core.place.part group).isEmpty
  if held && payer.isNone then .stall .port
  else match s.core.carrySpace (if d.sum then 2 else 1) with
    | none => .stall .port
    | some i =>
      let e := { CarryEntry.free with busy := true, fx := d.sum, cls := c, hpa := gpa, tags := [t], mark := m, red := true,
                                      credit := payer, gen := s.gen, id := s.ticks }
      let s := (s.onCore (Core.putCarry i e lanes 0)).countTag t
      let s := match payer with
        | some r => s.onCore fun k => k.setRedCredit r (k.redCredit r - 1)
        | none => s
      let s := (s.setPortFlags inv sat).awayCmd c i 0 0
      let p := { s.carryPkt i with red := some ⟨s.core.place.part, group, d.home, d.hvf, gpa, scale, none⟩, lanes := lanes, resv := payer }
      .done (s.onXr fun x => { x with redIn := x.redIn ++ [p] })

def aaccBody (ka : KR) (t : Ctag) (c : Ocl) (q : Fin 2) (off : W64) (s : State) : WordRes :=
  let ea := afEa ka off s
  let km := (s.kp ka).mark
  let stop (cause : Cause) (step : Nat) (pages : List PageMiss) (s : State) : WordRes :=
    AStop.res t.val c.val s (.fault cause step ea false 0 pages)
  let pop (k : QEntry → State → WordRes) (s : State) : WordRes := match s.core.q.sq[q] with
    | [] => .stall .dataEmpty
    | d :: rest => k (Tagged.live 0 s.gen d) (s.onCore (Core.setSq q rest))
  if s.sqBound q then queueBound t.val c.val s
  else if s.core.portFull then .stall .port
  else if ea.toNat < 2 ^ 57 ∧ ea.toNat % 256 ≠ 0 then stop .align 1 [] s
  else match s.translate s.who .aacc true ea with
    | (.error e, s) => stop e.cause e.step (e.misses ea true false) s
    | (.ok (.mem hpa frame sum scale), s) =>
      if sum && ea.toNat % 512 != 0 then stop .align 1 [] s
      else if s.locBad (.mem hpa frame) (if sum then 512 else 256) then stop .integrity 5 [] s
      else pop (fun d s => aaccSend t c hpa frame (if sum then some scale else none) d (d.mark.union km) s) s
    | (.ok (.red d nodes gpa), s) =>
      if d.sum && ea.toNat % 512 != 0 then stop .align 1 [] s
      else pop (fun e s => aaccRed t c d nodes gpa e (e.mark.union km) s) s
    | (.ok _, s) => stop .permission 7 [] s
/-- AACC (R170). -/
def execAacc (w g : Tok) (ka : KR) (t : Ctag) (c : Ocl) (q : Fin 2) (s : State) : Out := runShort w g (needK (aaccBody ka t c q 0)) s
def execAaccOffset (w g : Tok) (ka : KR) (t : Ctag) (c : Ocl) (q : Fin 2) (off : W32) (s : State) : Out :=
  runLong w g (needK (aaccBody ka t c q (imm64 off))) s

/-! ### FLUSHC and re-sends (R174, R176) -/

/-- How many bytes of a home a packet is for, and its lanes as bytes. -/
def AaccPkt.span (p : AaccPkt) : Nat := if p.fx then 512 else 256
def AaccPkt.bytes (p : AaccPkt) : List Byte := p.lanes.flatMap fun l => natLe l.toNat (if p.fx then 8 else 4)
/-- A carried addend sent again on its own. -/
def State.resend (i : Nat) (s : State) : State :=
  let s := s.onCore fun c => (c.onCarry i fun e => { e with busy := true, timer := none }).markAway i false true
  let p := s.carryPkt i
  (s.ringAsk s.core.id p.hpa p.span p.bytes true).onGran fun g => { g with air := g.air ++ [p] }
/-- The entries that wait for a re-send. -/
def Core.carriedIx (c : Core) : List Nat := (c.port.carry.filter fun kv => kv.2.valid && !kv.2.busy && !kv.2.pair2).map Prod.fst
/-- FLUSHC (R176). -/
def execFlushc (w g : Tok) (s : State) : Out := runShort w g (simply fun s => s.core.carriedIx.foldl (fun s i => s.resend i) s) s

/-! ### SUMST (R177) -/

/-- The 4 KiB pieces of the range: where each lies, its frame, whether it is a sum region. -/
def sumPieces : Nat → W64 → State → Except (TrErr × W64) (List (Nat × Nat × Bool)) × State
  | 0, _, s => (.ok [], s)
  | n + 1, ea, s => match s.translate s.who .home false ea with
    | (.error e, s) => (.error (e, ea), s)
    | (.ok (.mem hpa frame sum _), s) => (match sumPieces n (ea + 4096) s with
      | (.ok l, s) => (.ok ((hpa, frame, sum) :: l), s)
      | r => r)
    | (.ok _, s) => (.error (permErr, ea), s)

def sumstBody (ka : KR) (t : Ctag) (c : Ocl) (q : Fin 4) (off : W64) (s : State) : WordRes :=
  let ea := afEa ka off s
  if s.lqBound q then queueBound t.val c.val s
  else if s.core.portFull then .stall .port
  else if ea.toNat < 2 ^ 57 ∧ ea.toNat % 262144 ≠ 0 then AStop.res t.val c.val s (.fault .align 1 ea false 0 [])
  else match sumPieces 64 ea s with
    | (.error (e, a), s) => AStop.res t.val c.val s (.fault e.cause e.step a false 0 (e.misses a false false))
    | (.ok l, s) => .done (s.acceptCmd t c [.sumFlags l q] 0 Mark.empty)
def execSumst (w g : Tok) (ka : KR) (t : Ctag) (c : Ocl) (q : Fin 4) (s : State) : Out := runShort w g (needK (sumstBody ka t c q 0)) s
def execSumstOffset (w g : Tok) (ka : KR) (t : Ctag) (c : Ocl) (q : Fin 4) (off : W32) (s : State) : Out :=
  runLong w g (needK (sumstBody ka t c q (imm64 off))) s

/-! ### The input queue of a slice (R172, R288) -/

def State.sliceQ (s : State) (n : Nat) : SliceQ := Sparse.get SliceQ.init s.gran.queues n
def State.setSliceQ (n : Nat) (q : SliceQ) (s : State) : State :=
  s.onGran fun g => { g with queues := Sparse.set SliceQ.init g.queues n q }
def AaccPkt.lines (p : AaccPkt) : Nat := if p.fx then 4 else 2
def SliceQ.occupied (q : SliceQ) : Nat := (q.q.map AaccPkt.lines).foldl (· + ·) 0
def quotaKey (slice : Nat) (c : CoreId) : Nat := (slice * 64 + c.part) * 512 + c.num
/-- What becomes of a packet that arrives: 0 accepted, 1 refused, 2 waiting with TRIES 3, 3 held behind one that waits. -/
def State.verdict (slice : Nat) (p : AaccPkt) (s : State) : Nat :=
  let q := s.sliceQ slice
  let fits := q.occupied + p.lines ≤ 256
  if (q.waiting ++ q.held).any fun w => w.core == p.core then 3
  else if p.tries = 3 then (if fits then 0 else 2)
  else if !fits then 1
  else if 192 < q.occupied ∧ 64 ≤ Sparse.get 0 s.gran.quota (quotaKey slice p.core) then 1
  else 0
/-- The verdict carried out. -/
def State.takeIn (slice verdict : Nat) (p : AaccPkt) (s : State) : State :=
  let q := s.sliceQ slice
  match verdict with
  | 0 =>
    let k := quotaKey slice p.core
    (s.setSliceQ slice { q with q := q.q ++ [p] }).onGran fun g => { g with quota := Sparse.set 0 g.quota k (Sparse.get 0 g.quota k + p.lines) }
  | 1 => s.onGran fun g => { g with refusals := g.refusals ++ [p] }
  | 2 => s.setSliceQ slice { q with waiting := q.waiting ++ [p] }
  | _ => s.setSliceQ slice { q with held := q.held ++ [p] }
/-- WHO of an accumulate's record: the function that sent it, the home's for a sum out of a reduction window, its first tag and the verdict. -/
def State.aaccWho (s : State) (p : AaccPkt) (verdict : Nat) : Nat :=
  whoCode p.core.num (match p.red with | some k => k.hvf | none => s.vfOn p.core) (((p.tags.head?.map fun t => t.tag.val).getD 0) * 4 + verdict)
/-- A packet taken in with a verdict, in its turn; none while the replay unit holds it (R416, R417). -/
def State.takeTurn (slice v : Nat) (p : AaccPkt) (s : State) : Option State :=
  (s.choose 2 p.core.part (s.logicalSlice p.core.part slice) (s.aaccWho p v)).map fun s => s.takeIn slice v p
/-- The verdict that a log may name in place of the slice's own: an acceptance only where the lines fit, and a packet with TRIES 3 is never
refused (R172, R288). -/
def State.otherVerdict (slice : Nat) (p : AaccPkt) (v : Nat) (s : State) : Option Nat :=
  if p.tries = 3 then (if v = 0 then some 2 else none)
  else if v = 0 then some 1
  else if (s.sliceQ slice).occupied + p.lines ≤ 256 then some 0 else none
/-- A packet judged, as the replay unit lets it be (R172, R416, R417): none while it is held. -/
def State.judge (slice : Nat) (p : AaccPkt) (s : State) : Option State :=
  let v := s.verdict slice p
  if v = 3 then some (s.takeIn slice 3 p)
  else (s.takeTurn slice v p).orElse fun _ => (s.otherVerdict slice p v).bind fun w => s.takeTurn slice w p

/-! ### The home (R170, R290, R294) -/

/-- The saturation flags of the lines of a packet raised. -/
def State.raiseSat (hpa satf : Nat) (s : State) : State :=
  (List.range 4).foldl (fun s k =>
    if satf / 2 ^ k % 2 = 1 then s.onMem fun m => m.setLine (hpa / 128 + k) { m.line (hpa / 128 + k) with sat := true } else s) s
/-- The contexts whose addend a packet carries, on this module. -/
def State.sumSources (p : AaccPkt) (s : State) : List CoreId :=
  match p.red with
  | none => [p.core]
  | some _ => ((p.tags.filter fun t => t.node == s.mgmt.node).map TagNote.core).dedup
/-- A packet applied: each lane added to its word, in one action; a packet of a stale generation is discarded (R267). One that reads a poisoned line
kills the contexts it came from (R414). -/
def State.applySum (p : AaccPkt) (s : State) : State :=
  if p.gen ≠ (s.partAt p.core.part).gen then s
  else if s.poisoned p.hpa (if p.fx then 512 else 256) then { s with agenda := ((s.sumSources p).map fun c => .poison c p.hpa) ++ s.agenda }
  else
    let w := if p.fx then 8 else 4
    let old := (List.range 64).map fun i => (BitVec.ofNat 64 (leNat (s.seen p.core.part (p.hpa + w * i) w)) : W64)
    let (sum, f) := addLanes p.fx old p.lanes
    let bs := sum.flatMap fun v => natLe v.toNat w
    let s := s.writeData p.core.part p.gen .accum p.hpa p.frame bs p.mark
    if p.fx then s.raiseSat p.hpa (orFlags f p.satf) else s

/-- A command on its way has arrived, or is no longer on its way. -/
def Core.dropAway (id : Nat) (c : Core) : Core :=
  { c with port := { c.port with pend := c.port.pend.filter fun p => !(p.ops.any fun m => match m with
    | .away k _ _ _ | .cast k _ _ => k == id
    | _ => false) } }
/-- Tags to be reported. -/
def Core.report (l : List Ctag) (c : Core) : Core := { c.wake with port := { c.port with compl := c.port.compl ++ l } }

/-- The completion notice of a reduction packet for one addend of this module: the entry of that AACC is freed, its tag reported, and the
credit it spent returned while the reservation it was spent on stands, to the port even when its context has been killed (R294, R297). -/
def State.redDone (n : TagNote) (s : State) : State :=
  s.atCore n.core fun c =>
    match c.port.carry.find? fun kv => kv.2.red && kv.2.busy && !kv.2.pair2 && kv.2.id == n.id && kv.2.tags == [n.tag] with
    | none =>
      (match c.port.redOwed.find? fun x => x.1 == n.id with
        | some x => s.giveRedCredit x.2 { c with port := { c.port with redOwed := c.port.redOwed.filter fun y => y.1 != n.id } }
        | none => c)
    | some (i, e) =>
      let c := ((c.freeCarry i).dropAway i).report [n.tag]
      match e.credit with
      | some r => s.giveRedCredit r c
      | none => c
/-- Notices for every addend of a reduction packet, each toward its own module. -/
def State.notify (tags : List TagNote) (s : State) : State :=
  let s := (tags.filter fun t => t.node == s.mgmt.node).foldl (fun s t => s.redDone t) s
  let far := tags.filter fun t => t.node != s.mgmt.node
  let nodes := (far.map TagNote.node).dedup
  nodes.foldl (fun s n => s.tell n (.done (far.filter fun t => t.node == n))) s
/-- What an applied packet's source learns: its entries are freed and its tags reported (R173, R148). -/
def State.applied (p : AaccPkt) (s : State) : State :=
  match p.red with
  | some _ => s.notify p.tags
  | none => match p.carryIx with
    | none => s
    | some i => s.atCore p.core fun c =>
      if (c.carry i).busy then ((c.freeCarry i).dropAway i).report (p.tags.map TagNote.tag) else c

end Sys2Proof.Machine
end

