-- ==== Sys2Proof/Machine/Crossroads.lean ====
section
/-! DEFINITION. Events of the Crossroads: packets that enter, hop, wait, are delivered and park; combining slots and their reservations
(R228 to R233, R242, R248, R290 to R299). Each event changes nothing where it cannot happen. -/

namespace Sys2Proof.Machine

/-! ### Packets (R228 to R233, R242, R248) -/

/-- The i-th packet that has reached this Crossroads, when none that its core sent earlier is still to enter (R238). -/
def State.entrant (i : Nat) (s : State) : Option Packet :=
  match s.xr.arrived[i]? with
  | none => none
  | some p =>
    if (s.xr.arrived.take i).any fun q => q.src == s.mgmt.node && p.src == q.src && p.part == q.part && p.score == q.score then none
    else some p
/-- A packet taken from those that have reached this Crossroads. -/
def State.takeArrived (i : Nat) (s : State) : State := s.onXr fun x => { x with arrived := x.arrived.eraseIdx i }

/-- CROSSROADS_ENTRY: a packet with code starts a visit (R242). -/
def crossroadsEntry (i : Nat) (s : State) : State :=
  match s.entrant i with
  | none => s
  | some p =>
    if p.code.isNone then s
    else (s.takeArrived i).queueLane ⟨{ p with visits := min 255 (p.visits + 1), nv := false }, [], none⟩
def execCrossroadsEntry (i : Nat) (s : State) : Out := .next (crossroadsEntry i s)

/-- PACKET_HOP: a packet without code, away from DST, goes in the dimension-order direction or parks with BUDGET (R233). -/
def packetHop (i : Nat) (s : State) : State :=
  match s.entrant i with
  | none => s
  | some p =>
    match s.dimOrder p.dst, p.code with
    | some port, none =>
      if p.budget = 0 then (s.takeArrived i).park .budget p
      else (s.takeArrived i).sendNow { p with budget := p.budget - 1 } port none
    | _, _ => s
def execPacketHop (i : Nat) (s : State) : Out := .next (packetHop i s)

/-- PACKET_DELIVERY: a packet without code at DST (R228). -/
def packetDelivery (i : Nat) (s : State) : State :=
  match s.entrant i with
  | none => s
  | some p => if p.code.isNone && (s.dimOrder p.dst).isNone then ((s.takeArrived i).deliver p).getD s else s
def execPacketDelivery (i : Nat) (s : State) : Out := .next (packetDelivery i s)

/-- ESCAPE_TIMEOUT: the i-th waiting packet, whose adaptive channel has had no credit for 256 cycles, takes the escape channel in its
dimension-order direction (R232). -/
def escapeTimeout (i : Nat) (s : State) : State :=
  match s.xr.tx[i]? with
  | none => s
  | some t =>
    if t.back.isNone && s.dryFor t.port (t.channel false s) 256 && s.mayCross t.port (t.channel true s) t.pkt.mark && s.dimOrder t.pkt.dst == some t.port then
      (s.onXr fun x => { x with tx := x.tx.eraseIdx i }).depart t true
    else s
def execEscapeTimeout (i : Nat) (s : State) : Out := .next (escapeTimeout i s)

/-- STUCK_TIMEOUT: after 2^16 cycles without any credit toward another port than that of its dimension-order direction the packet
parks (R232). -/
def stuckTimeout (i : Nat) (s : State) : State :=
  match s.xr.tx[i]? with
  | none => s
  | some t =>
    if t.back.isNone && decide (65536 ≤ (s.gcc - t.since).toNat) && s.dimOrder t.pkt.dst != some t.port then
      (s.onXr fun x => { x with tx := x.tx.eraseIdx i }).park .stuck t.pkt
    else s
def execStuckTimeout (i : Nat) (s : State) : Out := .next (stuckTimeout i s)

/-- The lowest free slot of a partition's allotment in the park bay. -/
def State.freePark (s : State) (part : Nat) : Option Nat :=
  let l := s.limits part
  ((List.range l.parkCount).map (· + l.parkBase)).find? fun n => (s.baySlot n).isNone
/-- PARK_ARRIVAL: a parked packet at home takes a slot, or is discarded and counted; the notice counter rises either way (R248). Packets
take their slots in the order in which they reach the bay, and in replay in the order the log names (log entry 81). -/
def parkArrival (i : Nat) (s : State) : State :=
  match s.xr.parks[i]? with
  | none => s
  | some p =>
    let q := p.pkt
    if i ≠ 0 ∧ s.watched 2 3 q.part = false then s else
    let slot := s.freePark q.part
    match s.choose 3 q.part (slot.getD 64) (whoCode q.score q.vfn p.reason.code) with
    | none => s
    | some s =>
      let s := s.onXr fun x => { x with parks := x.parks.eraseIdx i, parkOrder := x.parkOrder + 1 }
      let s := match slot with
        | some n => s.setBay n (some ⟨p, s.xr.parkOrder, [], false⟩)
        | none =>
          (s.setPart q.part fun x => { x with cnt := { x.cnt with lostParks := x.cnt.lostParks + 1 } }).notice
            ⟨.lostPark, q.vfn, q.score, 0, s.gcc⟩
      s.addBead q.part q.score q.nbead
def execParkArrival (i : Nat) (s : State) : Out := .next (parkArrival i s)

/-! ### The tree of a group (R231, R290, R291) -/

/-- The coordinate one hop from c toward t in a ring of n, dimension order: up to half the ring goes up. -/
def ringStep (n c t : Nat) : Nat := if 2 * ((t + n - c) % n) ≤ n then (c + 1) % n else (c + n - 1) % n
/-- The next node of the dimension-ordered path; none at its end. -/
def State.pathStep (s : State) (c home : Nat) : Option Nat :=
  ((List.range 3).find? fun d => coord c d ≠ coord home d).map fun d =>
    c - coord c d * 16 ^ d + ringStep (max 1 (s.dimSize d)) (coord c d) (coord home d) * 16 ^ d
/-- The nodes of the path from a node to a home. -/
def State.path (s : State) (home : Nat) : Nat → Nat → List Nat
  | 0, c => [c]
  | k + 1, c => match s.pathStep c home with
    | none => [c]
    | some n => c :: State.path s home k n
/-- The Crossroads of a group's tree, ascending. -/
def State.treeNodes (s : State) (group home : Nat) : List Nat :=
  ascending ((bitsSet group 4096).flatMap fun m => s.path home 48 m).dedup
/-- The Crossroads at which a reservation asks for slots: all of its tree, or the home of a line alone (R295, R303). -/
def State.resvNodes (s : State) (group home : Nat) (line : Bool) : List Nat := if line then [home] else s.treeNodes group home
/-- The packets a slot at a node waits for: the tree children that send through it, and its local member. -/
def State.treeExpect (s : State) (node group home : Nat) : Nat :=
  ((s.treeNodes group home).filter fun c => s.pathStep c home == some node).length + (bitsSet group 4096).countP (· == node)

/-! ### Combining (R290 to R294) -/

def State.slot (s : State) (n : Nat) : Option Slot := Sparse.get none s.xr.slots n
def State.setSlot (n : Nat) (z : Option Slot) (s : State) : State := s.onXr fun x => { x with slots := Sparse.set none x.slots n z }
/-- The reservation that holds a slot. -/
def State.resvOf (n : Nat) (s : State) : Option Nat := (s.xr.resv.find? fun r => r.slots.contains n).map Reservation.id
/-- The packet that R291 forms of a slot of a reservation and its key. -/
def Slot.packet (k : RedKey) (resv : Option Nat) (z : Slot) : AaccPkt :=
  { core := ⟨z.part, 511⟩, gen := z.gen, cls := 0, hpa := k.gpa, frame := 0, fx := z.fx, lanes := z.sum, tries := 0, satf := z.satf,
    tags := z.tags, mark := z.mark, carryIx := none, red := some k, hop := none, resv := resv }
/-- A slot without a key; EXPECT is the reservation's (R291). -/
def Slot.emptied (z : Slot) : Slot := { z with key := none, fx := false, got := 0, sum := [], satf := 0, mark := Mark.empty, tags := [] }
/-- One element of a collective combined with another, and whether an FX64 sum saturated (R303). -/
def combine1 (dtype red : Nat) (a b : W64) : W64 × Bool :=
  let a32 := a.extractLsb' 0 32
  let b32 := b.extractLsb' 0 32
  match dtype, red with
  | 0, 0 => ((fadd a32 b32).1.setWidth 64, false)
  | 0, r => ((fminmax (r == 1) a32 b32).1.setWidth 64, false)
  | 7, 0 => ((a32 + b32).setWidth 64, false)
  | 7, 1 => ((if a32.slt b32 then b32 else a32).setWidth 64, false)
  | 7, _ => ((if a32.slt b32 then a32 else b32).setWidth 64, false)
  | _, _ => fxAdd a b
/-- The lanes of two packets of a key, with the flags of the lines in which an FX64 sum saturated: those of a collective as its reduction says. -/
def RedKey.addLanes (k : RedKey) (fx : Bool) (a b : List W64) : List W64 × Nat :=
  match k.coll with
  | none => Machine.addLanes fx a b
  | some t =>
    let l := (List.range 64).map fun i => combine1 t.dtype t.red (a.getD i 0) (b.getD i 0)
    (l.map Prod.fst, lineFlags (l.map Prod.snd))
/-- A packet combined in a slot: the first takes it, the later ones are added, slot value first (R292). -/
def Slot.combine (k : RedKey) (p : AaccPkt) (z : Slot) : Slot :=
  if z.got = 0 then
    { z with key := some k, fx := p.fx, got := 1, sum := p.lanes, satf := p.satf, mark := p.mark, tags := p.tags }
  else
    let (l, f) := k.addLanes z.fx z.sum p.lanes
    { z with got := z.got + 1, sum := l, satf := orFlags (orFlags z.satf (if z.fx then f else 0)) p.satf, mark := z.mark.union p.mark,
             tags := z.tags ++ p.tags }

/-- The same block of the same home, whatever the kind of the lanes. -/
def RedKey.sameBlock (a b : RedKey) : Bool := { a with scale := none } == { b with scale := none }
/-- The slot in which a packet combines; none when it passes through (R292). -/
def State.slotFor (k : RedKey) (gen : Gen) (s : State) : Option Nat :=
  let mine := s.xr.slots.filterMap fun kv => match kv.2 with
    | some z => if z.part = k.part ∧ z.group = k.group ∧ z.gen = (s.partAt k.part).gen ∧ z.gen = gen then some (kv.1, z) else none
    | none => none
  match mine.find? fun x => x.2.key == some k with
  | some x => some x.1
  | none =>
    if mine.any fun x => (x.2.key.map fun y => y.sameBlock k && y.scale.isSome != k.scale.isSome).getD false then none
    else (mine.find? fun x => x.2.key.isNone).map Prod.fst

/-- The channel of the escape class a reduction packet takes toward a port (R230). -/
def State.redChannel (s : State) (p : AaccPkt) (port : Nat) : Nat := s.dateAfter p.hop port
/-- Whether a reduction packet may go on toward its home: it is there, or its port is up and has an escape credit. -/
def State.redMay (s : State) (p : AaccPkt) (home : Nat) : Bool :=
  match s.dimOrder home with
  | none => true
  | some port => s.mayCross port (s.redChannel p port) p.mark

/-- A reduction packet at its home module: handed to the slice of its block with TRIES 3; one whose block is not as its key says is
discarded and counted (R290, R332). The data of a collective goes to the engine (R303). -/
def State.redHome (k : RedKey) (p : AaccPkt) (s : State) : State :=
  let w := if p.fx then 512 else 256
  let lost (s : State) : State :=
    (s.setPart k.part fun q => { q with cnt := { q.cnt with discarded := q.cnt.discarded + 1 } }).notify p.tags
  match k.coll with
  | some t =>
    if p.gen = (s.partAt k.part).gen then (if s.collGone t.key then s else s.onColl fun c => { c with results := c.results ++ [p] })
    else s.setPart k.part fun q => { q with cnt := { q.cnt with discarded := q.cnt.discarded + 1 } }
  | none =>
  if (s.vfAt k.hvf).part ≠ some k.part ∨ k.gpa % w ≠ 0 then lost s
  else match s.landMem (s.whoVf k.hvf) k.gpa true true with
    | (.ok (.mem hpa frame sum scale, t), s) =>
      if (if sum then some scale else none) ≠ k.scale then lost s
      else
        let s := s.setDirty k.hvf t
        s.onGran fun g => { g with air := g.air ++ [{ p with core := ⟨k.part, 511⟩, cls := 0, hpa := hpa, frame := frame, tries := 3, carryIx := none }] }
    | (_, s) => lost s
/-- A reduction packet goes on: over its port, or to the home's port. -/
def State.redOn (k : RedKey) (p : AaccPkt) (s : State) : State :=
  match s.dimOrder k.home with
  | none => s.redHome k p
  | some port =>
    let vc := s.redChannel p port
    let p := { p with carryIx := none, hop := some (port, vc) }
    (s.spend port vc p.flits).onXr fun x => { x with redOut := x.redOut ++ [(port, p)] }

/-! ### Reservations (R293, R295 to R299, R314) -/

/-- Slots of the 256 that no reservation holds, and those a partition's reservations hold here. -/
def State.freeSlots (s : State) : List Nat := (List.range 256).filter fun n => (s.slot n).isNone
def State.heldSlots (s : State) (part : Nat) : Nat := ((s.xr.resv.filter fun r => r.part == part).map fun r => r.slots.length).foldl (· + ·) 0

/-- Every core of a partition has its credits of a reservation changed. -/
def State.setCredits (part id n : Nat) (s : State) : State :=
  let g (c : Core) : Core := if c.place.part = part then c.wake.setRedCredit id n else c
  { s with core := g s.core, others := s.others.map g }

/-- A booking of this module's engine changed. -/
def State.onBooking (id : Nat) (f : Booking → Booking) (s : State) : State :=
  s.onColl fun c => { c with bookings := c.bookings.map fun b => if b.id = id then f b else b }
/-- 10 ms of real time (R3, R299). -/
def leaseTime : Nat := 10000 * microsecond
/-- The end of a lease that starts now. -/
def State.leaseEnd (s : State) : Nat := s.mgmt.power.time + leaseTime
/-- The collective of a booking: whose head or later block it is. -/
def State.bookedColl (id : Nat) (s : State) : Option Coll :=
  (s.disp.vfs.toList.flatMap Vf.colls).find? fun c => c.bookings.any fun b => b.2 == id
/-- A step of a collective issued or a request of it granted: its leases here restart (R299). -/
def State.stepped (k : CollKey) (s : State) : State :=
  ((s.collAt k).map Coll.bookings).getD [] |>.foldl (fun s b => s.onBooking b.2 fun x => { x with deadline := s.leaseEnd }) s
/-- The leases of a collective restart, here and on every other member (R299). -/
def State.keepAlive (c : Coll) (step : Bool) (s : State) : State :=
  (s.stepped c.blk.key).tellAll (c.blk.members.filter fun m => m != s.mgmt.node) (.alive c.blk.key step)
/-- A Crossroads has granted a booking: the leases of its collective restart (R299). Once all of its tree have, the members of the collective learn
that the phase's reservation stands. -/
def State.bookingGranted (id node : Nat) (s : State) : State :=
  let s := s.onBooking id fun b => { b with granted := b.granted ++ [node], waitAt := none, deadline := s.leaseEnd }
  match s.coll.bookings.find? (fun b => b.id == id), s.bookedColl id with
  | some b, some c =>
    let s := s.keepAlive c false
    if (s.resvNodes b.group b.home b.line).all b.granted.contains then
      let phase := ((c.bookings.find? fun x => x.2 == id).map Prod.fst).getD 0
      let n : Note := .booked c.blk.key phase b.home
      (s.onCollKey c.blk.key (Coll.heed n)).tellAll (c.blk.members.filter fun m => m != s.mgmt.node) n
    else s
  | _, _ => s

/-- A reservation ends: partial sums go on as packets that pass through, stale slots are cleared, its credits are withdrawn (R293, R297). -/
def State.releaseResv (id : Nat) (s : State) : State :=
  match s.xr.resv.find? fun r => r.id == id with
  | none => s.onXr fun x => { x with requests := x.requests.filter fun q => q.id != id }
  | some r =>
    let held := r.slots.filterMap fun n => (s.slot n).bind fun z =>
      if z.gen = (s.partAt z.part).gen ∧ 0 < z.got then z.key.map fun k => (k, z) else none
    let partials := held.map fun (k, z) => z.packet k (some id)
    let s := r.slots.foldl (fun s n => s.setSlot n none) s
    (s.onXr fun x => { x with resv := x.resv.filter fun y => y.id != id, requests := x.requests.filter fun q => q.id != id,
                              redIn := partials ++ x.redIn }).setCredits r.part id 0
/-- A booking ends at every Crossroads that granted it or where it waits. -/
def State.dropBooking (id : Nat) (s : State) : State :=
  match s.coll.bookings.find? fun b => b.id == id with
  | none => s
  | some b =>
    let far := (b.granted ++ b.waitAt.toList).filter fun n => n != s.mgmt.node
    let s := (s.releaseResv id).onColl fun c => { c with bookings := c.bookings.filter fun b => b.id != id }
    s.tellAll far (.drop id)
/-- A collective fails on this member and, by notice, on every other (R299, R302, R305). -/
def State.failColl (c : Coll) (outcome : Nat) (s : State) : State :=
  let n : Note := .failed c.blk.key outcome
  (s.onCollKey c.blk.key (Coll.heed n)).tellAll (c.blk.members.filter fun m => m != s.mgmt.node) n
/-- A booking that could never be granted: its collective fails with REJECT (R296). -/
def State.refuseBooking (id : Nat) (s : State) : State :=
  match s.bookedColl id with
  | some c => (s.dropBooking id).failColl c 5
  | none => s.dropBooking id

/-- A new booking for a group's tree toward a home, or for a line's one slot there: its number. -/
def State.book (part vf group count home : Nat) (leased line : Bool) (s : State) : Nat × State :=
  let id := s.mgmt.node * 2 ^ 32 + s.xr.nextResv
  let b : Booking := ⟨id, part, vf, group, count, home, [], none, leased, line, s.leaseEnd⟩
  (id, (s.onXr fun x => { x with nextResv := x.nextResv + 1 }).onColl fun c => { c with bookings := c.bookings ++ [b] })
/-- The bookings of a collective end; it starts anew with its fallback (R298). -/
def State.replanHere (k : CollKey) (s : State) : State :=
  match s.collAt k with
  | none => s
  | some c =>
    let s := c.bookings.foldl (fun s b => s.dropBooking b.2) s
    s.onCollKey k fun c => { (Coll.heed (.replan k) c) with bookings := [] }
/-- The loser of a contest before the first step releases what it has been granted and re-plans with its fallback, once, on every member; after the
first step, or without a fallback, it waits (R298). -/
def State.loseContest (id : Nat) (s : State) : State :=
  match s.bookedColl id with
  | none => s
  | some c =>
    if 0 < c.step ∨ c.begun ∨ c.blk.fallback = 0 ∨ c.fellBack then s
    else (s.replanHere c.blk.key).tellAll (c.blk.members.filter fun m => m != s.mgmt.node) (.replan c.blk.key)
/-- What a Crossroads has said of a request of this module's engine. -/
def State.heedAnswer (id node a : Nat) (s : State) : State :=
  match a with
  | 0 => s.loseContest id
  | 1 => s.bookingGranted id node
  | _ => s.refuseBooking id
/-- The answer of this Crossroads to a request: told to its own engine, or to its module. -/
def State.answer (id a : Nat) (s : State) : State :=
  if id / 2 ^ 32 = s.mgmt.node then s.heedAnswer id s.mgmt.node a else s.tell (id / 2 ^ 32) (.answer id s.mgmt.node a)

/-- Which of two waiting requests is granted first (R296). -/
def SlotReq.first (a b : SlotReq) : Bool :=
  decide (a.stamp.toNat < b.stamp.toNat) || (a.stamp == b.stamp && (decide (a.part < b.part) || (a.part == b.part && decide (a.vf ≤ b.vf))))
def firstReq : List SlotReq → Option SlotReq
  | [] => none
  | a :: l => match firstReq l with
    | none => some a
    | some b => if a.first b then some a else some b
/-- Whether a request can be granted now, and whether it ever can. -/
def State.fits (s : State) (q : SlotReq) : Bool :=
  decide (q.count ≤ s.freeSlots.length) && decide (s.heldSlots q.part + q.count ≤ (s.limits q.part).slots)
/-- A request granted, whole: the lowest free slots, EXPECT from the tree, and one credit per slot for each member port here
(R295, R297). -/
def State.grantSlots (q : SlotReq) (s : State) : State :=
  let l := s.freeSlots.take q.count
  let e := if q.line then (bitsSet q.group 4096).length else s.treeExpect s.mgmt.node q.group q.home
  let z : Slot := ⟨q.part, q.group, e, (s.partAt q.part).gen, none, false, 0, [], 0, Mark.empty, []⟩
  let s := l.foldl (fun s n => s.setSlot n (some z)) s
  let s := s.onXr fun x => { x with resv := x.resv ++ [⟨q.id, q.part, q.vf, q.group, l, q.leased⟩],
                                    requests := x.requests.filter fun y => y.id != q.id }
  let s := if (bitsSet q.group 4096).contains s.mgmt.node then s.setCredits q.part q.id q.count else s
  s.answer q.id 1
/-- The first request granted, if it fits and the replay unit lets it be; none when it has to wait. -/
def State.grantFirst (s : State) : Option State :=
  match firstReq s.xr.requests with
  | none => none
  | some q => if s.fits q then (s.choose 3 q.part 256 (whoCode 0 q.vf q.count)).map fun s => s.grantSlots q else none
/-- The grant queue moves: the first request, once it fits. Requests of this cycle are not compared before it ends, so that of several the
one that R296 names goes first. -/
def State.moveGrants (s : State) : State :=
  if ((firstReq s.xr.requests).map SlotReq.stamp) = some s.gcc then s else (s.grantFirst).getD s
/-- The end of a cycle: the requests that fit are granted in turn, and the engine of one that came in this cycle and has to wait is told
(R296, R298). -/
def State.grantTurn : Nat → State → State
  | 0, s => s
  | n + 1, s => match s.grantFirst with
    | some s => State.grantTurn n s
    | none => (s.xr.requests.filter fun q => q.stamp == s.gcc).foldl (fun s q => s.answer q.id 0) s
/-- A request reaches this Crossroads: it waits for the end of the cycle, or is refused for good (R296). -/
def State.request (q : SlotReq) (s : State) : State :=
  if (s.limits q.part).slots < q.count ∨ 256 < q.count then s.answer q.id 2
  else s.onXr fun x => { x with requests := x.requests ++ [{ q with stamp := s.gcc }] }
/-- RESERVATION_REQUEST: the r-th booking of this module's engine asks the next Crossroads of its tree, ascending (R295). -/
def reservationRequest (r : Nat) (s : State) : State :=
  match s.coll.bookings[r]? with
  | none => s
  | some b =>
    if b.waitAt.isSome then s
    else match (s.resvNodes b.group b.home b.line).find? fun n => !b.granted.contains n with
      | none => s
      | some n =>
        let q : SlotReq := ⟨b.id, s.gcc, b.part, b.vf, b.group, b.count, b.home, b.leased, b.line⟩
        let s := s.onBooking b.id fun b => { b with waitAt := some n }
        if n = s.mgmt.node then s.request q else s.tell n (.ask q)
def execReservationRequest (r : Nat) (s : State) : Out := .next (reservationRequest r s)
/-- SLOT_GRANT (R296). -/
def execSlotGrant (s : State) : Out := .next s.moveGrants
/-- SLOT_FREE_NOTICE: slot i has forwarded its sum, and the grant queue moves (R297, R298). -/
def slotFreeNotice (i : Nat) (s : State) : State :=
  match s.slot i with
  | some z => if z.key.isNone then s.moveGrants else s
  | none => s
def execSlotFreeNotice (i : Nat) (s : State) : Out := .next (slotFreeNotice i s)

/-- LEASE_EXPIRY of the r-th booking: the collective's slots are released, it fails on every member, and its credits return (R299). -/
def leaseExpiry (r : Nat) (s : State) : State :=
  match s.coll.bookings[r]? with
  | none => s
  | some b =>
    if !b.leased || decide (s.mgmt.power.time < b.deadline) then s
    else
      match s.bookedColl b.id with
      | some c => (c.bookings.foldl (fun s x => s.dropBooking x.2) s).failColl c 1
      | none => s.dropBooking b.id
def execLeaseExpiry (r : Nat) (s : State) : Out := .next (leaseExpiry r s)

/-! ### Arrival at a slot (R292) -/

/-- A slot has forwarded a sum: the members that contributed learn of it, and the notice moves their grant queues (R297, R298). -/
def State.slotFreed (tags : List TagNote) (s : State) : State :=
  let l := (tags.map TagNote.node).dedup
  (if l.contains s.mgmt.node then s.moveGrants else s).tellAll (l.filter fun n => n != s.mgmt.node) .slotFree

/-- Whether the i-th reduction packet has left its core's port (R126). -/
def State.redSent (p : AaccPkt) (s : State) : Bool :=
  match p.carryIx with
  | none => true
  | some k => ((s.coreAt p.core).map fun c => c.awayFirst k).getD true
/-- Whether an AACC's packet passes through: it was sent without a credit, or under a reservation that does not stand here any more (R293, R297). -/
def State.passes (k : RedKey) (p : AaccPkt) (s : State) : Bool :=
  k.coll.isNone && !((p.resv.map fun r => s.xr.resv.any fun x => x.id == r).getD false)
/-- A packet that passes takes its turn where it meets slots of its group, which it might have found free in another order, and where a collective's data
is at its home (R292, R303; log entry 80). -/
def State.passTurn (k : RedKey) (p : AaccPkt) (s : State) : Option State :=
  if k.coll.isSome && (s.dimOrder k.home).isNone then s.choose 3 k.part 257 (s.aaccWho p 0)
  else if s.xr.slots.any fun kv => (kv.2.map fun z => z.part == k.part && z.group == k.group).getD false then s.choose 3 k.part 258 (s.aaccWho p 0)
  else some s
/-- COMBINE_ARRIVAL: the i-th reduction packet at this Crossroads combines or passes through (R292). -/
def combineArrival (i : Nat) (s : State) : State :=
  match s.xr.redIn[i]? with
  | none => s
  | some p =>
    match p.red with
    | none => s
    | some k =>
      if !s.redSent p then s
      else
        let arrive (s : State) : State :=
          let s := s.onXr fun x => { x with redIn := x.redIn.eraseIdx i }
          match p.carryIx with
          | some id => s.atCore p.core (Core.dropAway id)
          | none => s
        match if s.passes k p then none else s.slotFor k p.gen with
        | none =>
          if s.redMay p k.home then
            (match s.passTurn k p with
              | some s => (arrive s).redOn k { p with carryIx := none }
              | none => s)
          else s
        | some n =>
          match s.slot n with
          | none => s
          | some z =>
            let z := z.combine k p
            if z.got < z.expect then
              match s.choose 3 k.part n (s.aaccWho p 0) with
              | some s => (arrive s).setSlot n (some z)
              | none => s
            else if s.redMay (z.packet k (s.resvOf n)) k.home then
              match s.choose 3 k.part n (s.aaccWho p 0) with
              | some s => (((arrive s).setSlot n (some z.emptied)).redOn k (z.packet k (s.resvOf n))).slotFreed z.tags
              | none => s
            else s
def execCombineArrival (i : Nat) (s : State) : Out := .next (combineArrival i s)

end Sys2Proof.Machine
end

