-- ==== Sys2Proof/Machine/SeqMem.lean ====
section
/-! DEFINITION. Loads, stores and atomics of S (R129 to R132). -/

namespace Sys2Proof.Machine

/-- An access of S at a place of at most 16 bytes: its request leaves on the ring or the mesh (R396, R402), and the choice of its turn at
the home's slice is recorded or forced (R415). -/
def State.homeTurn (l : Loc) (k : State → WordRes) (s : State) (bs : List Byte := []) : WordRes :=
  match s.turnAt s.core.place.part (s.accessWho 0) l with
  | some s => k (s.accessOut s.core.id l 1 bs false true)
  | none => .stall .port

/-- The bytes that a store still to perform gives a later load: none when it does not write them all. -/
def Micro.storeBytes (hpa n : Nat) : Micro → Option (List Byte × Mark)
  | .store (.mem h _) bs m => if h ≤ hpa ∧ hpa + n ≤ h + bs.length then some ((bs.drop (hpa - h)).take n, m) else none
  | _ => none
/-- The youngest of the accepted commands and stores, newest first, that touches the bytes of a load: its bytes, if it is a store of S that
writes them all (R130). -/
def forwarded (hpa n : Nat) : List Pend → Option (List Byte × Mark)
  | [] => none
  | p :: l =>
    if p.ops.any fun m => m.keys.any (linesOf hpa n).contains then
      (if p.eng = .s then
        match p.ops.findSome? (Micro.storeBytes hpa n) with
        | some r => some r
        | none => if (p.ops.any fun m => match m with
            | .store (.mem h _) bs _ => decide (h < hpa + n ∧ hpa < h + bs.length)
            | _ => true) then none else forwarded hpa n l
      else none)
    else forwarded hpa n l
/-- The bytes a load of S takes without asking the home, as the free choice lets it (R130; log entry 31): from a store of S to the same
bytes that has not performed yet, or from a line read early. -/
def State.loadLocal (l : Loc) (n : Nat) (c : Ocl) (s : State) : Option (List Byte × Mark) :=
  match l with
  | .win .. => none
  | .mem hpa frame =>
    match if s.pick 7 2 = 1 then forwarded hpa n s.core.port.pend.reverse else none with
    | some (bs, m) => some (bs, (s.pageMark frame).union m)
    | none => match s.core.port.early with
      | some e =>
        if s.pick 8 2 = 1 ∧ e.line = lineOf hpa ∧ e.gen = s.gen ∧ e.classes / 2 ^ c.val % 2 = 1 then
          some ((e.bytes.drop (hpa % 128)).take n, e.mark)
        else none
      | none => none
/-- LD (R129, R130). -/
def ldBody (d a : XR) (c : Ocl) (z : Sz) (off : W64) (s : State) : WordRes :=
  s.access .ls false true false z.bytes z.code c (fun step s => sStatus z.code c.val step s) ((s.x a).val + off) (fun _ l v =>
    match s.loadLocal l z.bytes c with
    | some (bs, m) => .done ((v.readDone l z.bytes).setX d (BitVec.ofNat 64 (leNat bs)) ((v.x a).mark.union m))
    | none =>
      if v.mustWait c (l.keys z.bytes) then .stall .port
      else v.homeTurn l (fun s =>
        let (bs, m) := s.readLoc l z.bytes
        .done ((s.readDone l z.bytes).setX d (BitVec.ofNat 64 (leNat bs)) ((s.x a).mark.union m))))
def execLd (w g : Tok) (d a : XR) (c : Ocl) (z : Sz) (s : State) : Out := runShortH w g (ldBody d a c z 0) s
def execLdOffset (w g : Tok) (d a : XR) (c : Ocl) (z : Sz) (off : W32) (s : State) : Out := runLongH w g (ldBody d a c z (imm64 off)) s

/-- The port accepts a store (R126). -/
def State.acceptStore (c : Ocl) (l : Loc) (bs : List Byte) (m : Mark) (s : State) : State :=
  s.onPort fun p => { p with pend := p.pend ++ [⟨.s, c, s.gen, none, [.store l bs m], 0, Mark.empty, false⟩] }

/-- ST: it finishes when the port accepts it (R126, R129). -/
def stBody (d a : XR) (c : Ocl) (z : Sz) (off : W64) (s : State) : WordRes :=
  s.sAccess .ls true false z.bytes z.code c ((s.x a).val + off) (fun _ l s =>
    .done (s.acceptStore c l (natLe (s.x d).val.toNat z.bytes) ((s.x d).mark.union (s.x a).mark)))
def execSt (w g : Tok) (d a : XR) (c : Ocl) (z : Sz) (s : State) : Out := runShortH w g (stBody d a c z 0) s
def execStOffset (w g : Tok) (d a : XR) (c : Ocl) (z : Sz) (off : W32) (s : State) : Out := runLongH w g (stBody d a c z (imm64 off)) s

/-! ### Atomics (R131) -/

/-- What an atomic stores: from the old word m, the operand v and the comparand c, all of w bits; the INV and CMPF bits. -/
structure AmoRes where
  new : Nat
  inv : Bool
  cmpf : Bool

/-- A result with neither status bit. -/
def amoPlain (n : Nat) : AmoRes := ⟨n, false, false⟩
def amoAddF (w m v _c : Nat) : AmoRes := amoPlain ((m + v) % 2 ^ w)
def amoMinF (w m v _c : Nat) : AmoRes := amoPlain (if sextNat w m ≤ sextNat w v then m else v)
def amoMaxF (w m v _c : Nat) : AmoRes := amoPlain (if sextNat w v ≤ sextNat w m then m else v)
def amoAndF (_w m v _c : Nat) : AmoRes := amoPlain (m &&& v)
def amoOrF (_w m v _c : Nat) : AmoRes := amoPlain (m ||| v)
def amoXorF (_w m v _c : Nat) : AmoRes := amoPlain (m ^^^ v)
def amoSwapF (_w _m v _c : Nat) : AmoRes := amoPlain v
def amoCasF (_w m v c : Nat) : AmoRes := if m = c then amoPlain v else ⟨m, false, true⟩
def amoFaddF (_w m v _c : Nat) : AmoRes :=
  let r := fadd (BitVec.ofNat 32 m) (BitVec.ofNat 32 v)
  ⟨r.1.toNat, r.2, false⟩
def amoFminF (_w m v _c : Nat) : AmoRes :=
  let r := fminmax false (BitVec.ofNat 32 m) (BitVec.ofNat 32 v)
  ⟨r.1.toNat, r.2, false⟩
def amoFmaxF (_w m v _c : Nat) : AmoRes :=
  let r := fminmax true (BitVec.ofNat 32 m) (BitVec.ofNat 32 v)
  ⟨r.1.toNat, r.2, false⟩

/-- An atomic applied at its home (R131, R132). -/
def amoApply (d a b : XR) (n : Nat) (cas : Bool) (f : Nat → Nat → Nat → Nat → AmoRes) (hpa frame : Nat) (s : State) : State :=
  let w := 8 * n
  let m := leNat (s.seen s.core.place.part hpa n)
  let r := f w m ((s.x b).val.toNat % 2 ^ w) ((s.x d).val.toNat % 2 ^ w)
  let ops := (s.x a).mark.union (s.x b).mark
  let res := ((s.pageMark frame).union ops).union (if cas then (s.x d).mark else Mark.empty)
  ((s.writeData s.core.place.part s.gen .plain hpa frame (natLe r.new n) ops).setX d (BitVec.ofNat 64 m) res).writeAmost r.inv r.cmpf

/-- A floating atomic that met a sum region in the port's cache walks once more from the roots (R340); a sum region raises PERMISSION
(R287), and the place that the fresh walk gives is checked like any other (R129). -/
def amoFresh (lg : Nat) (c : Ocl) (ea : W64) (k : Nat → Nat → State → WordRes) (s : State) : WordRes :=
  let s := s.onCore (Core.dropTc fun e => decide (e.base ≤ ea.toNat ∧ ea.toNat < e.base + e.size) && !e.s2only)
  match State.translate { s.who with cached := false } .home true ea s with
  | (.ok (.mem hpa frame false _), s) =>
    if s.locBad (.mem hpa frame) (2 ^ lg) then .fault s .integrity (sStatus lg c.val 4 s) ea []
    else if s.mustWait c (linesOf hpa (2 ^ lg)) then .stall .port
    else match s.locPoison (.mem hpa frame) (2 ^ lg) with
      | some h => s.readPoison h
      | none => k hpa frame (s.noteAccess c (linesOf hpa (2 ^ lg)))
  | (.ok _, s) => .fault s .permission (sStatus lg c.val 2 s) ea []
  | (.error e, s) => .fault s e.cause (sStatus lg c.val 2 s) ea (e.misses ea true false)

/-- An atomic: S stays at it until its result is written (R126, R131). -/
def amoBody (d a b : XR) (w32 : Bool) (c : Ocl) (float cas : Bool) (f : Nat → Nat → Nat → Nat → AmoRes) (s : State) : WordRes :=
  let n := if w32 then 4 else 8
  let lg := if w32 then 2 else 3
  let ea := (s.x a).val
  let go (hpa frame : Nat) (s : State) : WordRes :=
    State.homeTurn (.mem hpa frame) (fun s => .done (amoApply d a b n cas f hpa frame s)) s
      (natLe ((s.x b).val.toNat % 2 ^ (8 * n)) n ++ if cas then natLe ((s.x d).val.toNat % 2 ^ (8 * n)) n else [])
  s.sAccess .home true true n lg c ea (fun t l s =>
    match l with
    | .win .. => .fault s .permission (sStatus lg c.val 2 s) ea []
    | .mem hpa frame => if float && t.sum.isSome then amoFresh lg c ea go s else go hpa frame s)

/-- AMO.ADD (R131). -/
def execAmoAdd (w g : Tok) (d a b : XR) (w32 : Bool) (s : State) : Out := runShortH w g (amoBody d a b w32 0 false false amoAddF) s
def execAmoAddClass (w g : Tok) (d a b : XR) (w32 : Bool) (c : Ocl) (s : State) : Out := runLongH w g (amoBody d a b w32 c false false amoAddF) s
/-- AMO.MIN (R131). -/
def execAmoMin (w g : Tok) (d a b : XR) (w32 : Bool) (s : State) : Out := runShortH w g (amoBody d a b w32 0 false false amoMinF) s
def execAmoMinClass (w g : Tok) (d a b : XR) (w32 : Bool) (c : Ocl) (s : State) : Out := runLongH w g (amoBody d a b w32 c false false amoMinF) s
/-- AMO.MAX (R131). -/
def execAmoMax (w g : Tok) (d a b : XR) (w32 : Bool) (s : State) : Out := runShortH w g (amoBody d a b w32 0 false false amoMaxF) s
def execAmoMaxClass (w g : Tok) (d a b : XR) (w32 : Bool) (c : Ocl) (s : State) : Out := runLongH w g (amoBody d a b w32 c false false amoMaxF) s
/-- AMO.AND (R131). -/
def execAmoAnd (w g : Tok) (d a b : XR) (w32 : Bool) (s : State) : Out := runShortH w g (amoBody d a b w32 0 false false amoAndF) s
def execAmoAndClass (w g : Tok) (d a b : XR) (w32 : Bool) (c : Ocl) (s : State) : Out := runLongH w g (amoBody d a b w32 c false false amoAndF) s
/-- AMO.OR (R131). -/
def execAmoOr (w g : Tok) (d a b : XR) (w32 : Bool) (s : State) : Out := runShortH w g (amoBody d a b w32 0 false false amoOrF) s
def execAmoOrClass (w g : Tok) (d a b : XR) (w32 : Bool) (c : Ocl) (s : State) : Out := runLongH w g (amoBody d a b w32 c false false amoOrF) s
/-- AMO.XOR (R131). -/
def execAmoXor (w g : Tok) (d a b : XR) (w32 : Bool) (s : State) : Out := runShortH w g (amoBody d a b w32 0 false false amoXorF) s
def execAmoXorClass (w g : Tok) (d a b : XR) (w32 : Bool) (c : Ocl) (s : State) : Out := runLongH w g (amoBody d a b w32 c false false amoXorF) s
/-- AMO.SWAP (R131). -/
def execAmoSwap (w g : Tok) (d a b : XR) (w32 : Bool) (s : State) : Out := runShortH w g (amoBody d a b w32 0 false false amoSwapF) s
def execAmoSwapClass (w g : Tok) (d a b : XR) (w32 : Bool) (c : Ocl) (s : State) : Out := runLongH w g (amoBody d a b w32 c false false amoSwapF) s
/-- AMO.CAS (R131). -/
def execAmoCas (w g : Tok) (d a b : XR) (w32 : Bool) (s : State) : Out := runShortH w g (amoBody d a b w32 0 false true amoCasF) s
def execAmoCasClass (w g : Tok) (d a b : XR) (w32 : Bool) (c : Ocl) (s : State) : Out := runLongH w g (amoBody d a b w32 c false true amoCasF) s
/-- AMO.FADD (R131, R77, R78). -/
def execAmoFadd (w g : Tok) (d a b : XR) (s : State) : Out := runShortH w g (amoBody d a b true 0 true false amoFaddF) s
def execAmoFaddClass (w g : Tok) (d a b : XR) (c : Ocl) (s : State) : Out := runLongH w g (amoBody d a b true c true false amoFaddF) s
/-- AMO.FMIN (R131, R77, R78). -/
def execAmoFmin (w g : Tok) (d a b : XR) (s : State) : Out := runShortH w g (amoBody d a b true 0 true false amoFminF) s
def execAmoFminClass (w g : Tok) (d a b : XR) (c : Ocl) (s : State) : Out := runLongH w g (amoBody d a b true c true false amoFminF) s
/-- AMO.FMAX (R131, R77, R78). -/
def execAmoFmax (w g : Tok) (d a b : XR) (s : State) : Out := runShortH w g (amoBody d a b true 0 true false amoFmaxF) s
def execAmoFmaxClass (w g : Tok) (d a b : XR) (c : Ocl) (s : State) : Out := runLongH w g (amoBody d a b true c true false amoFmaxF) s

end Sys2Proof.Machine
end

