-- ==== Sys2Proof/Machine/HomeEvents.lean ====
section
/-! DEFINITION. Events of ports and homes: accesses applied, tags reported, accumulates, monitors, multicasts, bound entries. Each event
changes nothing where it cannot happen (R126, R134, R148, R158, R170 to R178, R23). -/

namespace Sys2Proof.Machine

/-! ### HOME_APPLY -/

/-- Whether one access of a command has to come before another of the same command; rows may be read in any order, whatever the order in
which they are pushed (R150, R159). -/
def Micro.fixed (a b : Micro) : Bool :=
  match a, b with
  | _, .gathEnd _ => true
  | _, .copy _ _ _ _ _ _ true => true
  | .elemStore i n l, .elemStore j m k => decide (i < j) && l.meets n k m
  | _, .load _ _ _ _ => false
  | a, b => a.queue.isSome && b.queue.isSome
/-- The access of a command that is applied next: the free choice where none has to come before it, else the first. -/
def State.nextOp (s : State) (ops : List Micro) : Nat :=
  let j := s.pick 5 ops.length
  match ops[j]? with
  | some b => if (ops.take j).any fun a => a.fixed b then 0 else j
  | none => 0

/-- A row or an entry put where a copy wants it; none while M holds the row's group, while the queue is full, or while earlier rows or
pushes are still to come (R151, R152, R159). -/
def State.putData (earlier : List Pend) (gen : Gen) (dst : PDst) (d : Row) (m : Mark) (s : State) : Option State :=
  let live := gen = (s.partAt s.core.place.part).gen
  match dst with
  | .row r => if s.rowBusy r then none else some (if live then s.onCore (Core.setRow r d m) else s)
  | .lq q =>
    if earlier.any fun p => p.eng == .a && p.ops.any fun o => (o.rowOn s.core.place.num).isSome || o.queue == some q then none
    else if s.core.lqFull q then none
    else some (if live then s.onCore fun c => (c.pushLq q d m).wake.stir else s)

/-- What one access comes to: done, with the command's buffer; read, with what is left of it (R159); not yet; or a poisoned line read
(R414). -/
inductive OpRes
  | done (buf : Row) (m : Mark) (s : State)
  | left (op : Micro) (s : State)
  | wait
  | poison (hpa : Nat)

def OpRes.of (p : Pend) : Option State → OpRes
  | some s => .done p.buf p.mark s
  | none => .wait

/-- The saturation flags of the lines of a SUMST. -/
def State.satBits (l : List (Nat × Nat × Bool)) (s : State) : Row :=
  BitVec.ofNat 2048 (packNat 1 (fun k =>
    match l[k / 32]? with
    | some (hpa, _, true) => if (s.mem.line (hpa / 128 + k % 32)).sat && s.lineLive (hpa / 128 + k % 32) then 1 else 0
    | _ => 0) 2048)

/-- A copy inside memory (R158, R160). -/
def State.copyMem (gen : Gen) (src sf dst df n : Nat) (m : Mark) (replace : Bool) (s : State) : State :=
  let part := s.core.place.part
  let bs := s.seen part src n
  let mark := m.union (s.pageMark sf)
  let s := (s.afterRead part src n).writeData part gen .plain dst df bs mark
  if replace && gen == (s.partAt part).gen then s.setPageMark df mark else s

/-- Data just read goes where it is wanted, or waits in the port while it cannot (R159). -/
def State.putRead (earlier : List Pend) (ahead : Bool) (p : Pend) (dst : PDst) (d : Row) (m : Mark) (s : State) : OpRes :=
  match if ahead then none else s.putData earlier p.gen dst d m with
  | some s => .done p.buf p.mark s
  | none => .left (.put dst d m) s
/-- The places at whose homes an access takes its turn: those it reads or writes there, of a PSEND one beat at a time (R415). -/
def Micro.turns : Micro → List Loc
  | .prefetch .. | .away .. => []
  | .send _ _ _ l => (l.take 1).map fun x => .mem x.1 x.2
  | m => m.places.map Prod.fst
/-- A packet whose beats have been read is handed to the Crossroads; the bead counter that the PSEND names rises (R238). -/
def State.handOver (p : Packet) (bc : Option BcR) (s : State) : State :=
  let s := (s.onXr fun x => { x with arrived := x.arrived ++ [p] }).meshOut s.core.id (.packet (p.payload.length / 64))
  match bc with
  | some n => s.addBead s.core.place.part s.core.place.num n.val
  | none => s
/-- The next beat of an accepted PSEND read, with its page's earmark, or the packet handed over, which releases the slot (R237, R238). -/
def State.sendBeat (q : Pend) (slot : Fin 8) (p : Packet) (bc : Option BcR) (todo : List (Nat × Nat)) (s : State) : OpRes :=
  match todo with
  | [] => .done q.buf q.mark (s.handOver p bc)
  | (h, f) :: l =>
    if s.poisoned h 64 then .poison h
    else .left (.send slot { p with payload := p.payload ++ s.seen s.core.place.part h 64, mark := p.mark.union (s.pageMark f) } bc l)
      (s.afterRead s.core.place.part h 64)
/-- One access applied; ahead says that an earlier access of the command has still to push. -/
def State.applyOp (earlier : List Pend) (ahead : Bool) (p : Pend) (op : Micro) (s : State) : OpRes :=
  let part := s.core.place.part
  match op with
  | .load h f dst m =>
    if s.poisoned h 256 then .poison h
    else (s.afterRead part h 256).putRead earlier ahead p dst (s.seenRow part h) (m.union (s.pageMark f))
  | .put dst d m => if ahead then .wait else OpRes.of p (s.putData earlier p.gen dst d m)
  | .zero dst m => if ahead then .wait else OpRes.of p (s.putData earlier p.gen dst 0 m)
  | .storeRow r h f m =>
    if s.rowBusy r then .wait
    else
      let d := s.core.row r
      .done p.buf p.mark (s.writeData part p.gen .plain h f (rowList d.val) (d.mark.union m))
  | .storeData d h f m => .done p.buf p.mark (s.writeData part p.gen .plain h f (rowList d.val) (d.mark.union m))
  | .copy a fa b fb n m rep => if s.poisoned a n then .poison a else .done p.buf p.mark (s.copyMem p.gen a fa b fb n m rep)
  | .elemLoad i n l =>
    match s.locPoison l n with
    | some h => .poison h
    | none =>
      let (bs, m) := s.readLoc l n
      .done (rowPut p.buf (i * n) bs) (p.mark.union m) (s.readDone l n)
  | .elemStore i n l => .done p.buf p.mark (s.writeLoc part p.gen l (rowBytes p.buf (i * n) n) p.mark)
  | .gathEnd dst => OpRes.of p (s.putData earlier p.gen dst p.buf p.mark)
  | .store l bs m => .done p.buf p.mark (s.writeLoc part p.gen l bs m)
  | .sumFlags l q =>
    match l.find? fun x => x.2.2 && s.poisoned x.1 4096 with
    | some x => .poison x.1
    | none => s.putRead earlier ahead p (.lq q) (s.satBits l) (Mark.unions (l.map fun x => s.pageMark x.2.1))
  | .prefetch h n => .done p.buf p.mark (s.afterRead part h n)
  | .away .. | .cast .. => .wait
  | .send slot x bc l => s.sendBeat p slot x bc l

/-- A command or store of the core that moves, after one of its accesses: gone once it has none left, its tag to be reported. -/
def State.opDone (i j : Nat) (p : Pend) (buf : Row) (m : Mark) (s : State) : State :=
  let rest := p.ops.eraseIdx j
  let s := s.onPort fun q =>
    if rest.isEmpty then { q with pend := q.pend.eraseIdx i, compl := q.compl ++ p.tag.toList }
    else { q with pend := q.pend.set i { p with ops := rest, buf := buf, mark := m } }
  (s.onCore Core.wake).tryHalt

/-- HOME_APPLY: the i-th command or store of a core's port has one access applied (R126, R130, R150, R258). -/
def homeApply (c : CoreId) (i : Nat) (s : State) : State :=
  match s.focus c with
  | none => s
  | some s =>
    match s.core.port.pend[i]? with
    | none => s
    | some p =>
      let j := s.nextOp p.ops
      match p.ops[j]? with
      | none => s
      | some op =>
        let earlier := s.core.port.pend.take i
        let ahead := op.queue.isSome && (p.ops.take j).any fun a => a.queue == op.queue
        if op.homeSide && earlier.any fun q => op.heeds q && q.before p.eng p.cls op.keys then s
        else match s.turnsAt s.core.place.part (s.accessWho ((p.tag.map Fin.val).getD 0)) op.turns with
        | none => s
        | some v => match v.applyOp earlier ahead p op with
          | .done buf m s => s.opDone i j p buf m
          | .left op s => s.onPort fun q => { q with pend := q.pend.set i { p with ops := p.ops.set j op } }
          | .wait => s
          | .poison h => { s with agenda := .poison c h :: s.agenda }
def execHomeApply (c : CoreId) (i : Nat) (s : State) : Out := .next (homeApply c i s)

/-- The bytes that an access of a command brings to its homes (R397). -/
def State.wireBytes (s : State) (p : Pend) : Micro → List Byte
  | .storeRow r _ _ _ => rowList (s.core.row r).val
  | .storeData d _ _ _ => rowList d.val
  | .elemStore i n _ => rowBytes p.buf (i * n) n
  | .store _ bs _ => bs
  | .away id _ _ _ => ((s.gran.air.find? fun a => a.tags.any fun t => t.core == s.core.id && t.id == id).map AaccPkt.bytes).getD []
  | _ => []
/-- What an access of a command puts on the ring or the mesh: of a copy the read, and the write with what it has read. -/
def State.opOut (s : State) (p : Pend) (op : Micro) : State :=
  match op with
  | .copy a f b g n _ _ => (s.accessOut s.core.id (.mem a f) n).accessOut s.core.id (.mem b g) n (s.seen s.core.place.part a n)
  | op => op.places.foldl (fun s l => s.accessOut s.core.id l.1 l.2 (s.wireBytes p op) p.addend) s
/-- Whether a command is a multicast. -/
def Pend.isCast (p : Pend) : Bool := p.ops.any fun m => match m with
  | .cast .. => true
  | _ => false
/-- The cycle in which the rows of a multicast that issues now are written on a die: on the sender's own die 40 cycles later; on another, after a
free time, and not before those of an earlier multicast of its order (R178, R255, R266; log entry 96). -/
def State.castDue (m : McastPkt) (s : State) : W64 :=
  let due := s.gcc + BitVec.ofNat 64 Config.mcastCycles
  if m.die = siteDie (s.siteOf m.src) then due
  else
    let far := due + BitVec.ofNat 64 (s.pick (32 + m.die) 64)
    (s.gran.mcasts.filterMap fun q =>
      if q.src == m.src && q.fromNode == m.fromNode && q.node == m.node && q.die == m.die && sameOrder q.cls m.cls then q.due else none).foldl
      (fun a b => if 0 < (b - a).toInt then b else a) far
/-- The last request of the i-th command or store goes to the ring, once nothing it must follow is left (R147); multicasts follow each other
without waiting. For a multicast that is its issue slot, which fixes when its rows are written (R178). -/
def State.portSends (c : CoreId) (i : Nat) (s : State) : State :=
  match s.focus c with
  | none => s
  | some s =>
    match s.core.port.pend[i]? with
    | none => s
    | some p =>
      if p.sent || p.behind ((s.core.port.pend.take i).filter fun q => !(p.isCast && q.isCast && q.sent)) then s
      else
        let mine (m : McastPkt) : Bool := m.src == s.core.id && m.fromNode == s.mgmt.node && p.ops.any fun o => match o with
          | .cast id _ _ => id == m.id
          | _ => false
        let s := p.ops.foldl (fun s op => s.opOut p op) s
        let s := (s.gran.mcasts.filter mine).foldl (fun s m => s.meshRows m) s
        ((s.onPort fun q => { q with pend := q.pend.set i { p with sent := true } }).onGran fun g =>
          { g with mcasts := g.mcasts.map fun m => if mine m then { m with due := some (s.castDue m) } else m }).onCore Core.wake

/-- Whether an address may be read early for a later load of S, and for which classes: nothing of S that orders them is left to perform, no
command of another engine to its line, but for an accumulate, which is not accepted before its home applies it (R170, R258), no
wait of S is under way, and the replay unit does not watch the order of S's accesses (R130, R257, R415). -/
def State.earlyClasses (s : State) (hpa : Nat) : Nat :=
  let c := s.core
  if c.place.run != .running || c.waits.waitm.isSome || c.waits.bar.isSome || s.watched 1 1 c.place.part || s.watched 2 1 c.place.part
    || s.poisoned hpa 1 || s.badBlock c.place.part hpa 1 then 0
  else
    let free := (List.range 16).filter fun k => !(c.port.pend.any fun p => !p.addend && p.before .s (Fin.ofNat 16 k) [lineOf hpa])
    (free.map fun k => 2 ^ k).foldl (· + ·) 0
/-- A line is read for later loads of S whose class lets them perform ahead of the accesses before them (R130; log entry 31). -/
def State.readEarly (c : CoreId) (hpa : Nat) (s : State) : State :=
  match s.focus c with
  | none => s
  | some s =>
    let m := s.earlyClasses hpa
    if m = 0 then s
    else
      let l := lineOf hpa
      s.onPort fun p => { p with early := some ⟨l, s.seen s.core.place.part (l * 128) 128, s.pageMark (frameOf hpa), s.gen, m⟩ }

/-- COPY_COMPLETION: the oldest tag to be reported (R148); the job may end once nothing is outstanding (R176). -/
def copyCompletion (c : CoreId) (s : State) : State :=
  match s.focus c with
  | none => s
  | some s => match s.core.port.compl with
    | [] => s
    | t :: rest =>
      ((s.onPort fun p => { p with compl := rest }).onCore fun k =>
        let k' := k.completeTag t
        if k'.regs.ctags = k.regs.ctags then k'.wake else k'.wake.stir).tryHalt
def execCopyCompletion (c : CoreId) (s : State) : Out := .next (copyCompletion c s)

/-! ### Accumulates -/

/-- Whether a packet in the air may reach its slice: its port may send it, and no earlier packet of its channel is in the air (R171). -/
def State.mayArrive (i : Nat) (p : AaccPkt) (s : State) : Bool :=
  !((s.gran.air.take i).any fun q => q.core == p.core && q.cls == p.cls && sliceOf q.hpa == sliceOf p.hpa)
    && (match p.carryIx with
      | none => true
      | some k => ((s.coreAt p.core).map fun c => c.awayFirst k).getD true)

/-- AACC_ARRIVAL: the i-th packet in the air reaches its slice and is judged (R172, R288). -/
def aaccArrival (i : Nat) (s : State) : State :=
  match s.gran.air[i]? with
  | none => s
  | some p =>
    if !s.mayArrive i p then s
    else
      let s' := s.onGran fun g => { g with air := g.air.eraseIdx i }
      (s'.judge (sliceOf p.hpa) p).getD s
def execAaccArrival (i : Nat) (s : State) : Out := .next (aaccArrival i s)

/-- AACC_APPLY: a slice applies the packet at the head of its queue (R170, R288). -/
def aaccApply (slice : Nat) (s : State) : State :=
  let q := s.sliceQ slice
  match q.q with
  | [] => s
  | p :: rest => ((s.setSliceQ slice { q with q := rest }).applySum p).applied p
def execAaccApply (slice : Nat) (s : State) : Out := .next (aaccApply slice s)

/-- QUOTA_WINDOW_START: the counts restart in a cycle whose GCC[9:0] is 0, once (R288). -/
def execQuotaWindowStart (s : State) : Out :=
  .next (if fld s.gcc 0 10 = 0 ∧ s.gran.window ≠ s.gcc then s.newWindow else s)

/-- The packets held at a station, judged in their order; one that a replay holds back keeps those behind it there (R288, R417). -/
def judgeHeld (slice : Nat) : List AaccPkt → State → State
  | [], s => s
  | h :: l, s => match s.judge slice h with
    | some s => judgeHeld slice l s
    | none => (h :: l).foldl (fun s h => s.takeIn slice 3 h) s
/-- The held packets of a source that no longer waits are judged. -/
def State.freeHeld (slice : Nat) (c : CoreId) (s : State) : State :=
  let q := s.sliceQ slice
  judgeHeld slice (q.held.filter fun h => h.core == c) (s.setSliceQ slice { q with held := q.held.filter fun h => h.core != c })
/-- The i-th waiting packet enters the queue if its lines fit and its turn has come; then the packets held behind it are judged. -/
def State.enterWaiting (slice i : Nat) (s : State) : Option State :=
  let q := s.sliceQ slice
  match q.waiting[i]? with
  | none => none
  | some p =>
    if 256 < q.occupied + p.lines then none
    else ((s.setSliceQ slice { q with waiting := q.waiting.eraseIdx i }).takeTurn slice 0 p).map fun s => s.freeHeld slice p.core
/-- HELD_PACKET_ENTRY: the first waiting packet that may enters; where none may, the packets that a replay has put back are judged again, those of
sources that do not wait (R288, R417). -/
def heldPacketEntry (slice : Nat) (s : State) : State :=
  let q := s.sliceQ slice
  match (List.range q.waiting.length).findSome? fun i => s.enterWaiting slice i with
  | some s => s
  | none => match q.held.find? fun h => q.waiting.all fun w => w.core != h.core with
    | some h => s.freeHeld slice h.core
    | none => s
def execHeldPacketEntry (slice : Nat) (s : State) : Out := .next (heldPacketEntry slice s)

/-- REFUSAL_RECEIPT: the i-th refusal reaches its port; the entries hold a carried addend and its timer starts (R173, R174). -/
def refusalReceipt (i : Nat) (s : State) : State :=
  match s.gran.refusals[i]? with
  | none => s
  | some p =>
    let s := s.onGran fun g => { g with refusals := g.refusals.eraseIdx i }
    match p.carryIx with
    | none => s
    | some k => s.atCore p.core fun c =>
      if !(c.carry k).busy then c
      else
        let t := s.gcc + BitVec.ofNat 64 Config.retryCycles
        (((c.onCarry k fun e => { e with valid := true, busy := false, tries := e.tries + 1, timer := some t })).markAway k true true).wake
def execRefusalReceipt (i : Nat) (s : State) : Out := .next (refusalReceipt i s)

/-- Whether a time has come (R4). -/
def State.reached (s : State) (t : W64) : Bool := decide (0 ≤ (s.gcc - t).toInt)
/-- CARRY_RESEND: the timer of a carried addend has run out (R174). -/
def carryResend (c : CoreId) (entry : Nat) (s : State) : State :=
  match s.focus c with
  | none => s
  | some s =>
    let e := s.core.carry entry
    match e.timer with
    | some t => if e.valid && !e.busy && !e.pair2 && s.reached t then s.resend entry else s
    | none => s
def execCarryResend (c : CoreId) (entry : Nat) (s : State) : Out := .next (carryResend c entry s)

/-! ### Monitors (R134) -/

/-- The status an event gives (R134). -/
def monStatus : MonEvent → Nat
  | .write => 0
  | .lost => 2
  | .wake => 4
/-- The event that has ended a core's monitor, if one has. -/
def State.monWhy (c : CoreId) (s : State) : Option MonEvent := (s.gran.monitors.find? fun m => m.core == c).bind Monitor.why
/-- A WAITM of a core given its status, that of the first event where its monitor has had one; its monitor falls away. -/
def State.wakeMonitor (c : CoreId) (st : Nat) (s : State) : State :=
  let st := ((s.monWhy c).map monStatus).getD st
  match s.coreAt c with
  | none => s
  | some k => match k.waits.waitm with
    | some w =>
      if w.status.isSome then s
      else
        let s := s.onGran fun g => { g with monitors := g.monitors.filter fun m => m.core != c }
        (s.meshDown c .urgent).atCore c fun k => { k.wake with waits := { k.waits with waitm := some { w with status := some st } } }
    | none => s
/-- A wake of a monitor at its slice, recorded or in its turn (R134, R415). -/
def State.monitorTurn (c : CoreId) (st : Nat) (s : State) : State :=
  let line := ((s.gran.monitors.find? fun m => m.core == c).map Monitor.line).getD 0
  match s.choose 4 c.part (s.logicalSlice c.part (sliceOf (line * 128))) (whoCode c.num (s.vfOn c) st) with
  | some s => s.wakeMonitor c st
  | none => s
/-- MONITOR_EVENT: what ended a monitor reaches its core (R134). -/
def monitorEvent (c : CoreId) (e : MonEvent) (s : State) : State :=
  if s.monWhy c ≠ some e then s
  else s.monitorTurn c (monStatus e)
def execMonitorEvent (c : CoreId) (e : MonEvent) (s : State) : Out := .next (monitorEvent c e s)
/-- MONITOR_TIMEOUT: the timeout has counted out; the clock brings it in that cycle, and again while a replay holds it (R134, R417). -/
def monitorTimeout (c : CoreId) (s : State) : State :=
  match (s.coreAt c).bind fun k => k.waits.waitm.bind WaitmState.deadline with
  | some t => if s.reached t then s.monitorTurn c (((s.monWhy c).map monStatus).getD 3) else s
  | none => s
def execMonitorTimeout (c : CoreId) (s : State) : Out := .next (monitorTimeout c s)

/-! ### Multicasts (R178, R266) -/

/-- Whether an MCAST's command has no row left to write. -/
def State.mcastOver (id : Nat) (src : CoreId) (s : State) : Bool := !(s.gran.mcasts.any fun m => m.id == id && m.src == src)
/-- The command of an MCAST completes once its last row is written. -/
def State.mcastEnd (id : Nat) (src : CoreId) (s : State) : State :=
  if !s.mcastOver id src then s
  else s.atCore src fun c =>
    let tags := c.port.pend.flatMap fun p => if (p.ops.any fun m => match m with
      | .cast k _ _ => k == id
      | _ => false) then p.tag.toList else []
    (c.dropAway id).report tags
/-- The rows of one packet written in the members of a die, each with its own current generation. -/
def State.mcastRows (p : McastPkt) (s : State) : State :=
  if p.gen ≠ (s.partAt p.src.part).gen then s
  else p.members.foldl (fun s n => s.atCore ⟨p.src.part, n⟩ (Core.setRow p.row p.data p.mark)) s
/-- The cores of this module whose row an MCAST has still to write are fewer by those of a die (R151, R178). -/
def Pend.castWritten (id : Nat) (members : List Nat) (p : Pend) : Pend :=
  let less (m : Micro) : Micro := match m with
    | .cast k r cs => .cast k r (if k = id then cs.filter fun n => !members.contains n else cs)
    | m => m
  { p with ops := p.ops.map less }
def Core.castWritten (id : Nat) (members : List Nat) (c : Core) : Core :=
  { c with port := { c.port with pend := c.port.pend.map (Pend.castWritten id members) } }
/-- MCAST_TARGET_WRITE: the i-th packet reaches its members, on this module in the cycle that its issue slot fixed (R178, R266); a packet
for another module leaves. The module a row came from learns once its last die is written. -/
def mcastTargetWrite (i : Nat) (s : State) : State :=
  match s.gran.mcasts[i]? with
  | none => s
  | some p =>
    let late := (s.gran.mcasts.take i).any fun q =>
      q.src == p.src && q.fromNode == p.fromNode && sameOrder q.cls p.cls && q.node == p.node && q.die == p.die
    let local_ := p.fromNode == s.mgmt.node
    let due := if p.node = s.mgmt.node then p.due = some s.gcc else p.due.isSome
    if late || (local_ && !due) then s
    else if p.node ≠ s.mgmt.node then
      if s.gran.mcastOut.contains p then s else (s.onGran fun g => { g with mcastOut := g.mcastOut ++ [p] }).tell p.node (.row p)
    else
      let s := (s.onGran fun g => { g with mcasts := g.mcasts.eraseIdx i }).mcastRows p
      if local_ then (s.atCore p.src (Core.castWritten p.id p.members)).mcastEnd p.id p.src
      else if s.gran.mcasts.any fun q => q.id == p.id && q.src == p.src && q.fromNode == p.fromNode then s
      else s.tell p.fromNode (.written p.src p.id s.mgmt.node)
def execMcastTargetWrite (i : Nat) (s : State) : Out := .next (mcastTargetWrite i s)

/-- A row from another module: one packet for each die that holds members, which are written each at its own time (R255, R266). -/
def State.rowsIn (p : McastPkt) (s : State) : State :=
  let die (n : Nat) : Nat := siteDie (s.siteOf ⟨p.src.part, n⟩)
  let dies := if p.members.isEmpty then [p.die] else (p.members.map die).dedup
  (s.onGran fun g => { g with mcasts := g.mcasts ++ dies.map fun d => { p with die := d, members := p.members.filter fun n => die n == d } }).meshRowsIn p

/-! ### Bound queues (R23) -/

/-- BOUND_ENTRY_ARRIVAL: the i-th entry on its way reaches the peer's load queue, once it has room (R53); while the peer runs no job it is
discarded, its credit returns and RESIDUE is set; while the peer's context is saved it stays on its way. -/
def boundEntryArrival (i : Nat) (s : State) : State :=
  match s.gran.boundAir[i]? with
  | none => s
  | some b =>
    let id : CoreId := ⟨b.src.part, b.peer⟩
    let running := ((s.taskAt b.task).bind fun t => t.seat b.peer) == some .running
    let here := ((s.coreAt id).map fun c => c.runsTask b.task).getD false
    if (s.gran.boundAir.take i).any fun x => x.src == b.src && x.peer == b.peer && x.plq == b.plq then s
    else if running && !here then s
    else if running && ((s.coreAt id).map fun c => c.lqFull b.plq).getD false then s
    else
      let s := s.onGran fun g => { g with boundAir := g.boundAir.eraseIdx i }
      if running then
        s.atCore id fun c => { c.wake.stir with q := { c.q with lq := c.q.lq.set b.plq (c.q.lq[b.plq] ++ [b.e]) } }
      else
        ((s.returnCredits b.src b.task b.sq 1).meshToCore id b.src .response false).setTask b.task fun t => { t with residue := true }
def execBoundEntryArrival (i : Nat) (s : State) : Out := .next (boundEntryArrival i s)

end Sys2Proof.Machine
end

