-- ==== Sys2Proof/Machine/Fabric.lean ====
section
/-! DEFINITION. The Granary ring, the mesh and the slices' service (R394 to R406). Each event changes nothing where it cannot happen. -/

namespace Sys2Proof.Machine

/-! ### QoS words (R394) -/

def qosGwt (q : W32) : Nat := fld q 24 8
def qosMwt (q : W32) : Nat := max 1 (fld q 16 8)
def qosRshare (q : W32) : Nat := fld q 8 8

/-! ### Service of a slice (R395) -/

def deficitKey (slice part : Nat) : Nat := slice * 64 + part
def State.sliceDeficit (s : State) (slice part : Nat) : Int := Sparse.get 0 s.gran.deficits (deficitKey slice part)
def State.setSliceDeficit (slice part : Nat) (d : Int) (s : State) : State :=
  s.onGran fun g => { g with deficits := Sparse.set 0 g.deficits (deficitKey slice part) d }
/-- The first request of a partition that waits at a slice. -/
def State.firstAt (s : State) (slice part : Nat) : Option (Nat × SliceReq) :=
  match lowest (fun r => r.slice == slice && r.part == part) s.gran.reqs with
  | some i => (s.gran.reqs[i]?).map fun r => (i, r)
  | none => none
/-- The first request of a partition served, its order recorded or forced; none while it is held. -/
def State.serve (slice part : Nat) (s : State) : Option (SliceReq × State) :=
  match s.firstAt slice part with
  | none => none
  | some (i, r) =>
    (s.choose 6 part (s.logicalSlice part slice) (whoCode r.core r.vf r.lines)).map fun s =>
      (r, (s.onGran fun g => { g with reqs := g.reqs.eraseIdx i, served := g.served ++ [r] }).ringAnswer r)
/-- A visit: requests in arrival order while the deficit is positive. -/
def State.visit (slice part : Nat) : Nat → State → State
  | 0, s => s
  | n + 1, s =>
    if s.sliceDeficit slice part ≤ 0 then s
    else match s.serve slice part with
      | none => s
      | some (r, s) => State.visit slice part n (s.setSliceDeficit slice part (s.sliceDeficit slice part - r.lines))
/-- SLICE_SERVICE: one round of a slice; partitions of weight 0 are served only while no other waits. -/
def sliceService (slice : Nat) (s : State) : State :=
  let gwt (p : Nat) : Nat := qosGwt (s.partAt p).qos
  let waiting (s : State) (p : Nat) : Bool := (s.firstAt slice p).isSome
  let parts := List.range 48
  if parts.any fun p => waiting s p && decide (0 < gwt p) then
    parts.foldl (fun s p =>
      if gwt p = 0 then s
      else if waiting s p then
        State.visit slice p s.gran.reqs.length (s.setSliceDeficit slice p (s.sliceDeficit slice p + gwt p))
      else s.setSliceDeficit slice p 0) s
  else match parts.find? (waiting s) with
    | none => s
    | some p => ((s.serve slice p).map Prod.snd).getD s
def execSliceService (slice : Nat) (s : State) : Out := .next (sliceService slice s)

/-! ### The ring (R396 to R400) -/

/-- The owner code of a station, 0 to 102 in ring order: core stations, Granary ports, bridges. -/
def stationCode (k : Nat) : Nat :=
  if k = 0 then 0x64
  else if k ≤ 24 then k - 1
  else if k = 25 then 0x60
  else if k ≤ 49 then k - 2
  else if k = 50 then 0x61
  else if k ≤ 74 then k - 3
  else if k = 75 then 0x62
  else if k = 76 then 0x65
  else if k ≤ 100 then k - 5
  else if k = 101 then 0x63
  else 0x66
/-- The stations of a five-site part that have no core, and never insert a message (R396). -/
def coreless (station : Nat) : Bool := Config.fiveSites && decide (stationCode station < 96) && stationCode station % 6 == 5
/-- RING_INSERTION: a message that waits at a station takes an empty lane of the slot passing it, owned by the station or free. -/
def ringInsertion (die station lane : Nat) (s : State) : State :=
  if 3 < lane ∨ 102 < station ∨ 3 < die ∨ coreless station then s
  else
    let slot := slotAt (stationPos station) s.gcc
    let key := ringLaneKey die slot lane
    let owner := s.ringOwner die slot lane
    if (Sparse.get none s.fab.slots key).isSome || !(owner == stationCode station || owner == 0xFF) then s
    else match lowest (fun w => w.1 == die && w.2.src == station) s.fab.waiting with
      | none => s
      | some i => s.onFab fun f => { f with slots := Sparse.set none f.slots key (f.waiting[i]?.map Prod.snd), waiting := f.waiting.eraseIdx i }
def execRingInsertion (die station lane : Nat) (s : State) : Out := .next (ringInsertion die station lane s)

/-- Row-lanes a die's table gives each owner: ports 128, bridges 32, core stations the RSHARE of their partition (R400). -/
def State.ringShares (s : State) (die : Nat) : List (Nat × Nat) :=
  let fixed := [0x60, 0x61, 0x62, 0x63].map (fun c => (c, 128)) ++ [0x64, 0x65, 0x66].map fun c => (c, 32)
  let cores := s.cores.filter fun c => c.place.site / 128 == die && (s.partAt c.place.part).st != .free
    && decide (c.place.num < (s.partAt c.place.part).sites.length)
  fixed ++ cores.map fun c => (6 * (c.place.site / 8 % 16) + s.stationIn c.place.site, qosRshare (s.partAt c.place.part).qos)
/-- The owners of a row's lanes given out so far, and whether one is left. -/
def rowLoad (rows : List (List Nat)) (r : Nat) : Nat := (rows.getD r []).length
def laneFree (rows : List (List Nat)) (r : Nat) : Bool := decide (rowLoad rows r < 4)
/-- The ways to go k rows on from a first row, over rows that have a free lane, with every gap from lo to hi: for each row reached the distances
from the first row, the last one first. -/
def rowChains (rows : List (List Nat)) (lo hi first : Nat) : Nat → List (List Nat)
  | 0 => if laneFree rows first then [[0]] else []
  | k + 1 =>
    let l := rowChains rows lo hi first k
    (List.range 256).filterMap fun d =>
      if laneFree rows ((first + d) % 256) then (l.find? fun c => decide (c.headD 0 + lo ≤ d) && decide (d ≤ c.headD 0 + hi)).map (d :: ·) else none
/-- The sets of n rows with a free lane whose gaps, round the table, all lie from lo to hi. -/
def rowSets (rows : List (List Nat)) (n lo hi : Nat) : List (List Nat) :=
  (List.range hi).flatMap fun first => ((rowChains rows lo hi first (n - 1)).filter fun c =>
    decide (c.headD 0 + lo ≤ 256) && decide (256 ≤ c.headD 0 + hi)).map fun c => c.map fun d => (first + d) % 256
/-- Of some sets of rows the first of those with the fewest lanes given out. -/
def leastLoaded (rows : List (List Nat)) (l : List (List Nat)) : Option (List Nat) :=
  let load (c : List Nat) : Nat := c.foldl (fun n r => n + rowLoad rows r) 0
  l.foldl (fun best c => match best with
    | some b => if load c < load b then some c else best
    | none => some c) none
/-- The n rows that lie most evenly: the widest and the narrowest gap between them differ by as little as the free lanes allow (R400). -/
def evenestRows (rows : List (List Nat)) (n : Nat) : Option (List Nat) :=
  (List.range 256).findSome? fun spread => leastLoaded rows ((List.range (spread + 1)).flatMap fun j =>
    rowSets rows n (max 1 (256 / n - j)) (256 / n - j + spread))
/-- An owner's row-lanes are dealt out, as evenly as the rows allow; where fewer rows have a free lane than the owner has row-lanes, each in the
next row that has one (R400; log entry 100). -/
def dealLanes (rows : List (List Nat)) (owner : Nat × Nat) : List (List Nat) :=
  let put (rows : List (List Nat)) (r : Nat) : List (List Nat) := rows.modify r (· ++ [owner.1])
  if owner.2 = 0 then rows
  else match evenestRows rows owner.2 with
    | some l => l.foldl put rows
    | none => (List.range owner.2).foldl (fun rows j =>
        match (List.range 256).find? fun k => laneFree rows ((j * 256 / owner.2 + k) % 256) with
        | some k => put rows ((j * 256 / owner.2 + k) % 256)
        | none => rows) rows
/-- The compiled rows of a die: the owners of most row-lanes are dealt out first; what is left is free. -/
def ringRows (shares : List (Nat × Nat)) : List W32 :=
  let rows := (shares.insertionSort fun a b => b.2 ≤ a.2).foldl dealLanes (List.replicate 256 [])
  rows.map fun row => BitVec.ofNat 32 (packNat 8 (fun lane => row.getD lane 0xFF) 4)
/-- Whether a die's core stations ask for more than the 416 row-lanes left for them. -/
def State.ringFits (s : State) : Bool :=
  (List.range 4).all fun die => decide (((s.ringShares die).filter fun x => decide (x.1 < 96)).foldl (fun n x => n + x.2) 0 ≤ 416)
/-- Every die's table compiled anew. -/
def State.compileRings (s : State) : State :=
  (List.range 4).foldl (fun t die => t.onFab fun f => { f with ring := Sparse.setMany 0xFFFFFFFF f.ring (ringRowKey die 0) (ringRows (s.ringShares die)) }) s

/-! ### The mesh (R401 to R406) -/

def MeshOut.age (m : MeshOut) (pkt : Nat) : Nat := ((m.ages.find? fun a => a.1 == pkt).map Prod.snd).getD 0
/-- The first of some flits by a test of order. -/
def firstFlit (before : Flit → Flit → Bool) : List Flit → Option Flit
  | [] => none
  | f :: l => match firstFlit before l with
    | none => some f
    | some g => if before g f then some g else some f
def lowerInput (a b : Flit) : Bool := decide (a.port < b.port) || (a.port == b.port && decide (a.vc < b.vc))
/-- A choice of an output: the flit, and whether it is sent under a turn. -/
inductive MeshPick | free (f : Flit) | held (f : Flit) | turn (f : Flit) | none
deriving DecidableEq, Repr
/-- The flit an input sends in its turn: channels 0, 1 and 2 in round robin after the one it served last. -/
def MeshOut.fromInput (m : MeshOut) (cands : List Flit) (port : Nat) : Option Flit :=
  let last := ((m.lastVc.find? fun x => x.1 == port).map Prod.snd).getD 2
  [1, 2, 3].findSome? fun k => cands.find? fun f => f.port == port && f.vc == (last + k) % 3
/-- Whether a packet is promoted: its age has reached the threshold, now or in an earlier cycle (R404). -/
def MeshOut.isOld (m : MeshOut) (mage pkt : Nat) : Bool := decide (mage ≤ m.age pkt) || m.promoted.contains pkt
/-- The flit sent for a multicast's or a promoted packet's: its own, or, while another packet is under way on its channel, that packet's next
(log entry 99). -/
def MeshOut.standIn (m : MeshOut) (cands : List Flit) (f : Flit) : Option Flit :=
  if m.lets f then some f else cands.find? fun g => g.vc == f.vc && m.under.contains (g.vc, g.pkt)
/-- The choice of one cycle (R405). -/
def MeshOut.choose (mage : Nat) (cands : List Flit) (m : MeshOut) : MeshPick :=
  let ready := cands.filter m.lets
  let old := cands.filter fun f => m.isOld mage f.pkt && (m.standIn cands f).isSome
  match (firstFlit lowerInput (cands.filter fun f => f.multicast && (m.standIn cands f).isSome)).bind (m.standIn cands),
        (firstFlit (fun a b => decide (m.age b.pkt < m.age a.pkt) || (m.age a.pkt == m.age b.pkt && lowerInput a b)) old).bind (m.standIn cands),
        firstFlit lowerInput (ready.filter fun f => f.vc == 3 && decide (3 ≤ m.vc3Ago)) with
  | some f, _, _ => .free f
  | _, some f, _ => .free f
  | _, _, some f => .free f
  | _, _, _ =>
    match if 0 < m.budget then m.fromInput ready m.turn else none with
    | some f => .held f
    | none => match [1, 2, 3, 4, 5, 6].findSome? fun k => m.fromInput ready ((m.turn + k) % 6) with
      | some f => .turn f
      | none => .none
/-- The flit a choice sends. -/
def MeshPick.flit : MeshPick → Option Flit
  | .free f | .held f | .turn f => some f
  | .none => Option.none
/-- One cycle of an output: ages rise for the candidates' packets when none of their flits was chosen, the flit leaves. -/
def MeshOut.cycle (mage : Nat) (mwt : Nat → Nat) (cands : List Flit) (m : MeshOut) : MeshOut :=
  let pkts := (cands.map Flit.pkt).dedup
  let held := cands.any fun f => f.port == m.turn
  let old := { m with promoted := m.promoted ++ pkts.filter fun p => m.isOld mage p && !m.promoted.contains p }
  let leave (f : Flit) (m' : MeshOut) : MeshOut :=
    let aged := (pkts.filter (· != f.pkt)).map fun p => (p, m.age p + 1)
    let mine := if f.last then [] else (m.ages.filter fun a => a.1 == f.pkt)
    let kept := m.ages.filter fun a => !pkts.contains a.1
    { m' with ages := aged ++ mine ++ kept, sent := f :: m.sent, vc3Ago := if f.vc = 3 then 0 else min 3 (m.vc3Ago + 1),
              under := (if f.last then [] else [(f.vc, f.pkt)]) ++ m.under.filter (fun x => x.1 != f.vc),
              promoted := if f.last then old.promoted.filter (· != f.pkt) else old.promoted }
  let served (f : Flit) : List (Nat × Nat) := (f.port, f.vc) :: m.lastVc.filter fun x => x.1 != f.port
  match m.choose mage cands with
  | .free f =>
    leave f { m with budget := if held then m.budget else 0 }
  | .held f => leave f { m with budget := m.budget - 1, lastVc := served f }
  | .turn f => leave f { m with turn := f.port, budget := mwt f.part - 1, lastVc := served f }
  | .none => { old with vc3Ago := min 3 (m.vc3Ago + 1), budget := if held then m.budget else 0, ages := pkts.map (fun p => (p, m.age p + 1)) ++ m.ages.filter fun a => !pkts.contains a.1 }
/-- An output after the cycles since it was last arbitrated, in which it had no candidate: a turn has ended. -/
def MeshOut.idle (gcc : W64) (m : MeshOut) : MeshOut :=
  match m.last with
  | some c => if c + 1 = gcc then m else { m with budget := 0, vc3Ago := min 3 (m.vc3Ago + (gcc - c).toNat - 1) }
  | none => m
/-- MESH_ARBITRATION: an output chooses once in a cycle, and the flit chosen goes on (R404, R405). -/
def meshArbitration (die stop : Nat) (port : Fin 6) (s : State) : State :=
  if 3 < die ∨ 15 < stop then s
  else
    let k := meshKey die stop port.val
    let mage := s.mage die
    let m := Sparse.get MeshOut.init s.fab.mesh k
    if m.last = some s.gcc then s
    else
      let cands := s.meshCands die stop port.val
      let m := m.idle s.gcc
      let m' := { m.cycle mage (fun p => qosMwt (s.partAt p).qos) cands with last := some s.gcc }
      let s := s.onFab fun f => { f with mesh := Sparse.set MeshOut.init f.mesh k m' }
      match (m.choose mage cands).flit with
      | some f => s.meshSend die stop port.val f
      | none => s
def execMeshArbitration (die stop : Nat) (port : Fin 6) (s : State) : Out := .next (meshArbitration die stop port s)
/-- The outputs that have a candidate in this cycle. -/
def State.meshDue (s : State) : List Agent :=
  s.fab.inputs.flatMap fun kv => ((List.finRange 6).filter fun p => !(s.meshCands (kv.1 / 16) (kv.1 % 16) p.val).isEmpty).map
    fun p => .mesh (kv.1 / 16) (kv.1 % 16) p

end Sys2Proof.Machine
end

