-- ==== Sys2Proof/Machine/Fetch.lean ====
section
/-! DEFINITION. What an agent turns to next: the fetch and the skipping of text words, breakpoints, the errand instruction of a
lane, the clock, and what reaches the module from outside. -/

namespace Sys2Proof.Machine

/-- What an agent's move comes to: an instruction to execute, or nothing more. -/
inductive Turn
  | run (i : Instr) (s : State)
  | over (s : State)

/-! ### A text word (R11 to R14, R91 to R93) -/

/-- The length of a word in text words: LONG counts on every word (R91). -/
def wordLen (w : W32) : Nat := if bit w 22 then 2 else 1
/-- Whether an engine executes a word; the reserved tags count as S's (R11). -/
def ownsWord (e : Engine) (w : W32) : Bool :=
  fld w 29 3 == 7 || fld w 29 3 == e.tag || (e == .s && (fld w 29 3 == 5 || fld w 29 3 == 6))
/-- Whether an engine cannot pass a word at the end of the text (R92): an ERET of S in the handler goes elsewhere, and a control word decides
for itself. -/
def offEnd (e : Engine) (inHandler : Bool) (pc : Nat) (w : W32) : Bool :=
  (bit w 22 && decide (Config.textWords ≤ pc + 1))
    || (fld w 29 3 != 7 && decide (Config.textWords ≤ pc + wordLen w)
      && !(e == .s && inHandler && fld w 29 3 == 0 && fld w 16 6 == 0x37))

/-- V passes a BIND word of A: from here on its pushes go to the bound queue, unless A has executed the word already (R180). -/
def State.noteBind (w : W32) (s : State) : State :=
  if s.act = .v ∧ fld w 29 3 = 1 ∧ fld w 16 6 = 0x14 ∧ after (s.eng .a).six s.me.six = false then
    s.onQ fun q => { q with binds := q.binds ++ [(s.me.six, Fin.ofNat 2 (fld w 15 1))] }
  else s

/-- A word of another engine is skipped as far as the slip allows; S in the handler keeps its stream index (R12, R14, R143). -/
def State.skip (w : W32) (s : State) : State :=
  let e := s.act
  let len := wordLen w
  if s.core.slips e len && !(s.core.regs.hmode && e == .s) then s.onEng e (Eng.wait .slip)
  else (s.noteBind w).onCore (Core.moveOn e (s.me.pc + len) len)

/-- Whether the engine's own word at its index is a breakpoint it has not been let past (R369). -/
def State.atBreakpoint (s : State) : Bool :=
  let b := s.core.regs.bkpt
  let x := s.me
  bit b 31 && fld b 28 3 == s.act.ix.val && fld b 0 14 == x.pc && !x.seen && !x.popped && !x.done && fld s.curWord 29 3 != 7

/-- The engine that moves at its next word. -/
def State.wordTurn (s : State) : Turn :=
  let w := s.curWord
  if offEnd s.act s.core.regs.hmode s.me.pc w then .over (illegalControl s)
  else if !ownsWord s.act w then .over (s.skip w)
  else match decodeWord w (s.core.wordAt (s.me.pc + 1)) with
    | .error r => .run (.illegalWord r) s
    | .ok i => if s.atBreakpoint then .run (.breakpointHit s.core.id) s else .run i s

/-- Whether an engine of the core that moves may take a turn: its context runs, it has not stopped, halted or faulted, and no hard
stop holds it; a WAITM that a stop found finishes first (R134). -/
def State.mayMove (e : Engine) (s : State) : Bool :=
  let x := s.eng e
  s.core.place.run == .running && !x.atPoint && x.blk != .atHalt && x.blk != .faulted
    && (!s.core.walk.hardStop || (e == .s && s.core.waits.waitm.isSome))

/-- M's oldest signal that found its queue full: it is pushed once there is room, and M stalls until then (R19). -/
def State.pushSignal (d : Engine) (s : State) : State :=
  if s.core.tokRoom .m d then (s.onMat fun m => { m with sigs := m.sigs.tail }).onCore fun c => (c.addTok .m d (· + 1)).wake.stir
  else s.onEng .m (Eng.wait .tokenFull)
/-- The turn of an engine of a core. -/
def State.engineTurn (c : CoreId) (e : Engine) (s : State) : Turn :=
  match s.focus c with
  | none => .over s
  | some s =>
    let s := { s with act := e }
    if !s.mayMove e then .over s
    else match if e = .m then s.core.mat.sigs.head? else none with
      | some d => .over (s.pushSignal d)
      | none => s.wordTurn

/-! ### An errand lane (R242) -/

/-- The turn of a lane: the instruction its packet stands at; one that does not decode parks the packet with ILLEGAL. -/
def State.laneTurn (n : Nat) (s : State) : Turn :=
  let s := { s with lane := n }
  match s.laneJob n with
  | none => .over s
  | some j =>
    match decodeErrand ((j.pkt.code.getD []).getD j.pkt.pc 0) with
    | .ok i => .run i s
    | .error _ => .over (s.parkLane .illegal j.pkt)

/-! ### The clock (R45, R23) -/

/-- Whether an engine is blocked for a reason inside its context. -/
def insideWait : Block → Bool
  | .tokenWait | .tokenFull | .dataEmpty | .dataFull | .slip | .journal | .kAhead => true
  | _ => false
/-- Whether V stands at a VPOP of a load queue that is bound from a peer: while it is empty V waits on that core (R23). -/
def Core.popsPeer (c : Core) : Bool :=
  let w := c.wordAt (c.eng .v).pc
  (c.eng .v).blk == .dataEmpty && fld w 29 3 == 2 && fld w 16 6 == 0x28 && (c.q.boundFrom[(Fin.ofNat 4 (fld w 0 2))]).isSome
/-- Whether every engine of a context is blocked with a reason from 1 to 6 or with reason 16, and for nothing outside it. -/
def Core.stalled (c : Core) : Bool :=
  c.place.run == .running && !c.popsPeer && engines.all fun e => insideWait (c.eng e).blk && !(c.eng e).atPoint
/-- One cycle of a core's mutual-stall counter. -/
def Core.tick (c : Core) : Core := { c with walk := { c.walk with stall := if c.stalled then c.walk.stall + 1 else 0 } }
/-- The time of a cycle charged to the functions whose tasks hold cores, a core-microsecond for each core, where a microsecond ends (R37). -/
def State.chargeCores (n : Nat) (s : State) : State :=
  if n = 0 then s
  else
    let held (v : Nat) : Nat :=
      (s.cores.filter fun c => c.place.task.isSome && c.place.vf == v && !(s.partAt c.place.part).isSealed).length
    s.onDisp fun d => { d with vfs := Vector.ofFn fun i => { d.vfs[i] with deficit := d.vfs[i].deficit - n * held i.val } }
/-- Whether a microsecond of real time ends in the cycle that has just begun. -/
def State.microsecondEnds (s : State) : Bool := decide (s.mgmt.power.time % microsecond < cycleTime s.mgmt.power.clock)
/-- Real time goes on by a cycle. -/
def State.passTime (s : State) : State :=
  let t := s.mgmt.power.time
  let t' := t + cycleTime s.mgmt.power.clock
  (s.onMgmt fun m => { m with power := { m.power with time := t' } }).chargeCores (t' / microsecond - t / microsecond)
/-- One cycle of the module: the counters move, real time passes, and the quotas of a new window of 1,024 cycles start (R288). -/
def State.tick (s : State) : State :=
  let s := { s with gcc := s.gcc + 1, core := s.core.tick, others := s.others.map Core.tick }.passTime.ringTurn.meshTurn
  if fld s.gcc 0 10 = 0 then s.newWindow else s

/-! ### Programs of the host's question -/

/-- A core that runs, with a word and its extension at text word 0 and every engine there. -/
def Core.withWord (w : Nat) (c : Core) : Core :=
  { c with place := { c.place with run := .running },
           walk := { Walk.init with text := Sparse.setMany 0 [] 0 [BitVec.ofNat 32 w, BitVec.ofNat 32 (w / 2 ^ 32)] } }
/-- A packet at this node with an errand instruction as its first. -/
def errandPacket (s : State) (w : Nat) : Packet :=
  { dst := s.mgmt.node, src := s.mgmt.node, tc := 1, vc := 2, esc := false, part := s.core.place.part, vfn := s.core.place.vf,
    mark := Mark.empty, budget := 0, visits := 1, clone := false, cld := 0, msg := false, w := Vector.replicate 4 0,
    places := Vector.replicate 4 0, sp := 0, pc := 0, next := 0, nv := false, came := 6, nbead := 0, gen := s.gen,
    score := s.core.place.num, dcore := 0, dbead := 0, daddr := 0, code := some (BitVec.ofNat 16 w :: List.replicate 15 0),
    payload := [] }

end Sys2Proof.Machine
end

