-- ==== Sys2Proof/Machine/Lanes.lean ====
section
/-! DEFINITION. V's operands and results: active lanes, segments, the write of a vector register, and the functions of lanes that
the V words compute (R182 to R202). -/

namespace Sys2Proof.Machine

/-! ### The shape (R182, R183) -/

/-- VSH.FMT, and the lanes active under VSH.NOFF: those below it. -/
def State.vFmt (s : State) : Nat := fld s.core.regs.vsh 0 4
def State.vActive (s : State) : Nat := 64 - fld s.core.regs.vsh 4 6
/-- Whether segments are in use, and the register that holds the ids. -/
def State.segOn (s : State) : Bool := fld s.core.regs.vsh 11 2 == 1
def State.segReg (s : State) : QEntry := s.v (Fin.ofNat 32 (fld s.core.regs.vsh 13 5))
/-- seg(i) (R183). -/
def State.seg (s : State) (i : Nat) : Nat := if s.segOn then (Row.lane s.segReg.val i).toNat else 0
/-- The earmark that segments bring in (R185), to the words that read segments alone: VRED, VSCAN, VNORM, VSMAX and VIDX (log entry 90). -/
def State.segMark (s : State) : Mark := if s.segOn then s.segReg.mark else Mark.empty

/-- ILLEGAL in V at execution, with what the check found (R208). -/
def vIll (check : Nat) (s : State) : WordRes := .fault s .illegal (vStatus check 1 s) 0 []
/-- A word for FP32 or INT32 lanes, and a word for FP32 lanes (R184). -/
def fpOrInt (k : Bool → State → WordRes) (s : State) : WordRes :=
  if s.vFmt = 0 then k false s else if s.vFmt = 7 then k true s else vIll 1 s
def fpOnly (k : State → WordRes) (s : State) : WordRes := if s.vFmt = 0 then k s else vIll 1 s

/-! ### Operands and results (R185) -/

/-- A V operand: its lanes and its earmark; an immediate has the same value in every lane and an empty earmark. -/
structure VArg where
  lane : Nat → W32
  mark : Mark
def State.vArg (s : State) (r : VR) : VArg :=
  let d := s.v r
  ⟨Row.lane d.val, d.mark⟩
def immArg (i : W32) : VArg := ⟨fun _ => i, Mark.empty⟩

/-- A lane's result, whether it was invalid, whether it saturated. -/
structure LaneRes where
  val : W32
  inv : Bool
  sat : Bool
def plain (v : W32) : LaneRes := ⟨v, false, false⟩
def checked (r : W32 × Bool) : LaneRes := ⟨r.1, r.2, false⟩

/-- The active lanes of VD written; a lane not written keeps its value, and VD's earmark then counts (R184, R185). -/
def State.writeActive (d : VR) (m : Mark) (f : Nat → LaneRes) (s : State) : State :=
  let n := s.vActive
  let old := s.v d
  let rs := (List.range n).map f
  let row := Row.ofLanes fun i => match rs[i]? with
    | some r => r.val
    | none => Row.lane old.val i
  (s.setVreg d row (if n < 64 then m.union old.mark else m)).setV (rs.any fun r => r.inv) (rs.any fun r => r.sat) false

/-- A word on one operand, and on two, lane by lane. -/
def vUn (d a : VR) (f : W32 → LaneRes) (s : State) : WordRes :=
  let x := s.vArg a
  .done (s.writeActive d x.mark fun i => f (x.lane i))
def vBin (d a : VR) (b : State → VArg) (f : W32 → W32 → LaneRes) (s : State) : WordRes :=
  let x := s.vArg a
  let y := b s
  .done (s.writeActive d (x.mark.union y.mark) fun i => f (x.lane i) (y.lane i))
/-- The second operand of a VR word: a register, or the immediate of the long form (R186). -/
def vReg (b : VR) (s : State) : VArg := s.vArg b
def vImm (i : W32) (_ : State) : VArg := immArg i

/-! ### Compare (R191) -/

inductive VCond | eq | ne | lt | le | gt | ge | un
deriving DecidableEq, Repr

/-- A non-NaN FP32 code as an integer in the order of values, both zeros equal. -/
def fpOrder (a : W32) : Int := if a.msb then -((a.toNat : Int) - 2 ^ 31) else a.toNat
/-- A condition on two values that are ordered. -/
def VCond.ordered (c : VCond) (x y : Int) : Bool :=
  match c with
  | .eq => x == y
  | .ne => x != y
  | .lt => decide (x < y)
  | .le => decide (x ≤ y)
  | .gt => decide (y < x)
  | .ge => decide (y ≤ x)
  | .un => false
def maskOf (b : Bool) : W32 := if b then 0xFFFFFFFF else 0
def vcmpLane (int : Bool) (c : VCond) (a b : W32) : LaneRes :=
  if int then plain (maskOf (c.ordered a.toInt b.toInt))
  else if (val32 a).isNan || (val32 b).isNan then
    ⟨maskOf (c == .ne || c == .un), (val32 a).isSnan || (val32 b).isSnan, false⟩
  else plain (maskOf (c.ordered (fpOrder a) (fpOrder b)))

/-- INT32 minimum and maximum (R187). -/
def intMinMax (isMax : Bool) (a b : W32) : W32 := if isMax == decide (a.toInt < b.toInt) then b else a

/-! ### Reductions (R198) -/

def xsum32 (l : List W32) : W32 × Bool :=
  match nanOf l with
  | some r => r
  | none => if l.isEmpty then (0, false) else sumTerms .rne (l.map val32)
def xminmax32 (isMax : Bool) (l : List W32) : W32 × Bool :=
  l.foldl (fun acc v => let r := fminmax isMax acc.1 v; (r.1, acc.2 || r.2)) (inf32 isMax, false)
/-- The reduction of lanes in ascending order, by format and operation. -/
def reduce (int : Bool) (o : RedOp) (l : List W32) : W32 × Bool :=
  match int, o with
  | false, .sum => xsum32 l
  | false, .max => xminmax32 true l
  | false, .min => xminmax32 false l
  | true, .sum => (l.foldl (· + ·) 0, false)
  | true, .max => (l.foldl (intMinMax true) 0x80000000, false)
  | true, .min => (l.foldl (intMinMax false) 0x7FFFFFFF, false)

/-- The active lanes of a segment, ascending, among the first n. -/
def State.segLanes (s : State) (n id : Nat) : List Nat := (List.range n).filter fun i => s.seg i == id

/-! ### Normalisation and softmax (R201, R202) -/

/-- Whether every lane is finite. -/
def allFinite (l : List W32) : Bool := l.all fun x => !(val32 x).isNan && !(val32 x).isInf
/-- x − m, exact, and the sign of a zero difference (R69). -/
def diff (x m : W32) : Dy × Bool :=
  (Dy.add (val32 x).dy (Dy.neg (val32 m).dy), zeroNeg .rne [val32 x, (val32 m).negate])
/-- The mean of a segment that KIND mv subtracts. -/
def normMean (k : NormKind) (l : List W32) : W32 :=
  match k with
  | .rms => 0
  | .mv => roundQuot32 (zeroNeg .rne (l.map val32)) (Dy.sum (l.map fun x => (val32 x).dy)) l.length 0
/-- v + ε of a segment, rounded as R201 says. -/
def normW (e : Nat) (m : W32) (l : List W32) : W32 :=
  let v := roundQuot32 false (Dy.sum (l.map fun x => Dy.mul (diff x m).1 (diff x m).1)) l.length 0
  if e = 0 then v else (sumTerms .rne [val32 v, .fin false 1 (-2 * (e : Int))]).1
/-- One lane of a finite segment normalised; a zero product takes the sign of x − m where that is zero too (R201, R69; log entry 107). -/
def normLane (m w x : W32) : W32 :=
  if w = 0 then 0
  else
    let d := diff x m
    let r := (val32 (frsq w).1).dy
    round32 .rne (if d.1.1 = 0 then d.2 else decide (d.1.1 < 0)) (Dy.mul d.1 r)
/-- The lanes of a segment after VNORM. -/
def vnormSeg (e : Nat) (k : NormKind) (l : List W32) : List LaneRes :=
  if allFinite l then
    let m := normMean k l
    let w := normW e m l
    l.map fun x => plain (normLane m w x)
  else l.map fun _ => ⟨defaultNan32, true, false⟩

/-- The lanes of a segment after VSMAX. -/
def vsmaxSeg (l : List W32) : List LaneRes :=
  let mx := (xminmax32 true l).1
  if l.any (fun x => (val32 x).isNan) || (val32 mx).isInf then l.map fun _ => ⟨defaultNan32, true, false⟩
  else
    let es := l.map fun x => (fexp2 (fsub x mx).1).1
    let t := (val32 (sumTerms .rne (es.map val32)).1).dy
    es.map fun x => plain (roundQuot32 false (val32 x).dy t.1.natAbs t.2)

/-! ### Accumulator tiles -/

/-- A tile as it reads: a stale one holds zeros, an empty earmark and the count 0 (R205, R213, R220). -/
def AccTile.live (g : Gen) (t : AccTile) : AccTile := if t.gen = g then t else { AccTile.init with gen := g }

/-! ### Q4X (R196, R197) -/

/-- An element as VPACKQ takes it: a number from -7 to 7, or the F8E4 byte of an outlier at a marker. -/
inductive Packed | num (q : Int) | mark (byte : Nat)
deriving DecidableEq, Repr

/-- x / s rounded to an integer, and its F8E4 code; none where x is a NaN (R196). -/
def packRound (rm : RMode) (sneg : Bool) (sm : Nat) (se : Int) : FV → Option (Int × Nat × Bool)
  | .nan .. => none
  | .inf n =>
    let neg := n != sneg
    some (if neg then -8 else 8, f8e4.maxCode neg, true)
  | .fin n m e =>
    let neg := n != sneg
    let (q, qe, st) := quot m sm (e - se)
    let k := roundAt rm neg q qe st 0
    let (code, sat) := f8e4.round rm true neg q qe st
    some (if neg then -(k : Int) else k, code, sat)

/-- The elements from i on, with the last marker's position: what each becomes, its invalid and its saturation flag. -/
def packElems (rm : RMode) (sneg : Bool) (sm : Nat) (se : Int) : Nat → Option Nat → List W32 → List (Packed × Bool × Bool)
  | _, _, [] => []
  | i, last, x :: xs =>
    match packRound rm sneg sm se (val32 x) with
    | none => (.num 0, true, false) :: packElems rm sneg sm se (i + 1) last xs
    | some (k, code, sat) =>
      if -7 ≤ k ∧ k ≤ 7 then (.num k, false, false) :: packElems rm sneg sm se (i + 1) last xs
      else if 1 ≤ i ∧ i ≤ 126 ∧ (match last with | none => true | some l => decide (l + 3 ≤ i)) = true then
        (.mark code, false, sat) :: packElems rm sneg sm se (i + 1) (some i) xs
      else (.num (if k < 0 then -7 else 7), false, true) :: packElems rm sneg sm se (i + 1) last xs

/-- Nibble i of the packed row, and whether a value was lost there to a neighbour's marker. -/
def packNibble (l : List Packed) (i : Nat) : Nat × Bool :=
  let at_ (j : Nat) : Packed := l.getD j (.num 0)
  let own : Nat := match at_ i with
    | .mark _ => 8
    | .num q => (q % 16).toNat
  match at_ i, (if i = 0 then Packed.num 0 else at_ (i - 1)), at_ (i + 1) with
  | .mark _, _, _ => (8, false)
  | _, .mark b, _ => (b % 16, own != 0)
  | _, _, .mark b => (b / 16, own != 0)
  | _, _, _ => (own, false)

/-- VPACKQ's row: its 128 nibbles and flags. -/
def packRow (rm : RMode) (scale : Nat) (xs : List W32) : List Nat × Bool × Bool :=
  match fp16.decode scale with
  | .fin neg m e =>
    if m = 0 then (List.replicate 128 0, true, false)
    else
      let l := packElems rm neg m e 0 none xs
      let ps := l.map Prod.fst
      let ns := (List.range 128).map (packNibble ps)
      (ns.map Prod.fst, l.any fun x => x.2.1, (l.any fun x => x.2.2) || (ns.any fun x => x.2))
  | _ => (List.replicate 128 0, true, false)

end Sys2Proof.Machine
end

