-- ==== Sys2Proof/Machine/Matrix.lean ====
section
/-! DEFINITION. The matrix engine: issue checks, K-steps, MZERO, MLOAD, MSAVE, MPROG and their events (R79 to R87, R209 to R225). -/

namespace Sys2Proof.Machine

/-! ### The fields of a tile reference and of a format word (R107, R108, R209) -/

def refRow0 (r : W64) : Nat := fld r 19 13
def refStep (r : W64) : Nat := if fld r 8 4 = 0 then 16 else fld r 8 4
def refKoff (r : W64) : Nat := fld r 6 2
def refScv (r : W64) : Bool := fld r 5 1 == 1
def refSgv (r : W64) : Bool := fld r 4 1 == 1
def refAux (r : W64) : Nat := fld r 32 13
def fwK (f : W32) : Nat := fld f 16 10 + 1
def fwAcc (f : W32) : AccR := Fin.ofNat 8 (fld f 28 3)
def fwSeg (f : W32) : Bool := fld f 27 1 == 1
def fwB (f : W32) : Nat := fld f 4 4

/-- How the products of a pair are added (R79). -/
inductive PairRule | exact (int : Bool) | q4x | aligned (split : Bool)
deriving DecidableEq, Repr
/-- The rule and the K-step of a pair of formats. -/
def pairRule (a b : Nat) : Option (PairRule × Nat) :=
  if (a = 3 ∨ a = 4) ∧ (b = 3 ∨ b = 4) then some (.exact false, 64)
  else if (a = 5 ∨ a = 6) ∧ (b = 5 ∨ b = 6) then some (.exact true, 64)
  else if a = 8 ∧ b = 8 then some (.q4x, 128)
  else if a = b ∧ (a = 1 ∨ a = 2) then some (.aligned false, 32)
  else if a = 0 ∧ b = 0 then some (.aligned true, 32)
  else none

/-- The bytes n elements of a format take (R209). -/
def elemSpan (fmt n : Nat) : Nat :=
  match fmt with
  | 0 => 4 * n
  | 1 | 2 => 2 * n
  | 8 => (n + 1) / 2
  | _ => n
/-- A hard stop lets the operation reach the end of the K-step it is in (R221); a resumed one goes on from there (R222). -/
def MatOp.halt (gcc : W64) (o : MatOp) : MatOp := { o with stopAt := min o.steps (max o.kdone (o.age gcc / o.cycles + 1)) }
def MatOp.resume (gcc : W64) (o : MatOp) : MatOp :=
  { o with stopAt := o.steps, issue := gcc - BitVec.ofNat 64 (o.kdone * o.cycles), rows := [] }

/-! ### Issue (R212) -/

/-- Whether a reference reads a row outside its group: its last tile row's last row, or an auxiliary row it uses (R108). -/
def refOutside (r : W64) (fmt k : Nat) : Bool :=
  let last := refRow0 r + (refCount r - 1) * refStep r + (64 * refKoff r + elemSpan fmt k - 1) / 256
  let grp := refRow0 r / 2048
  last / 2048 != grp || (refScv r && refAux r / 2048 != grp) || (refSgv r && (refAux r + 1) / 2048 != grp)

/-- What an issue comes to: the operation and what is left of FQ, MA and MB, or a cause with CHECK, STEP, ACC and REFB (R225). -/
inductive Issue
  | op (o : MatOp) (mode : RMode) (fq : List (Tagged W32)) (ma mb : List (Tagged W64))
  | bad (cause : Cause) (check step acc refb : Nat)

/-- The mode after the mode-change entries at the head of FQ, and what follows them; none when one holds no mode (R67, R107). -/
def popModes (mode : RMode) : List (Tagged W32) → Option (RMode × List (Tagged W32))
  | [] => some (mode, [])
  | e :: es =>
    if fld e.val 31 1 = 1 then
      if fld e.val 3 28 ≠ 0 then none
      else match RMode.ofCode (fld e.val 0 3) with
        | some m => popModes m es
        | none => none
    else some (mode, e :: es)

/-- Steps 4 to 8 of R212 on the references. -/
def checkRefs (fw : W32) (ra rb : W64) : Option (Cause × Nat × Nat × Nat) :=
  let k := fwK fw
  let each (f : W64 → Nat → Option (Nat × Nat)) : Option (Cause × Nat × Nat × Nat) :=
    match f ra (fwA fw), f rb (fwB fw) with
    | some (c, st), _ => some (.illegal, c, st, 0)
    | none, some (c, st) => some (.illegal, c, st, 1)
    | none, none => none
  (each fun r fmt => if fld r 45 19 ≠ 0 ∨ fld r 0 4 ≠ 0 then some (3, 5) else if refOutside r fmt k then some (4, 5) else none)
  <|> (each fun r fmt => if 256 * refStep r < 64 * refKoff r + elemSpan fmt k then some (5, 5) else none)
  <|> (each fun r fmt => if refScv r ≠ (fmt == 8) ∨ refSgv r ≠ fwSeg fw then some (6, 5) else none)
  <|> (if fwA fw = 8 ∧ k % 128 ≠ 0 then some (.illegal, 7, 5, 0) else none)
  <|> (if refGroup ra = refGroup rb then some (.bankConflict, 0, 6, 0) else none)

/-- The issue of an MMA or MMAT (R212): nothing is popped unless every check passes. -/
def State.issue (trans stamped : Bool) (sig : Tok) (s : State) : Issue :=
  let g := s.gen
  let q := s.core.q
  match popModes s.core.regs.mmode (q.fq.map (Tagged.live 0 g)) with
  | none => .bad .illegal 1 2 0 0
  | some (_, []) => .bad .fqUnderflow 0 2 0 0
  | some (mode, f :: fq) =>
    match q.ma.map (Tagged.live 0 g), q.mb.map (Tagged.live 0 g) with
    | a :: ma, b :: mb =>
      let acc := (fwAcc f.val).val
      if fld f.val 26 1 ≠ 0 ∨ fld f.val 8 8 ≠ 0 ∨ 10 ≤ fwA f.val ∨ 10 ≤ fwB f.val then .bad .illegal 1 4 acc 0
      else match pairRule (fwA f.val) (fwB f.val) with
        | none => .bad .illegal 2 4 acc 0
        | some (_, ks) =>
          match checkRefs f.val a.val b.val with
          | some (cause, check, step, refb) => .bad cause check step acc refb
          | none =>
            let n := (fwK f.val + ks - 1) / ks
            .op ⟨trans, f.val, f.mark, a.val, b.val, mode, n, 0, s.gcc, false, false, sig, n, []⟩ mode fq ma mb
    | _, _ => if stamped then .bad .scheduleMiss 0 3 0 0 else .bad .fqUnderflow 0 2 0 0

/-- M may start another MMA or MMAT: the K-steps of the one before have run, all but the last's result (R215). -/
def State.mReady (s : State) : Bool :=
  match s.core.mat.ops.getLast? with
  | none => true
  | some o => decide (o.steps ≤ o.kdone + 1) && decide (o.steps * o.cycles ≤ o.age s.gcc)

/-- The word once it may issue: the operation begins and M walks on, its signal left to the operation's end (R213, R215). -/
def issueNow (trans : Bool) (stamp : Option W32) (sig : Tok) (s : State) : WordRes :=
  match s.issue trans stamp.isSome sig with
  | .bad cause check step acc refb => .fault s cause (mStatus ((stamp.getD 0).toNat) 0 acc refb check step s) 0 []
  | .op o mode fq ma mb =>
    .done ((((s.onQ fun q => { q with fq := fq, ma := ma, mb := mb }).onRegs fun r => { r with mmode := mode })).onMat fun m =>
      { m with ops := m.ops ++ [o] })

/-- The short form waits for a reference in each queue (R212). -/
def mmaBody (trans : Bool) (sig : Tok) (s : State) : WordRes :=
  if !s.mReady then .stall .running
  else if s.core.q.ma = [] ∨ s.core.q.mb = [] then .stall .dataEmpty
  else issueNow trans none sig s
/-- M waits, running, at a stamped word; it is marked, so that the cycle of its stamp finds it. -/
def stampWait (s : State) : WordRes :=
  if s.me.popped then .stall .running else .block (s.onEng .m fun x => { x with popped := true }) .running
/-- The long form against GCC, once every earlier word allows a start (R218). -/
def mmaStampBody (trans : Bool) (t : W32) (sig : Tok) (s : State) : WordRes :=
  if !s.mReady then stampWait s
  else
    let d := t - s.gcc.setWidth 32
    if 2 ^ 31 ≤ d.toNat then .fault s .scheduleMiss (mStatus t.toNat 0 0 0 0 1 s) 0 []
    else if d = 0 then issueNow trans (some t) sig s
    else stampWait s

def execMma (w g : Tok) (s : State) : Out := runShort w none (mmaBody false g) s
def execMmat (w g : Tok) (s : State) : Out := runShort w none (mmaBody true g) s
def execMmaStamp (w g : Tok) (t : W32) (s : State) : Out := runLong w none (mmaStampBody false t g) s
def execMmatStamp (w g : Tok) (t : W32) (s : State) : Out := runLong w none (mmaStampBody true t g) s

/-- The stamp of the word at which M waits, if it waits for one. -/
def Core.stampWaited (c : Core) : Option W32 :=
  let x := c.eng .m
  let w := c.wordAt x.pc
  if x.popped && bit w 22 && fld w 29 3 == 3 && (fld w 16 6 == 1 || fld w 16 6 == 2) then some (c.wordAt (x.pc + 1)) else none
/-- STAMP_ISSUE (R218): in the cycle in which GCC[31:0] equals the stamp, the word issues. -/
def execStampIssue (c : CoreId) (s : State) : Out :=
  match s.focus c with
  | none => .next s
  | some f =>
    let f := { f with act := .m }
    if f.core.stampWaited = some (f.gcc.setWidth 32) ∧ f.mayMove .m then
      match decodeWord f.curWord (f.core.wordAt (f.me.pc + 1)) with
      | .ok (.mmaStamp w g t) => execMmaStamp w g t f
      | .ok (.mmatStamp w g t) => execMmatStamp w g t f
      | _ => .next s
    else .next s

/-! ### K-steps (R79 to R87, R213) -/

/-- A row as M reads it; the rows of the carry tile hold its entries, zero where their generation is stale (R9, R149). -/
def Core.mrow (c : Core) (r : Nat) : QEntry :=
  if Config.carryRow ≤ r then
    let e := Sparse.get CarryEntry.free c.port.carry (r - Config.carryRow)
    Tagged.live 0 c.place.gen ⟨e.data, e.gen, e.mark⟩
  else c.row r

/-- The bytes of a tile row from an offset on, of rows as they were read, and the rows they lie in (R209). -/
def tileBytes (rd : Nat → QEntry) (r : W64) (m o n : Nat) : List Byte :=
  let base := refRow0 r + m * refStep r
  (List.range n).map fun i => Row.byte (rd (base + (o + i) / 256)).val ((o + i) % 256)
def tileRows (r : W64) (m o n : Nat) : List Nat :=
  let base := refRow0 r + m * refStep r
  (List.range ((o + n - 1) / 256 - o / 256 + 1)).map fun i => base + o / 256 + i

/-- One tile row's elements in a K-step, and whether a Q4X placement was invalid (R61, R209). -/
def rowElems (fmt : Nat) (bs : List Byte) : List FV × Bool :=
  if fmt = 8 then
    let l := q4xList fun i => bs.getD i 0
    (l.map Prod.fst, l.any fun x => x.2)
  else
    let w := elemSpan fmt 1
    ((List.range (bs.length / w)).map fun i => elemFV fmt (leNat ((bs.drop (w * i)).take w)), false)

/-- An operand as one K-step sees it: per tile row its elements, its scale and its segment id; the rows read; invalid placements. -/
structure StepSide where
  elems : List (List FV)
  scales : List FV
  ids : List Nat
  rows : List Nat
  qinv : Bool

/-- 16-bit field m of an auxiliary row (R210). -/
def half16 (d : Row) (m : Nat) : Nat := (Row.byte d (2 * m)).toNat + 256 * (Row.byte d (2 * m + 1)).toNat

/-- The rows an operand reads in the K-step of elements k0 to k1 - 1 (R209, R210). -/
def sideRows (r : W64) (fmt k0 k1 : Nat) : List Nat :=
  let o := 64 * refKoff r + elemSpan fmt k0
  let n := elemSpan fmt (k1 - k0)
  ((List.range (refCount r)).flatMap fun m => tileRows r m o n) ++ (if refScv r then [refAux r] else [])
    ++ (if refSgv r then [refAux r + 1] else [])
/-- The side of an operand in the K-step of elements k0 to k1 - 1, of rows as they were read. -/
def stepSide (rd : Nat → QEntry) (r : W64) (fmt k0 k1 : Nat) : StepSide :=
  let o := 64 * refKoff r + elemSpan fmt k0
  let n := elemSpan fmt (k1 - k0)
  let ms := List.range (refCount r)
  let es := ms.map fun m => rowElems fmt (tileBytes rd r m o n)
  { elems := es.map Prod.fst
    scales := if refScv r then ms.map fun m => fp16.decode (half16 (rd (refAux r)).val m) else []
    ids := if refSgv r then ms.map fun m => half16 (rd (refAux r + 1)).val m else []
    rows := sideRows r fmt k0 k1
    qinv := es.any fun x => x.2 }

/-- A term of an element's step: a value, or infinity × 0. -/
abbrev Term := Option FV

/-- The special cases of R87: the default NaN or the infinity the element becomes, and M's invalid flag; none where all is finite. -/
def mSpecial (terms : List Term) (snan : Bool) : Option (W32 × Bool) :=
  let vs := terms.filterMap id
  let bad := terms.any Option.isNone
  match infSum vs, bad || vs.any FV.isNan with
  | .both, _ => some (defaultNan32, true)
  | _, true => some (defaultNan32, snan || bad)
  | .one n, false => some (inf32 n, false)
  | .none, false => none

/-- The 12 leading significand bits of a finite value, and the rest (R86). -/
def splitFV : FV → FV × FV
  | .fin n m e =>
    let sh := bitLen m - 12
    (.fin n (m / 2 ^ sh) (e + sh), .fin n (m % 2 ^ sh) e)
  | v => (v, v)
/-- The product of two elements; a NaN stands for itself. -/
def mProduct (a b : FV) : Term := if a.isNan then some a else if b.isNan then some b else mulFV a b
/-- The terms that position k brings in (R84, R86): an integer product has no negative zero. -/
def mTerms (rule : PairRule) (a b : FV) : List Term :=
  match rule with
  | .exact true => [(mProduct a b).map fun v => if v.isZero then .fin false 0 0 else v]
  | .aligned true =>
    match a, b with
    | .fin .., .fin .. =>
      let (ah, al) := splitFV a
      let (bh, bl) := splitFV b
      [mulFV ah bh, mulFV ah bl, mulFV al bh]
    | _, _ => [mProduct a b]
  | _ => [mProduct a b]

/-- floor(log2 |t|) of a non-zero term. -/
def topBit (d : Dy) : Int := d.2 + (bitLen d.1.natAbs - 1 : Nat)
/-- The aligned sum of finite terms (R86). -/
def alignedSum (mode : RMode) (terms : List FV) : W32 :=
  let ds := (terms.map FV.dy).filter fun d => d.1 != 0
  match ds with
  | [] => round32 mode (zeroNeg mode terms) (0, 0)
  | d :: rest =>
    let u : Int := (rest.foldl (fun e d => max e (topBit d)) (topBit d)) - 50
    let cut (d : Dy) : Int :=
      let q : Nat := if u ≤ d.2 then d.1.natAbs * 2 ^ (d.2 - u).toNat else d.1.natAbs / 2 ^ (u - d.2).toNat
      if d.1 < 0 then -(q : Int) else q
    let sum : Int := (ds.map cut).foldl (· + ·) 0
    let rem := Dy.sum (ds.map fun d => Dy.add d (Dy.neg (cut d, u)))
    let sticky : Int := if rem.1 = 0 then 0 else if rem.1 < 0 then -1 else 1
    round32 mode (zeroNeg mode terms) (4 * sum + sticky, u - 2)

/-- The scaled term of a Q4X step, and whether an input signalled (R85, R87). An invalid product is looked for before a NaN (log entry 103). -/
def q4xTerm (as bs : List FV) (sa sb : FV) : Term × Bool :=
  let snan := sa.isSnan || sb.isSnan
  let sum := Dy.sum ((as.zip bs).map fun (a, b) => Dy.mul a.dy b.dy)
  let sfv : FV := if as.any FV.isNan || bs.any FV.isNan then .nan false false 7 3 else .fin (decide (sum.1 < 0)) sum.1.natAbs sum.2
  let factors := [sfv, sa, sb]
  if factors.any FV.isZero && factors.any FV.isInf then (none, snan)
  else match factors.find? FV.isNan with
    | some v => (some v, snan)
    | none =>
      let neg := (sfv.neg != sa.neg) != sb.neg
      if factors.any FV.isInf then (some (.inf neg), snan)
      else
        let p := Dy.mul (Dy.mul (Dy.mul sum sa.dy) sb.dy) (1, 0)
        (some (if p.1 = 0 then .fin false 0 0 else .fin neg p.1.natAbs p.2), snan)

/-- kstep of R213 for one element: its new value and M's invalid flag. -/
def kElem (rule : PairRule) (mode : RMode) (acc : W32) (as bs : List FV) (sa sb : FV) : W32 × Bool :=
  let c := val32 acc
  match rule with
  | .q4x =>
    let (t, snan) := q4xTerm as bs sa sb
    (match mSpecial [some c, t] (snan || c.isSnan) with
      | some r => r
      | none => (sumTerms mode (c :: t.toList)).1 |> fun v => (v, false))
  | rule =>
    let ts := some c :: (as.zip bs).flatMap fun (a, b) => mTerms rule a b
    match mSpecial ts (c.isSnan || as.any FV.isSnan || bs.any FV.isSnan) with
    | some r => r
    | none =>
      let vs := ts.filterMap id
      match rule with
      | .aligned _ => (alignedSum mode vs, false)
      | _ => ((sumTerms mode vs).1, false)

/-- The rows of a tile after elements (i, j), i < ni, j < nj, are updated where f gives a new value; whether any was invalid. -/
def tileStep (f : Nat → Nat → W32 → Option (W32 × Bool)) (ni nj : Nat) (rows : Sparse Row) : Sparse Row × Bool :=
  ((List.range ni).flatMap fun i => [(i, 0), (i, 1)]).foldl (fun acc (i, h) =>
    if nj ≤ 64 * h then acc
    else
      let old := Sparse.get 0 acc.1 (2 * i + h)
      let rs := (List.range (min 64 (nj - 64 * h))).map fun l => f i (64 * h + l) (Row.lane old l)
      let new := Row.ofLanes fun l => match rs[l]? with
        | some (some r) => r.1
        | _ => Row.lane old l
      (Sparse.set 0 acc.1 (2 * i + h) new, acc.2 || rs.any fun r => match r with
        | some r => r.2
        | none => false)) (rows, false)

/-- The elements of K-step n. -/
def MatOp.span (ks n : Nat) (o : MatOp) : Nat × Nat := (n * ks, min (fwK o.fw) (n * ks + ks))
/-- The rows that K-step n reads, as they stand. -/
def Core.stepRows (n : Nat) (o : MatOp) (c : Core) : Sparse QEntry :=
  match pairRule (fwA o.fw) (fwB o.fw) with
  | none => []
  | some (_, ks) =>
    let (k0, k1) := o.span ks n
    (sideRows o.ra (fwA o.fw) k0 k1 ++ sideRows o.rb (fwB o.fw) k0 k1).foldl (fun l r => Sparse.set zeroRow l r (c.mrow r)) []
/-- An operation reads the rows of the K-step whose interval it is in, once in the interval (R215, R216). -/
def Core.readStep (gcc : W64) (o : MatOp) (c : Core) : MatOp :=
  let n := o.age gcc / o.cycles
  if n < o.stopAt ∧ o.rows.all (fun x => x.1 ≠ n) then { o with rows := o.rows ++ [(n, c.stepRows n o)] } else o
/-- M reads: the free choice says when in the interval, its last cycle at the latest. -/
def kread (c : CoreId) (s : State) : State :=
  match s.focus c with
  | none => s
  | some s => s.onCore fun k => { k with mat := { k.mat with ops := k.mat.ops.map fun o => k.readStep s.gcc o } }

/-- The rows of an operation's next K-step: as they were read for it, else as they stand. -/
def Core.kRows (o : MatOp) (c : Core) : Sparse QEntry := ((o.rows.find? fun x => x.1 == o.kdone).map Prod.snd).getD (c.stepRows o.kdone o)
/-- One K-step of an operation applied to its tile, from the rows read for it (R213). -/
def Core.kstepOp (o : MatOp) (c : Core) : Core × MatOp :=
  let o' := { o with kdone := o.kdone + 1, rows := o.rows.filter fun x => x.1 ≠ o.kdone }
  match pairRule (fwA o.fw) (fwB o.fw) with
  | none => (c, o')
  | some (rule, ks) =>
    let (k0, k1) := o.span ks o.kdone
    let rd (r : Nat) : QEntry := Sparse.get zeroRow (c.kRows o) r
    let a := stepSide rd o.ra (fwA o.fw) k0 k1
    let b := stepSide rd o.rb (fwB o.fw) k0 k1
    let zero : FV := .fin false 0 0
    let f (m n : Nat) (v : W32) : Option (W32 × Bool) :=
      if fwSeg o.fw && !(a.ids.getD m 0 == b.ids.getD n 0 && a.ids.getD m 0 != 0xFFFF) then none
      else some (kElem rule o.mode v (a.elems.getD m []) (b.elems.getD n []) (a.scales.getD m zero) (b.scales.getD n zero))
    let t := (c.mat.acc[fwAcc o.fw]).live c.place.gen
    let (rows, inv) := if o.trans then tileStep (fun i j => f j i) b.elems.length a.elems.length t.rows
      else tileStep f a.elems.length b.elems.length t.rows
    let mark := Mark.unions (t.mark :: o.fwMark :: (a.rows ++ b.rows).map fun r => (rd r).mark)
    let q := a.qinv || b.qinv
    let t := { t with rows := rows, mark := mark, kcount := t.kcount + 1 }
    ({ c with mat := { c.mat with acc := c.mat.acc.set (fwAcc o.fw) t } },
     { o' with minv := o.minv || inv || q, qinv := o.qinv || q })

/-- The head operation replaced. -/
def Core.setHeadOp (o : MatOp) (c : Core) : Core := { c with mat := { c.mat with ops := o :: c.mat.ops.tail } }
/-- An operation that has run its K-steps finishes: its flags are visible, and its signal follows, at once where its queue has room; else M
keeps it and stalls (R19, R213, R215). -/
def State.endOp (o : MatOp) (s : State) : State :=
  let s := (s.onMat fun m => { m with ops := m.ops.tail }).setFlags { NumFlags.zero with minv := o.minv, qinv := o.qinv }
  match o.sig with
  | none => s.onCore Core.wake
  | some d =>
    if s.core.tokRoom .m d && s.core.mat.sigs.isEmpty then s.onCore fun c => (c.addTok .m d (· + 1)).wake.stir
    else (s.onMat fun m => { m with sigs := m.sigs ++ [d] }).onCore Core.wake

/-- Whether the result of an operation's next K-step is due: six cycles after its interval (R215). -/
def MatOp.due (gcc : W64) (o : MatOp) : Bool := decide (o.kdone < o.stopAt) && decide ((o.kdone + 1) * o.cycles + 6 ≤ o.age gcc)
/-- KSTEP (R213, R215): the oldest operation's next K-step, six cycles after its interval; the last one ends the operation. -/
def kstep (c : CoreId) (s : State) : State :=
  match s.focus c with
  | none => s
  | some f =>
    match f.core.mat.ops with
    | [] => s
    | o :: _ =>
      if f.core.place.run != .running || !o.due f.gcc then s
      else
        let (k, o) := f.core.kstepOp o
        let f := { f with core := k }
        if o.steps ≤ o.kdone then f.endOp o else f.onCore fun c => (c.setHeadOp o).wake
def execKstep (c : CoreId) (s : State) : Out := .next (kstep c s)

/-! ### MZERO, MLOAD, MSAVE, MPROG (R215, R219, R220) -/

/-- The cycles a word takes. -/
def MWord.cycles : MWord → Nat
  | .zero _ => 32
  | .load .. => 128
  | .save .. => 128
  | .prog _ => 1
/-- A word starts once every earlier one has finished, and M waits at it until it finishes. -/
def mStart (x : MWord) (s : State) : WordRes :=
  match s.core.mat.word with
  | some _ => .stall .running
  | none => if s.core.mat.ops ≠ [] then .stall .running else .block (s.onMat fun m => { m with word := some (x, s.gcc) }) .running
/-- MLOAD and MSAVE check their rows when they execute (R219). -/
def mRows (c : AccR) (r : RowIx) (x : MWord) (s : State) : WordRes :=
  if r.val % 256 ≠ 0 ∨ r.val = 7936 then
    if s.core.mat.ops ≠ [] then .stall .running else .fault s .illegal (mStatus 0 0 c.val 0 8 7 s) 0 []
  else mStart x s
def execMzero (w g : Tok) (c : AccR) (s : State) : Out := runShort w g (mStart (.zero c)) s
def execMload (w g : Tok) (c : AccR) (r : RowIx) (s : State) : Out := runShort w g (mRows c r (.load c r.val)) s
def execMsave (w g : Tok) (c : AccR) (r : RowIx) (s : State) : Out := runShort w g (mRows c r (.save c r.val)) s
def execMprog (w g : Tok) (c : AccR) (s : State) : Out := runShort w g (mStart (.prog c)) s

/-- The tile's rows as scratchpad rows, and the other way (R219). -/
def Core.loadTile (a : AccR) (r : Nat) (c : Core) : Core :=
  let rows := (List.range 256).map fun i => c.row (r + i)
  let t : AccTile := { rows := Sparse.setMany 0 [] 0 (rows.map fun d => d.val), gen := c.place.gen,
                       mark := Mark.unions (rows.map fun d => d.mark), kcount := 0 }
  { c with mat := { c.mat with acc := c.mat.acc.set a t } }
def Core.saveTile (a : AccR) (r : Nat) (c : Core) : Core :=
  let t := (c.mat.acc[a]).live c.place.gen
  (List.range 256).foldl (fun c i => c.setRow (r + i) (Sparse.get 0 t.rows i) t.mark) c

/-- What a word has done when it finishes: MLOAD reads and MSAVE writes all its rows in that cycle (log entry 108). -/
def MWord.effect (x : MWord) (s : State) : State :=
  match x with
  | .zero a => s.onMat fun m => { m with acc := m.acc.set a { AccTile.init with gen := s.gen } }
  | .load a r => s.onCore (Core.loadTile a r)
  | .save a r => s.onCore (Core.saveTile a r)
  | .prog a =>
    let t := (s.core.mat.acc[a]).live s.gen
    s.onRegs fun r => { r with mps := BitVec.ofNat 64 (t.kcount.toNat * 2 ^ 32 + a.val * 2 ^ 8 + r.mmode.code) }

/-- Whether M's word has run its cycles. -/
def Core.wordDue (gcc : W64) (c : Core) : Bool := c.mat.word.any fun w => decide (w.1.cycles ≤ (gcc - w.2).toNat)
/-- M_WORD_FINISH (R215): its fixed cycles after its start the word takes effect, signals, and M moves on. -/
def mWordFinish (c : CoreId) (s : State) : State :=
  match s.focus c with
  | none => s
  | some f =>
    match f.core.mat.word with
    | none => s
    | some (x, _) =>
      if !f.core.wordDue f.gcc ∨ f.core.place.run ≠ .running then s
      else
        let f := { f with act := .m }
        let f := (x.effect f).onMat fun m => { m with word := none }
        let g : Tok := match tokField .m (fld f.curWord 23 3) with
          | .ok t => t
          | .error _ => none
        finishWord g (f.me.pc + 1) 1 f
def execMWordFinish (c : CoreId) (s : State) : Out := .next (mWordFinish c s)

end Sys2Proof.Machine
end

