-- ==== Sys2Proof/Machine/Worlds.lean ====
section
/-! DEFINITION. What the saved contexts of a sealed partition look like outside the cipher (R370; log entry 85). -/

namespace Sys2Proof.Machine

/-- The bytes of a saved context, whose order the spec does not give (log entry 85). -/
opaque imageBytes : Core → List Byte
/-- The image of a saved context as the frames of its partition hold it: encrypted, with a tag for each 256 bytes. -/
def sealedImage (k : WorldKeys) (c : Core) : List (List Byte × BitVec 64) :=
  let bs := imageBytes c
  (List.range ((bs.length + 255) / 256)).map fun i =>
    let x := Config.cipher k.aes1 k.aes2 (i * 256) ((bs.drop (i * 256)).take 256)
    (x, Config.tag k.mac (i * 256) x)
/-- The stored image of a task's context on a core, if that is a saved context of a world. -/
def State.storedImage (id : CoreId) (task : Nat) (s : State) : Option (List (List Byte × BitVec 64)) :=
  (s.disp.saved.find? fun c => c.id == id && c.runsTask task).bind fun c => ((s.vfAt c.place.vf).keys).map fun k => sealedImage k c
/-- Something outside changes a block of a stored image. -/
def State.alterImage (b : AlteredBlock) (s : State) : State :=
  if b.block < ((s.storedImage b.core b.task).getD []).length then s.onDisp fun d => { d with altered := b :: d.altered } else s
/-- Whether a block stands in the image of a task's context on a core and does not match its tag under the world's keys. -/
def AlteredBlock.failsFor (k : WorldKeys) (id : CoreId) (task : Nat) (b : AlteredBlock) : Bool :=
  b.core == id && b.task == task && Config.tag k.mac (b.block * 256) b.bytes != b.tag
/-- Whether the stored image of a context does not match its tags (R370). -/
def State.imageFails (vf : Nat) (id : CoreId) (task : Nat) (s : State) : Bool :=
  (((s.vfAt vf).keys).map fun k => s.disp.altered.any (AlteredBlock.failsFor k id task)).getD false
/-- The stored image of a context is read back, or is given up: what was changed in it is gone with it. -/
def State.dropImage (id : CoreId) (task : Nat) (s : State) : State :=
  s.onDisp fun d => { d with altered := d.altered.filter fun b => !(b.core == id && b.task == task) }

end Sys2Proof.Machine
end

