-- ==== Sys2Proof/Machine/Stops.lean ====
section
/-! DEFINITION. Stops of a context: illegal words, faults and the trap record, page records, mutual stall, poison, breakpoints, the
save and the restore (R41 to R53, R93, R344, R345, R367 to R369, R414). -/

namespace Sys2Proof.Machine

/-! ### Words that do not decode (R93, R11) -/

/-- The CHECK of a word rejected at decode: V's is 3 for an FN, OPK or KIND value, 4 for TFMT, 6 for a rounding mode; P's is 1 for an
odd KA and 5 for an extension field; any other field gives 0 (R208, R252, log entry 79). -/
def decodeCode (e : Engine) (r : Reject) : Nat :=
  match e, r with
  | .v, .fnCode => 3
  | .v, .tfmtCode => 4
  | .v, .roundMode => 6
  | .p, .oddPair => 1
  | .p, .extField => 5
  | _, _ => 0
/-- ILLEGAL_WORD: ILLEGAL_TAG in S for a reserved tag, the ILLEGAL of a control word, or ILLEGAL in the engine that owns the word. -/
def illegalWord (r : Reject) (s : State) : State :=
  if fld s.curWord 29 3 = 7 then illegalControl s
  else if r = .reservedTag then raiseFault .illegalTag (decodeStatus s) 0 [] s
  else raiseFault .illegal (decodeCheck (decodeCode s.act r) s) 0 [] s
def execIllegalWord (r : Reject) (s : State) : Out := .next (illegalWord r s)

/-! ### The trap record (R43, R367) -/

def Cause.code : Cause → Nat
  | .illegal => 1 | .illegalTag => 2 | .privilege => 3 | .mutualStall => 4 | .fqUnderflow => 5 | .bankConflict => 6
  | .scheduleMiss => 7 | .boundary => 8 | .queueBound => 9 | .frameOverrun => 10 | .stage1 => 0x10 | .stage2 => 0x11
  | .permission => 0x12 | .reservedBit => 0x13 | .integrity => 0x14 | .align => 0x15
def Block.code : Block → Nat
  | .running => 0 | .tokenWait => 1 | .tokenFull => 2 | .dataEmpty => 3 | .dataFull => 4 | .slip => 5 | .journal => 6
  | .copyTag => 7 | .monitor => 8 | .barrier => 9 | .jobnext => 10 | .port => 11 | .bead => 12 | .atHalt => 13
  | .faulted => 14 | .credit => 15 | .kAhead => 16

/-- The twenty token counts, four bits each. -/
def Core.tokenBytes (c : Core) : List Byte :=
  let l := engines.flatMap fun a => (engines.filter (· != a)).map fun b => c.tok a b
  natLe (packNat 4 (fun i => l.getD i 0) 20) 10
/-- The trap record of a fault (R43). -/
def Core.trapRecord (f : FaultRec) (resumable : Bool) (gcc : W64) (c : Core) : List Byte :=
  let q := c.q
  natLe f.cause.code 1 ++ natLe f.eng.ix.val 1 ++ natLe ((if resumable then 1 else 0) + (if f.handler then 2 else 0)) 2
    ++ natLe f.textix 4
    ++ engines.flatMap (fun e => natLe (c.eng e).pc 4 ++ natLe (c.eng e).six.toNat 4)
    ++ natLe f.istatus.toNat 8 ++ natLe f.addr.toNat 8
    ++ engines.flatMap (fun e => natLe (c.eng e).blk.code 1) ++ [0]
    ++ c.tokenBytes
    ++ (q.lq.toList.map List.length ++ q.sq.toList.map List.length ++ [q.ma.length, q.mb.length, q.fq.length]).flatMap (fun n => natLe n 1)
    ++ [Engine.a, .v, .m, .p].flatMap (fun e => natLe (c.journal e).length 1) ++ [0, 0, 0]
    ++ natLe gcc.toNat 8 ++ natLe c.place.job 8 ++ List.replicate 16 0

/-- Bytes of the ring written through the function's stage 2 alone (R367). -/
def State.ringWrite (vf part : Nat) (t : S2) (gpa : Nat) (bs : List Byte) (s : State) : State :=
  (s.setDirty vf t).writeMem part (s.partAt part).gen .plain (t.at gpa) bs
/-- A trap record in the function's ring; one that cannot be written, stage 2 or the aperture denying it, is lost (R367, R393). -/
def State.writeTrap (vf part : Nat) (rec : List Byte) (s : State) : State :=
  let v := s.vfAt vf
  let who := s.whoVf vf
  let lose (s : State) : State := s.setVf vf fun v => { v with cnt := { v.cnt with lostTraps := v.cnt.lostTraps + 1 } }
  match s.stage2 who v.trapBase with
  | (.error _, s) => lose s
  | (.ok t, s) =>
    if !t.w || !s.apertureOk part (t.at v.trapBase) then lose s
    else
      let a := t.at v.trapBase
      let n := 2 ^ v.trapSz
      let wc := leNat (s.seen part a 8)
      let lost (s : State) : State :=
        lose (s.ringWrite vf part t (v.trapBase + 16) (natLe ((leNat (s.seen part (a + 16) 8) + 1) % 2 ^ 64) 8))
      if (wc + 2 ^ 64 - leNat (s.seen part (a + 8) 8)) % 2 ^ 64 = n then lost s
      else
        let gpa := v.trapBase + 128 + 128 * (wc % n)
        match s.stage2 who gpa with
        | (.ok u, s) =>
          if u.w && s.apertureOk part (u.at gpa) then (s.ringWrite vf part u gpa rec).ringWrite vf part t v.trapBase (natLe ((wc + 1) % 2 ^ 64) 8) else lost s
        | (.error _, s) => lost s
/-- The record and the notice of a stop for a fault (R43, R368). -/
def State.trap (f : FaultRec) (resumable : Bool) (s : State) : State :=
  let p := s.core.place
  (s.writeTrap p.vf p.part (s.core.trapRecord f resumable s.gcc)).notice ⟨.trap, p.vf, p.num, f.textix, s.gcc⟩

/-! ### Page records (R344, R345) -/

/-- A fault joins the outstanding record of its page, for the context that waits, if one does; none when there is none. -/
def joinRec (waiter : Option (Nat × Nat)) (r : PageRec) : List PageRec → Option (List PageRec)
  | [] => none
  | x :: xs =>
    if x.page = r.page then
      some ({ x with count := min 255 (x.count + r.count),
                     waiters := x.waiters ++ waiter.toList.filter fun w => !x.waiters.contains w } :: xs)
    else (joinRec waiter r xs).map (x :: ·)
/-- The outstanding records of a kind. -/
def Vf.recs (event : Bool) (v : Vf) : List PageRec := if event then v.evQ else v.reqQ
def Vf.setRecs (event : Bool) (l : List PageRec) (v : Vf) : Vf := if event then { v with evQ := l } else { v with reqQ := l }
/-- A fault's record joins, is added with its notice, or finds the queue full (R345). -/
def State.addRec (r : PageRec) (waiter : Option (Nat × Nat)) (s : State) : Option State :=
  let v := s.vfAt r.vfn
  match joinRec waiter r (v.recs r.event) with
  | some l => some (s.setVf r.vfn (Vf.setRecs r.event l))
  | none =>
    if Config.pageDepth ≤ (v.recs r.event).length then none
    else
      let r := { r with seq := if r.event then v.evSeq else v.reqSeq, gen := v.gen, waiters := waiter.toList }
      let s := s.setVf r.vfn fun v =>
        let v := Vf.setRecs r.event (Vf.recs r.event v ++ [r]) v
        if r.event then { v with evSeq := v.evSeq + 1 } else { v with reqSeq := v.reqSeq + 1 }
      some (s.pageNotice r)
/-- The record of a page miss of a core. -/
def missRec (core : Core) (m : PageMiss) : PageRec :=
  ⟨m.gpa, m.va, m.event, m.write, m.table, m.tens, core.place.vf, 0, m.level, 1, core.place.num, 0, m.page, []⟩
/-- The page misses of the core that moves are recorded, or wait for a place. -/
def State.raisePages (l : List PageMiss) (s : State) : State :=
  l.foldl (fun s m =>
    let r := missRec s.core m
    let t := s.core.place.task.getD 0
    match s.addRec r (some (r.core, t)) with
    | some s => s
    | none => s.setVf r.vfn fun v => { v with pageWait := v.pageWait ++ [⟨r, s.core.id, t⟩] }) s
/-- PAGE_RECORD_ENQUEUE: the first fault that waits on a full queue is recorded once a place frees. -/
def pageRecordEnqueue (vf : Nat) (s : State) : State :=
  match lowest (fun w => (s.addRec w.pr (some (w.pr.core, w.task))).isSome) (s.vfAt vf).pageWait with
  | none => s
  | some i =>
    match (s.vfAt vf).pageWait[i]? with
    | none => s
    | some w => (s.setVf vf fun v => { v with pageWait := v.pageWait.eraseIdx i }) |> fun s => (s.addRec w.pr (some (w.pr.core, w.task))).getD s
def execPageRecordEnqueue (vf : Nat) (s : State) : Out := .next (pageRecordEnqueue vf s)

/-- Whether a context still waits for a page: an outstanding record, or one not yet recorded (R345). -/
def State.waitsPage (vf core task : Nat) (s : State) : Bool :=
  let v := s.vfAt vf
  (v.reqQ ++ v.evQ).any (fun r => r.waiters.contains (core, task)) || v.pageWait.any fun w => w.core.num == core && w.task == task

/-! ### The stop for a fault (R41, R42, R44) -/

/-- Whether an engine is blocked or halted, with nothing new to look at. -/
def Eng.rests (x : Eng) : Bool := x.atPoint || (x.blk != .running && !x.look)
/-- Whether a command has come as far as it can without the engines: its addend is carried, or what is left of it waits for room in a load
queue (R53; log entry 94). -/
def Core.pendRests (p : Pend) (c : Core) : Bool :=
  p.carried || p.ops.all fun o => !o.homeSide && (o.queue.map c.lqFull).getD false
/-- Whether every engine of a context is blocked or halted: nothing more will happen before the stop; a WAITM under way, operations of M and
outstanding copies and accumulates finish first (R41, R53, R134, R148; log entry 73). -/
def Core.quiet (c : Core) : Bool :=
  c.waits.waitm.isNone && engines.all (fun e => (c.eng e).rests) && c.mat.ops.isEmpty && c.mat.word.isNone
    && c.port.pend.all c.pendRests && c.port.compl.isEmpty && c.port.carry.all fun kv => !kv.2.busy
/-- The fault whose word has the lowest stream index, ties in the order S, A, V, M, P (R42). -/
def pickFault : List FaultRec → Option FaultRec
  | [] => none
  | f :: fs => match pickFault fs with
    | none => some f
    | some g => if after f.six g.six || (f.six == g.six && decide (g.eng.ix < f.eng.ix)) then some g else some f

/-- The logical core a failing task names: the lowest of those that have raised such a cause (R44). -/
def State.failCore (t : Nat) (s : State) : Nat :=
  ((s.others.filter fun c => c.runsTask t && ((pickFault c.walk.faults).any fun f => !f.cause.resumable)).map fun c => c.place.num).foldl min
    s.core.place.num
/-- The context of the core that moves ends for a cause that fails its task (R44). -/
def State.failHere (s : State) : State :=
  match s.core.place.task with
  | some t => s.failTask t (s.failCore t)
  | none => s.killCore s.core.id
/-- A sealed partition's alarm for INTEGRITY (R44, R368). -/
def State.raiseAlarm (f : FaultRec) (s : State) : State :=
  let p := s.core.place
  if f.cause = .integrity then
    (s.setPart p.part fun x => { x with alarm := true }).notice ⟨.sealAlarm, p.vf, p.num, f.textix, s.gcc⟩
  else s
/-- The context stops for its recorded fault, with its page records (R167): resumable, or its task fails. -/
def State.stopFor (f : FaultRec) (s : State) : State :=
  let s := ((s.trap f f.cause.resumable).raiseAlarm f).raisePages f.pages
  if f.cause.resumable then (s.onPlace fun p => { p with run := .stopped }).onWalk fun w => { w with hit := none, faults := [] }
  else s.failHere
/-! ### Breakpoints (R369, R374) -/

/-- The core's current frame, if it stands in a rota. -/
def State.rotaOf (c : CoreId) (s : State) : Option Rota := s.disp.rotas.find? fun r => r.part == c.part && r.core == c.num
/-- The debug stop for a breakpoint at a text index: SKIP is set, a DEBUG notice is sent (R369). -/
def State.debugStop (textix : Nat) (s : State) : State :=
  let p := s.core.place
  (((s.onPlace fun p => { p with run := .debug }).onRegs fun r => { r with bkpt := r.bkpt ||| 0x4000 }).onWalk fun w => { w with hit := none }).notice
    ⟨.debug, p.vf, p.num, textix, s.gcc⟩
/-- BREAKPOINT_HIT at the word of the engine that moves: ignored once after a debug stop; held as BPEND inside the seal interval;
else the engine halts before the word, the hit is held, whatever BKPT holds from then on, and the context stops as for a fault. -/
def breakpointHit (c : CoreId) (s : State) : State :=
  match s.focus c with
  | none => s
  | some s =>
    let pass (s : State) : State := s.onEng s.act fun x => { x with seen := true }
    if s.core.regs.bkpt.toNat / 2 ^ 14 % 2 = 1 then pass (s.onRegs fun r => { r with bkpt := r.bkpt &&& 0xFFFFBFFF })
    else if ((s.rotaOf c).map Rota.windowOpen).getD false then pass (s.onRegs fun r => { r with bkpt := r.bkpt ||| 0x08000000 })
    else (s.onEng s.act (Eng.wait .faulted)).onWalk fun w => { w with hit := some s.me.pc }
def execBreakpointHit (c : CoreId) (s : State) : Out := .next (breakpointHit c s)

/-! ### CONTEXT_STOP and MUTUAL_STALL -/

/-- CONTEXT_STOP (R41): for a fault, or for a breakpoint (R369). Once a hard stop is under way a fault is one of its drain, also a fault
raised before GRACE ran out in a context that had not stopped: `saveContext` records it as resumable (R52; log entry 74). -/
def contextStop (c : CoreId) (s : State) : State :=
  match s.focus c with
  | none => s
  | some f =>
    if f.core.place.run != .running || !f.core.quiet || f.core.walk.hardStop then s
    else match pickFault f.core.walk.faults with
      | none => match f.core.walk.hit with
        | some ix => f.debugStop ix
        | none => s
      | some x => f.stopFor x
def execContextStop (c : CoreId) (s : State) : Out := .next (contextStop c s)

/-- MUTUAL_STALL (R45): the counter has come to 2^20 and every engine is still blocked so; the trailing engine is named. -/
def mutualStall (c : CoreId) (s : State) : State :=
  match s.focus c with
  | none => s
  | some f =>
    if f.core.walk.stall < Config.stallLimit ∨ !f.core.stalled then s
    else
      let e := (engines.find? fun e => (f.core.eng e).six == f.core.trailing).getD .s
      f.stopFor ⟨.mutualStall, e, (f.core.eng e).pc, (f.core.eng e).six, 0, 0, f.core.regs.hmode && e == .s, []⟩
def execMutualStall (c : CoreId) (s : State) : Out := .next (mutualStall c s)

/-- The kill of a context outside its task's own failure: its task ends with outcome KILLED (R50, R414). STATUS then names the killed core,
where the spec gives a core for a failure alone (log entry 75). -/
def State.killContext (c : CoreId) (s : State) : State :=
  match (s.coreAt c).bind fun k => k.place.task with
  | some t => s.endTask t 7 c.num id
  | none => s.killCore c
/-- POISONED_READ: the reader's context is killed (R414). -/
def execPoisonedRead (c : CoreId) (hpa : Nat) (s : State) : Out :=
  .next (if s.mem.poison.contains (lineOf hpa) then s.killContext c else s)

/-! ### Saving and restoring a context (R46, R51, R221, R222) -/

/-- The effective masks: the last PPOINT the trailing engine passed and those passed since; full before the first (R46). -/
def Core.masks (c : Core) : BitVec 8 × BitVec 4 :=
  match c.walk.pointBase with
  | none => (0xFF, 0xF)
  | some b => c.walk.points.foldl (fun m p => (m.1 ||| p.tiles, m.2 ||| p.groups)) (b.tiles, b.groups)
/-- The masks with what an operation in progress uses (R222). -/
def Core.savedMasks (c : Core) : Nat × Nat :=
  let (t, g) := c.masks
  c.mat.ops.foldl (fun m o => (Nat.lor m.1 (2 ^ (fwAcc o.fw).val), Nat.lor (Nat.lor m.2 (2 ^ refGroup o.ra)) (2 ^ refGroup o.rb)))
    (t.toNat, g.toNat)

/-- An engine in the saved state: a popped token is given back by the caller, and the engine looks again on resume. -/
def Eng.saved (x : Eng) : Eng :=
  { x with blk := if x.blk = .atHalt then .atHalt else .running, popped := false, atPoint := false, seen := false, look := false }
/-- The wait tokens of words that have not finished go back to their queues (R42, R51). -/
def Core.returnTokens (c : Core) : Core :=
  engines.foldl (fun c e =>
    let x := c.eng e
    if x.popped && !x.done then
      match tokField e (fld (c.wordAt x.pc) 26 3) with
      | .ok (some src) => c.addTok src e (· + 1)
      | _ => c
    else c) c
/-- The saved context (R51): unmasked tiles and groups read as zero on restore, caches are empty. A PPOINT instance that some engine has
passed stays passed: its request was not taken there (R47, R48; log entry 93). -/
def Core.savedImage (c : Core) : Core :=
  let (tiles, groups) := c.savedMasks
  let c := c.returnTokens
  { c with
    walk := { c.walk with engs := c.walk.engs.map Eng.saved, decisions := c.walk.decisions.filter fun d => !d.2,
                          softReq := false, hardStop := false, grace := false, kill := false, stall := 0, hit := none, faults := [] }
    port := { c.port with spad := c.port.spad.filter fun kv => groups / 2 ^ groupOf kv.1 % 2 == 1,
                          tc := [], walks1 := [], walks2 := [], shapes := [], early := none }
    mat := { c.mat with acc := Vector.ofFn fun i => if tiles / 2 ^ i.val % 2 = 1 then c.mat.acc[i] else AccTile.init } }

/-- Whether nothing of the context is in flight but a push that waits for room in a load queue, which is saved with its port (log entry 94); an
operation of M has reached the end of its K-step (R50, R52, R53, R134, R221). -/
def Core.settled (c : Core) : Bool :=
  c.port.pend.all c.pendRests && c.port.compl.isEmpty && c.port.carry.all (fun kv => !kv.2.busy) && c.waits.waitm.isNone && c.mat.word.isNone
    && c.mat.ops.all (fun o => decide (o.stopAt ≤ o.kdone))
/-- Whether a soft or hard stop may save the context now. -/
def Core.maySave (c : Core) : Bool :=
  c.place.task.isSome && c.settled
    && (match c.place.run with
      | .running => c.walk.hardStop || (c.walk.softReq && engines.all fun e => (c.eng e).atPoint && (c.eng e).six == (c.eng .s).six)
      | .stopped => c.walk.softReq || c.walk.hardStop
      | .debug => c.walk.softReq || c.walk.hardStop
      | _ => false)

/-- The core that moves saves its context: a fault met during the drain is recorded as resumable (R52), the image goes to the
dispatcher, the core is clear. -/
def State.saveContext (s : State) : State :=
  let s := match pickFault s.core.walk.faults with
    | some f => (s.trap f true).raisePages f.pages
    | none => s
  let img := s.core.savedImage
  { s with core := s.core.cleared }.onDisp fun d => { d with saved := d.saved ++ [img] }
/-- CONTEXT_SAVE (R50, R51): a context of a sealed partition is saved at its frame's edge alone (R52, R372). -/
def contextSave (c : CoreId) (s : State) : State :=
  match s.focus c with
  | none => s
  | some f => if f.core.maySave && !(s.partAt c.part).isSealed then f.saveContext else s
def execContextSave (c : CoreId) (s : State) : Out := .next (contextSave c s)

/-- A saved context on the core it was saved from: the site and the bank map are the core's, S1TB the function's, M's operation goes on
from its K-step, carried addends wait their full time again, BAR reads its object again (R38, R51, R138, R175, R222, R357). -/
def State.restore (img : Core) (s : State) : State :=
  let live := s.core
  let img := { img with
    place := { img.place with site := live.place.site, bankMap := live.place.bankMap, gen := live.place.gen }
    regs := { img.regs with s1tb := (s.vfAt img.place.vf).s1tb, slip := (s.partAt img.place.part).slip, precfg := (s.partAt img.place.part).precfg }
    port := { img.port with redCredits := live.port.redCredits, redOwed := live.port.redOwed, carry := img.port.carry.map fun kv =>
      (kv.1, { kv.2 with timer := kv.2.timer.map fun _ => s.gcc + BitVec.ofNat 64 Config.retryCycles }) }
    mat := { img.mat with ops := img.mat.ops.map (MatOp.resume s.gcc) }
    waits := { img.waits with bar := img.waits.bar.map fun b => if b.status.isNone then { b with again := true } else b } }
  let s := { s with core := img }
  if s.core.regs.bkpt.toNat / 2 ^ 27 % 2 = 1 ∧ (s.rotaOf s.core.id).isSome then
    (s.onRegs fun r => { r with bkpt := r.bkpt &&& 0xF7FFFFFF }).debugStop (fld s.core.regs.bkpt 0 14)
  else s

end Sys2Proof.Machine
end

