-- ==== Sys2Proof/Machine/Collect.lean ====
section
/-! DEFINITION. The collective engine: planning, steps and ends of the collective at the head of a function's queue (R302 to R306, R316).
Each event changes nothing where it cannot happen. -/

namespace Sys2Proof.Machine

/-! ### Sizes and pieces (R54, R300, R302, R303) -/

/-- The width of a format in bits. -/
def fmtWidth : Nat → Nat
  | 0 | 7 => 32
  | 1 | 2 => 16
  | 8 => 4
  | 9 => 64
  | _ => 8
/-- The bytes of COUNT elements, and of what a member's data comes to: a block for each member under REDUCESCATTER (log entry 50). -/
def CollBlock.bytes (b : CollBlock) : Nat := (b.count * fmtWidth b.dtype + 7) / 8
def CollBlock.span (b : CollBlock) : Nat := if b.op = 4 then b.members.length * b.bytes else b.bytes
/-- The rank of a node, and the root's node. -/
def CollBlock.rank (b : CollBlock) (node : Nat) : Nat := (lowest (· == node) b.members).getD 0
def CollBlock.rootNode (b : CollBlock) : Nat := b.members.getD b.root 0
def CollBlock.reduces (b : CollBlock) : Bool := b.op == 0 || b.op == 1 || b.op == 4
/-- A range of bytes in pieces of at most 64 KiB (R303). -/
def cutPieces (off len : Nat) : List Piece :=
  (List.range ((len + 65535) / 65536)).map fun k => ⟨off + k * 65536, min 65536 (len - k * 65536)⟩
/-- The pieces of chunk c of a reduction: the blocks of ceil(COUNT / members) elements, the ranks' blocks under REDUCESCATTER, and the empty
message of a BARRIER (R303, R304; log entry 49). -/
def CollBlock.chunk (b : CollBlock) (c : Nat) : List Piece :=
  let n := b.members.length
  let w := fmtWidth b.dtype / 8
  let per := (b.count + n - 1) / n
  if b.op = 6 then [⟨0, 0⟩]
  else if b.op = 4 then cutPieces (c * b.bytes) b.bytes
  else cutPieces (min (c * per) b.count * w) ((min ((c + 1) * per) b.count - min (c * per) b.count) * w)
/-- All pieces of a reduction. -/
def CollBlock.pieces (b : CollBlock) : List Piece :=
  if b.op = 6 then [⟨0, 0⟩] else (List.range b.members.length).flatMap b.chunk

/-! ### What each member does (R303, R304) -/

/-- The pieces a member writes to RECV once its reduction is done: all, at the root alone of a REDUCE, or its own block. -/
def CollBlock.stores (b : CollBlock) (node : Nat) : List CollAct :=
  match b.op with
  | 0 => b.pieces.map fun p => .store p p.off
  | 1 => if node = b.rootNode then b.pieces.map fun p => .store p p.off else []
  | 4 => (b.chunk (b.rank node)).map fun p => .store p (p.off - b.rank node * b.bytes)
  | _ => []
/-- A ring: chunk c starts at rank c + 1 and each rank adds its own behind what it receives; the sums then go round, or to the root. -/
def CollBlock.ring (b : CollBlock) (node : Nat) : List CollAct :=
  let n := b.members.length
  let r := b.rank node
  let next := b.members.getD ((r + 1) % n) 0
  let prev := b.members.getD ((r + n - 1) % n) 0
  let down := (List.range (n - 1)).flatMap fun t =>
    (b.chunk ((r + n - 1 - t) % n)).map (fun p => CollAct.send 8 [next] p)
      ++ (b.chunk ((r + n + n - 2 - t) % n)).map fun p => CollAct.fold 8 prev p false
  let round := (List.range (n - 1)).flatMap fun t =>
    (b.chunk ((r + n - t) % n)).map (fun p => CollAct.send 9 [next] p)
      ++ (b.chunk ((r + n - 1 - t) % n)).map fun p => CollAct.take 9 prev p
  let rooted :=
    if node = b.rootNode then ((List.range n).filter (· != r)).flatMap fun c => (b.chunk c).map fun p => CollAct.take 9 (b.members.getD c 0) p
    else (b.chunk r).map fun p => CollAct.send 9 [b.rootNode] p
  down ++ (match b.op with
    | 0 => round
    | 1 => rooted
    | _ => []) ++ b.stores node
/-- Halving-doubling: in round k the members whose ranks differ by 2^k exchange their partial sums, the lower rank's first. -/
def CollBlock.halving (b : CollBlock) (node : Nat) : List CollAct :=
  let r := b.rank node
  ((List.range (Nat.log2 b.members.length)).flatMap fun k =>
    let q := Nat.xor r (2 ^ k)
    let mate := b.members.getD q 0
    (b.pieces.map fun p => CollAct.send (16 + k) [mate] p) ++ b.pieces.map fun p => CollAct.fold (16 + k) mate p (decide (r < q)))
    ++ b.stores node

/-- The head of a line of members: the root if it stands in it, else the lowest. -/
def CollBlock.headOf (b : CollBlock) (l : List Nat) : Nat := if b.op = 1 ∧ l.contains b.rootNode then b.rootNode else l.headD 0
/-- Members in lines along dimension d, each with its head; the members of a line agree in the higher coordinates. -/
def CollBlock.lines (b : CollBlock) (d : Nat) (l : List Nat) : List (Nat × List Nat) :=
  ((l.map fun m => m / 16 ^ (d + 1)).dedup).map fun k =>
    let x := l.filter fun m => m / 16 ^ (d + 1) == k
    (b.headOf x, x)
/-- The phases of a reduction through slots: one over the whole group under combine; under torus-3D lines along X, then lines of their heads along Y,
then along Z, each line with one slot, at its head. A line of one member is none (log entry 49). -/
def CollBlock.stages (b : CollBlock) (algo : Nat) : List (List (Nat × List Nat)) :=
  let x := b.lines 0 b.members
  let y := b.lines 1 (x.map Prod.fst)
  let z := b.lines 2 (y.map Prod.fst)
  ((if algo = 4 then [[(b.headOf b.members, b.members)]] else [x, y, z]).map fun l => l.filter fun q => decide (1 < q.2.length)).filter
    fun l => !l.isEmpty
/-- The number of a phase of an algorithm. -/
def phaseNo (algo k : Nat) : Nat := algo * 8 + k
/-- A reduction through slots: each phase up its lines, then the result back down them, from each head to the others at once. -/
def CollBlock.slotted (b : CollBlock) (algo node : Nat) : List CollAct :=
  let st := b.stages algo
  let mine (k : Nat) : Option (Nat × List Nat) := (st.getD k []).find? fun q => q.2.contains node
  let up := (List.range st.length).flatMap fun k => match mine k with
    | none => []
    | some (h, l) =>
      let f := phaseNo algo k
      .book f h l :: (b.pieces.map (fun p => CollAct.up f h l p)
        ++ if node = h then b.pieces.map fun p => CollAct.gather f l.length p else [])
  let down := (List.range st.length).reverse.flatMap fun k => match mine k with
    | none => []
    | some (h, l) =>
      let f := phaseNo algo (k + 4)
      if node = h then b.pieces.map fun p => CollAct.send f (l.filter (· != node)) p else b.pieces.map fun p => CollAct.take f h p
  up ++ (if b.op = 1 then [] else down) ++ b.stores node

/-- A piece of SEND to other members: to all at once as a multicast, or to each. -/
def fwdTo (multi : Bool) (dsts : List Nat) (p : Piece) : List CollAct := if multi then [.fwd dsts p] else dsts.map fun d => .fwd [d] p
/-- A data-moving operation: each member's pieces to those that want them (R304; log entry 50). -/
def CollBlock.moves (b : CollBlock) (multi : Bool) (node : Nat) : List CollAct :=
  let n := b.bytes
  let r := b.rank node
  let others := b.members.filter (· != node)
  match b.op with
  | 2 =>
    if node = b.rootNode then (cutPieces 0 n).flatMap (fwdTo multi others) ++ (cutPieces 0 n).map fun p => CollAct.copy p p.off
    else (cutPieces 0 n).map fun p => CollAct.put b.rootNode p p.off
  | 3 =>
    (cutPieces 0 n).flatMap (fwdTo multi others) ++ ((cutPieces 0 n).map fun p => CollAct.copy p (r * n + p.off))
      ++ others.flatMap fun m => (cutPieces 0 n).map fun p => CollAct.put m p (b.rank m * n + p.off)
  | _ =>
    (others.flatMap fun m => (cutPieces (b.rank m * n) n).flatMap fun p => if multi then [CollAct.fwd others p] else [CollAct.fwd [m] p])
      ++ ((cutPieces (r * n) n).map fun p => CollAct.copy p p.off)
      ++ others.flatMap fun m => (cutPieces (r * n) n).map fun p => CollAct.put m p (b.rank m * n + (p.off - r * n))

/-- Whether an algorithm takes slots for an operation: data-moving operations never do (R304). -/
def usesSlots (algo op : Nat) : Bool := (algo == 3 || algo == 4) && !(op == 2 || op == 3 || op == 5)
/-- What a member does for a collective, in order; it ends together with the others, so that a fault on any of them ends it on all (R304 to R306;
log entry 49). -/
def CollBlock.acts (b : CollBlock) (algo node : Nat) : List CollAct :=
  (if b.op = 2 ∨ b.op = 3 ∨ b.op = 5 then b.moves (algo == 3 || algo == 4) node
   else if usesSlots algo b.op then b.slotted algo node
   else if algo = 2 then b.halving node
   else b.ring node) ++ [.sync]
/-- Whether an act is a step, which the engine's turns and the lease count (R299, R305), and the bytes it moves. -/
def CollAct.moved : CollAct → Option Nat
  | .send _ _ p | .up _ _ _ p | .fwd _ p => some p.len
  | _ => none

/-! ### Planning (R302, R304) -/

/-- Whether a member set is a whole sub-torus in all three dimensions. -/
def State.wholeTorus (s : State) (l : List Nat) : Bool := l.length == s.dimSize 0 * s.dimSize 1 * s.dimSize 2
/-- The algorithm that auto chooses (R304). -/
def State.autoAlgo (s : State) (b : CollBlock) : Nat :=
  let n := b.members.length
  if (b.op = 6 ∨ (b.reduces ∧ b.bytes ≤ 65536)) ∧ 1 ≤ b.nslot then 4
  else if s.wholeTorus b.members ∧ 1 ≤ b.nslot ∧ 1048576 ≤ b.bytes then 3
  else if n = 2 ^ Nat.log2 n ∧ b.bytes < 1048576 then 2
  else 1
/-- The block another member has posted for a collective. -/
def State.peerOf (s : State) (k : CollKey) (node : Nat) : Option PeerBlock := s.coll.blocks.find? fun p => p.key == k && p.node == node

/-- The collective at the head of a function's queue changed. -/
def State.onHead (vf : Nat) (f : Coll → Coll) (s : State) : State :=
  s.setVf vf fun v => { v with colls := match v.colls with
    | c :: l => f c :: l
    | [] => [] }
def State.headColl (s : State) (vf : Nat) : Option Coll := (s.vfAt vf).colls.head?

/-- COLLECTIVE_PLANNING: the paired blocks of all members are here; they must agree, and an algorithm is chosen, or the fallback taken (R298). -/
def collectivePlanning (vf : Nat) (s : State) : State :=
  match s.headColl vf with
  | none => s
  | some c =>
    let b := c.blk
    let others := b.members.filter (· != s.mgmt.node)
    if c.planned || c.outcome.isSome || !(others.all fun n => (s.peerOf b.key n).isSome) then s
    else
      let mine := b.posted 0
      let agree := others.all fun n => ((s.peerOf b.key n).map fun p => { p with node := 0 } == mine).getD false
      if !agree then s.onHead vf fun c => { c with outcome := some 2 }
      else
        let algo := if c.fellBack then b.fallback else if b.algo = 0 then s.autoAlgo b else b.algo
        if algo = 2 ∧ b.members.length ≠ 2 ^ Nat.log2 b.members.length then s.onHead vf fun c => { c with algo := algo, outcome := some 5 }
        else s.onHead vf fun c => { c with planned := true, algo := algo }
def execCollectivePlanning (vf : Nat) (s : State) : Out := .next (collectivePlanning vf s)

/-! ### Buffers (R305) -/

/-- Places of n bytes from an address, in pieces that no page edge cuts; the error of the first that does not translate. -/
def State.collPlaces (vf : Nat) (wr : Bool) : Nat → Nat → Nat → State → Except (TrErr × W64) (List (Nat × Nat × Nat)) × State
  | 0, _, _, s => (.ok [], s)
  | k + 1, a, n, s =>
    if n = 0 then (.ok [], s)
    else
      let m := min n (4096 - a % 4096)
      match s.translate (s.whoVf vf) .coll wr (BitVec.ofNat 64 a) with
      | (.ok (.mem hpa frame _ _), s) => (match State.collPlaces vf wr k (a + m) (n - m) s with
        | (.ok l, s) => (.ok ((hpa, frame, m) :: l), s)
        | r => r)
      | (.ok _, s) => (.error (permErr, BitVec.ofNat 64 a), s)
      | (.error e, s) => (.error (e, BitVec.ofNat 64 a), s)
/-- The bytes of a buffer and their earmark. -/
def State.collRead (vf : Nat) (a n : Nat) (s : State) : Except (TrErr × W64) (List Byte × Mark) × State :=
  match s.collPlaces vf false (n / 4096 + 2) a n with
  | (.error e, s) => (.error e, s)
  | (.ok l, s) =>
    let part := (s.vfAt vf).part.getD 0
    if l.any fun p => s.badBlock part p.1 p.2.2 || s.poisoned p.1 p.2.2 then (.error (tagErr a, BitVec.ofNat 64 a), s)
    else
      (.ok (l.flatMap fun p => s.seen part p.1 p.2.2, Mark.unions (l.map fun p => s.pageMark p.2.1)),
       l.foldl (fun s p => s.afterRead part p.1 p.2.2) s)
/-- Bytes written at places, with an earmark. -/
def State.collPut (part : Nat) (m : Mark) : List (Nat × Nat × Nat) → List Byte → State → State
  | [], _, s => s
  | (hpa, frame, n) :: l, bs, s =>
    State.collPut part m l (bs.drop n) (s.writeData part (s.partAt part).gen .plain hpa frame (bs.take n) m)
/-- A STAGE2 miss of the engine: a page request as a core's miss queues one, and the step waits for the reply (R305, R345). -/
def State.collMiss (vf core : Nat) (e : TrErr) (va : W64) (write : Bool) (s : State) : State :=
  (e.misses va write false).foldl (fun s m =>
    let r : PageRec := ⟨m.gpa, m.va, m.event, m.write, m.table, m.tens, vf, 0, m.level, 1, core, 0, m.page, []⟩
    match s.addRec r none with
    | some s => s.onHead vf fun c => { c with misses := m.page :: c.misses }
    | none => s) s
/-- A buffer access that failed: a STAGE2 miss waits, anything else fails the collective with FAULT. -/
def State.collFault (vf : Nat) (c : Coll) (e : TrErr) (va : W64) (write : Bool) (s : State) : State :=
  if e.cause = .stage2 then s.collMiss vf c.blk.core.num e va write
  else s.failColl c 3
/-- A page request that a collective's step waits for has failed: so does the collective (R305, R347; log entry 83). -/
def State.failMiss (vf page : Nat) (s : State) : State :=
  ((s.vfAt vf).colls.filter fun c => c.misses.contains page).foldl (fun s c => s.failColl c 3) s

/-! ### Steps (R303, R305) -/

/-- Whether a function is pre-empted: a context of it is saved and none runs. -/
def State.preempted (s : State) (vf : Nat) : Bool := s.disp.saved.any (fun c => c.place.vf == vf) && !s.cores.any fun c => c.place.task.isSome && c.place.vf == vf
/-- What a collective does next. -/
def State.nextAct (s : State) (c : Coll) : Option CollAct := (c.blk.acts c.algo s.mgmt.node)[c.pos]?
/-- Whether the first reservations of a collective stand on every member, so that its first step may be issued (R298). -/
def Coll.firstBooked (c : Coll) : Bool :=
  !usesSlots c.algo c.blk.op || (((c.blk.stages c.algo).headD []).all fun q => c.booked.contains (phaseNo c.algo 0, q.1))
/-- Whether the head of a function's queue could go on. -/
def State.mayStep (s : State) (vf : Nat) : Bool :=
  match s.headColl vf with
  | none => false
  | some c => c.planned && c.outcome.isNone && !s.preempted vf && (c.misses.all fun p => !((s.vfAt vf).reqQ.any fun r => r.page == p))
      && (match s.nextAct c with
        | none => false
        | some (.book ..) => true
        | some _ => c.firstBooked)
/-- Whether the head of a function's queue has a step to issue. -/
def State.stepDue (s : State) (vf : Nat) : Bool :=
  s.mayStep vf && (((s.headColl vf).bind s.nextAct).bind CollAct.moved).isSome
def State.collDeficit (s : State) (vf : Nat) : Int := Sparse.get 0 s.coll.deficits vf
def State.setCollDeficit (vf : Nat) (d : Int) (s : State) : State := s.onColl fun c => { c with deficits := Sparse.set 0 c.deficits vf d }
/-- The turns of a partition's queues: when none that has a step to issue has a deficit left, each is given its weight of 64 KiB. -/
def State.collRound (part : Nat) (s : State) : State :=
  let l := (List.range 192).filter fun v => (s.vfAt v).part == some part && s.stepDue v
  if l.any fun v => decide (0 < s.collDeficit v) then s
  else l.foldl (fun t v => t.setCollDeficit v (s.collDeficit v + (s.vfAt v).weight * 65536)) s

/-- A piece of the partial result: one's own data of SEND until something has been combined with it or has taken its place. -/
def State.collPiece (vf : Nat) (c : Coll) (p : Piece) (s : State) : Except (TrErr × W64) Work × State :=
  match c.work.find? fun w => w.1 == p.off with
  | some w => (.ok w.2, s)
  | none => match s.collRead vf (c.blk.send.toNat + p.off) p.len with
    | (.error e, s) => (.error e, s)
    | (.ok (bs, m), s) => (.ok ⟨bs, m, []⟩, s)
/-- A piece of the partial result changed. -/
def Coll.setWork (p : Piece) (w : Work) (c : Coll) : Coll := { c with work := (p.off, w) :: c.work.filter fun x => x.1 != p.off }
/-- Two pieces combined, element by element, the first value first (R303). -/
def combineWork (dtype red : Nat) (a b : Work) : Work :=
  let w := max 1 (fmtWidth dtype / 8)
  let l := (List.range (a.data.length / w)).map fun j =>
    combine1 dtype red (BitVec.ofNat 64 (leAt a.data (w * j) w)) (BitVec.ofNat 64 (leAt b.data (w * j) w))
  let hit := (l.zipIdx.filter fun x => x.1.2).map fun x => x.2 * w / 128
  ⟨l.flatMap fun x => natLe x.1.toNat w, a.mark.union b.mark, ascending (a.sat ++ b.sat ++ hit).dedup⟩
/-- The offsets of the 64-lane packets of a piece. -/
def CollBlock.rowsOf (b : CollBlock) (p : Piece) : List Nat :=
  let w := 64 * max 1 (fmtWidth b.dtype / 8)
  (List.range (max 1 ((p.len + w - 1) / w))).map fun k => p.off + k * w
/-- The key of a packet of a collective toward the home of a phase. -/
def CollBlock.redKey (b : CollBlock) (phase home : Nat) (nodes : List Nat) (off : Nat) : RedKey :=
  ⟨b.key.part, groupKey nodes, home, b.key.vfn, off, none, some ⟨b.key, phase, off, b.dtype, b.red⟩⟩
/-- The packets of a piece (R292, R303). -/
def State.upPackets (s : State) (c : Coll) (phase home : Nat) (nodes : List Nat) (p : Piece) (x : Work) : List AaccPkt :=
  let b := c.blk
  let w := max 1 (fmtWidth b.dtype / 8)
  (b.rowsOf p).map fun off =>
    { core := ⟨b.key.part, 511⟩, gen := (s.partAt b.key.part).gen, cls := 0, hpa := off, frame := 0, fx := b.dtype == 9,
      lanes := (List.range 64).map (fun i => BitVec.ofNat 64 (leAt x.data (off - p.off + w * i) w)), tries := 0,
      satf := lineFlags ((List.range 64).map fun i => x.sat.contains ((off - p.off) / 128 + i / 16)), tags := [⟨s.mgmt.node, ⟨b.key.part, 511⟩, 0, 0⟩], mark := x.mark, carryIx := none,
      red := some (b.redKey phase home nodes off), hop := none, resv := none }
/-- The packets that have reached the home for a row of a piece. -/
def State.resultsOf (s : State) (c : Coll) (phase off : Nat) : List AaccPkt :=
  s.coll.results.filter fun r => match r.red.bind RedKey.coll with
    | some t => t.key == c.blk.key && t.phase == phase && t.piece == off
    | none => false
/-- The contributions of n members to a piece, combined in their order of arrival at the home (R294); none while one is missing. -/
def State.gathered (s : State) (c : Coll) (phase n : Nat) (p : Piece) : Option Work :=
  let b := c.blk
  let w := max 1 (fmtWidth b.dtype / 8)
  let row (r : AaccPkt) : Work := ⟨r.lanes.flatMap fun x => natLe x.toNat w, r.mark, bitsSet r.satf 4⟩
  let atLine (off : Nat) (x : Work) : Work := { x with sat := x.sat.map (· + (off - p.off) / 128) }
  ((b.rowsOf p).mapM fun off =>
    match s.resultsOf c phase off with
    | [] => none
    | r :: l => if ((r :: l).flatMap AaccPkt.tags).length < n then none
        else some (atLine off (l.foldl (fun a x => combineWork b.dtype b.red a (row x)) (row r)))).map fun (l : List Work) =>
    ⟨(l.flatMap Work.data).take p.len, Mark.unions (l.map Work.mark), l.flatMap Work.sat⟩
/-- A chunk that another member has sent. -/
def State.chunkFrom (s : State) (c : Coll) (phase src : Nat) (p : Piece) : Option Chunk :=
  s.coll.chunks.find? fun k => k.key == c.blk.key && k.phase == phase && k.src == src && k.piece == p.off
/-- That chunk used up. -/
def State.useChunk (c : Coll) (phase src : Nat) (p : Piece) (s : State) : State :=
  s.onColl fun x => { x with chunks := x.chunks.eraseP fun k => k.key == c.blk.key && k.phase == phase && k.src == src && k.piece == p.off }
/-- Chunks sent to other members, on the escape class (R230). -/
def State.sendChunks (c : Coll) (phase : Nat) (dsts : List Nat) (p : Piece) (w : Work) (s : State) : State :=
  dsts.foldl (fun s d => s.tell d (.chunk ⟨s.mgmt.node, d, c.blk.key, phase, p.off, w⟩)) s

/-- The current act is over. -/
def State.actDone (vf : Nat) (f : Coll → Coll) (s : State) : State :=
  s.onHead vf fun c => { f c with pos := c.pos + 1, misses := [] }
/-- A step is issued: its bytes count, the leases restart (R299, R305). -/
def State.stepDone (vf : Nat) (c : Coll) (bytes : Nat) (s : State) : State :=
  ((s.setCollDeficit vf (s.collDeficit vf - bytes)).keepAlive c true).actDone vf fun c => { c with step := c.step + 1 }
/-- A piece of the partial result used, or the fault of its read. -/
def State.withPiece (vf : Nat) (c : Coll) (p : Piece) (k : Work → State → State) (s : State) : State :=
  match s.collPiece vf c p with
  | (.error (e, a), s) => s.collFault vf c e a false
  | (.ok w, s) => k w s
/-- Bytes written to RECV, or the fault of the write. -/
def State.toRecv (vf : Nat) (c : Coll) (off : Nat) (w : Work) (k : State → State) (s : State) : State :=
  match s.collPlaces vf true (w.data.length / 4096 + 2) (c.blk.recv.toNat + off) w.data.length with
  | (.error (e, a), s) => s.collFault vf c e a true
  | (.ok l, s) => k (s.collPut c.blk.key.part w.mark l w.data)

/-- A step issued once its turn is recorded (R305, R415). -/
def State.issueStep (vf : Nat) (c : Coll) (bytes : Nat) (f : State → State) (s : State) : State :=
  match s.choose 7 c.blk.key.part 0 (whoCode c.blk.core.num vf c.step) with
  | some s => (f s).stepDone vf c bytes
  | none => s
/-- What an act does. -/
def State.doAct (vf : Nat) (c : Coll) (a : CollAct) (s : State) : State :=
  let b := c.blk
  match a with
  | .book f h nodes =>
    if c.booked.contains (f, h) then s.actDone vf id
    else if s.mgmt.node = h && !(c.bookings.any fun x => x.1 == f) then
      let line := c.algo == 3
      let (id, s) := s.book b.key.part vf (groupKey nodes) (if line then 1 else b.nslot) h true line
      s.onHead vf fun c => { c with bookings := c.bookings ++ [(f, id)] }
    else s
  | .send f dsts p => s.withPiece vf c p fun w s => s.issueStep vf c p.len fun s => s.sendChunks c f dsts p w
  | .up f h nodes p => s.withPiece vf c p fun w s => s.issueStep vf c p.len fun s =>
      s.onXr fun x => { x with redIn := x.redIn ++ s.upPackets c f h nodes p w }
  | .fwd dsts p => s.withPiece vf { c with work := [] } p fun w s => s.issueStep vf c p.len fun s => s.sendChunks c 0 dsts p w
  | .fold f src p mine =>
    (match s.chunkFrom c f src p with
      | none => s
      | some k => s.withPiece vf c p fun w s =>
        (s.useChunk c f src p).actDone vf (Coll.setWork p (if mine then combineWork b.dtype b.red w k.work else combineWork b.dtype b.red k.work w)))
  | .take f src p =>
    (match s.chunkFrom c f src p with
      | none => s
      | some k => (s.useChunk c f src p).actDone vf (Coll.setWork p k.work))
  | .gather f n p =>
    (match s.gathered c f n p with
      | none => s
      | some w => s.actDone vf (Coll.setWork p w))
  | .store p off => s.withPiece vf c p fun w s => s.toRecv vf c off w fun s => s.actDone vf id
  | .put src p off =>
    (match s.chunkFrom c 0 src p with
      | none => s
      | some k => s.toRecv vf c off k.work fun s => (s.useChunk c 0 src p).actDone vf id)
  | .copy p off => s.withPiece vf { c with work := [] } p fun w s => s.toRecv vf c off w fun s => s.actDone vf id
  | .sync =>
    if !c.finished.contains s.mgmt.node then
      (s.onHead vf fun c => { c with finished := s.mgmt.node :: c.finished }).tellAll (b.members.filter (· != s.mgmt.node)) (.finished b.key s.mgmt.node)
    else if b.members.all c.finished.contains then s.actDone vf id
    else s

/-- COLLECTIVE_STEP: the head of a function's queue does what comes next in its algorithm; a step only in its queue's turn (R303, R305). -/
def collectiveStep (vf : Nat) (s : State) : State :=
  if !s.mayStep vf then s
  else match s.headColl vf with
    | none => s
    | some c => match s.nextAct c with
      | none => s
      | some a =>
        if a.moved.isNone then s.doAct vf c a
        else
          let s := s.collRound c.blk.key.part
          if s.collDeficit vf ≤ 0 then s else s.doAct vf c a
def execCollectiveStep (vf : Nat) (s : State) : Out := .next (collectiveStep vf s)

/-! ### The end (R306) -/

/-- What other members have sent for a collective forgotten. -/
def State.dropMessages (k : CollKey) (s : State) : State :=
  s.onColl fun x => { x with chunks := x.chunks.filter (fun c => c.key != k), blocks := x.blocks.filter (fun b => b.key != k),
                             results := x.results.filter fun p => ((p.red.bind RedKey.coll).map CollTag.key) != some k }
/-- The head of the queue ends: its reservations are released, its bead counter rises, the next takes its place. -/
def State.collDone (vf : Nat) (c : Coll) (s : State) : State :=
  let s := c.bookings.foldl (fun s b => s.dropBooking b.2) s
  let s := (s.setVf vf fun v => { v with colls := v.colls.tail }).dropMessages c.blk.key
  s.addBead c.blk.core.part c.blk.core.num c.blk.bead
/-- STATUS of an ended collective: SATF when a sum in this member's result has saturated. -/
def Coll.status (c : Coll) (outcome : Nat) : Nat :=
  outcome + c.algo % 8 * 2 ^ 8 + (if c.fellBack then 2 ^ 11 else 0) + (if c.work.any fun w => !w.2.sat.isEmpty then 2 ^ 12 else 0)
/-- STATUS written, and the end; a STAGE2 miss on the way waits. -/
def State.collEnd (vf outcome : Nat) (c : Coll) (s : State) : State :=
  let part := (s.vfAt vf).part.getD 0
  match s.collPlaces vf true 2 (c.blk.addr.toNat + 0x28) 8 with
  | (.ok l, s) => (s.collPut part Mark.empty l (natLe (c.status outcome) 8)).collDone vf c
  | (.error (e, a), s) => if e.cause = .stage2 then s.collMiss vf c.blk.core.num e a true else s.collDone vf c

/-- COLLECTIVE_END: a collective that has failed, or that has nothing left to do. -/
def collectiveEnd (vf : Nat) (s : State) : State :=
  match s.headColl vf with
  | none => s
  | some c =>
    if c.misses.any fun p => (s.vfAt vf).reqQ.any fun r => r.page == p then s
    else match c.outcome with
    | some o => s.collEnd vf o c
    | none => if c.planned && (s.nextAct c).isNone then s.collEnd vf 0 c else s
def execCollectiveEnd (vf : Nat) (s : State) : Out := .next (collectiveEnd vf s)

end Sys2Proof.Machine
end

