-- ==== Sys2Proof/Machine/Dispatcher.lean ====
section
/-! DEFINITION. The dispatcher: launch checks, candidates, task starts, hand-outs, completions, pre-emption, resumes, and the frame rota
of sealed partitions (R26 to R39, R47 to R50, R354, R371 to R375, R426). Each event changes nothing where it cannot happen. -/

namespace Sys2Proof.Machine

/-! ### Guest memory as the dispatcher reads and writes it -/

/-- n bytes at a guest-virtual address in a function's context; none where the read fails. -/
def State.fetchGva (vf : Nat) (addr : W64) (n : Nat) (s : State) : Option (List Byte) × State :=
  let part := (s.vfAt vf).part.getD 0
  match s.translate (s.whoVf vf) .home false addr with
  | (.ok (.mem hpa _ _ _), s) =>
    if s.badBlock part hpa n || s.poisoned hpa n then (none, s) else (some (s.seen part hpa n), s.afterRead part hpa n)
  | (_, s) => (none, s)
/-- STATUS written in a task record; nothing where the address does not translate. -/
def State.putStatus (vf part : Nat) (addr : Nat) (v : Nat) (s : State) : State :=
  match s.translate (s.whoVf vf) .home true (BitVec.ofNat 64 (addr + 0x28)) with
  | (.ok (.mem hpa frame _ _), s) => s.writeData part (s.partAt part).gen .plain hpa frame (natLe v 8) Mark.empty
  | (_, s) => s
/-- The signal counter: SIG.ADD added to a word of the commons scratchpad (R33). -/
def State.signalTask (ctr add : W32) (s : State) : State :=
  if ctr = 0xFFFFFFFF then s
  else s.onXr fun x => { x with scr := Sparse.set 0 x.scr ctr.toNat (Sparse.get 0 x.scr ctr.toNat + add) }
/-- An outcome counted for its function (R422). -/
def State.countOutcome (vf c : Nat) (s : State) : State :=
  s.setVf vf fun v => { v with cnt := { v.cnt with outcomes := v.cnt.outcomes.setIfInBounds c (v.cnt.outcomes[c]?.getD 0 + 1) } }
/-- A task that never started ends: STATUS, signal, count (R34). -/
def State.reject (vf addr outcome : Nat) (ctr add : W32) (s : State) : State :=
  ((s.putStatus vf ((s.vfAt vf).part.getD 0) addr outcome).signalTask ctr add).countOutcome vf outcome

/-! ### Launch checks (R26, R27, R34) -/

/-- Levels of a nest record. -/
def nestLevels (b : List Byte) (n : Nat) : List Level :=
  (List.range n).map fun i => ⟨sextNat 32 (leAt b (8 + 12 * i) 4), sextNat 32 (leAt b (12 + 12 * i) 4), sextNat 32 (leAt b (16 + 12 * i) 4)⟩
/-- The order fields that are read, outermost first. -/
def nestOrder (b : List Byte) (n : Nat) : List Nat := (List.range n).map fun i => leAt b 2 1 / 4 ^ i % 4
/-- The checked task of a record and its nest record. -/
def parseTask (addr : Nat) (b nest : List Byte) : TaskRec :=
  let n := leAt nest 1 1
  { addr := BitVec.ofNat 64 addr, text := BitVec.ofNat 64 (leAt b 0 8), param := BitVec.ofNat 64 (leAt b 0x10 8)
    cores := leAt b 0x18 2, prio := leAt b 0x1A 1 % 4, persist := leAt b 0x1C 4 % 2 == 1
    sigCtr := BitVec.ofNat 32 (leAt b 0x20 4), sigAdd := BitVec.ofNat 32 (leAt b 0x24 4)
    waits := (List.range (leAt b 0x1B 1)).map fun i => (BitVec.ofNat 32 (leAt b (0x30 + 8 * i) 4), BitVec.ofNat 32 (leAt b (0x34 + 8 * i) 4))
    group := BitVec.ofNat 64 (leAt b 0x50 8), window := 0, static := leAt nest 0 1 == 1
    order := nestOrder nest n, levels := nestLevels nest n }
/-- RECORD (R34): NWAIT, reserved fields, the alignment of TEXT and NEST. -/
def taskRecordBad (b : List Byte) : Bool :=
  decide (4 < leAt b 0x1B 1) || leAt b 0 8 / 2 ^ 57 != 0 || leAt b 0x1A 1 / 4 != 0 || leAt b 0x1C 4 / 2 != 0 || leAt b 0x58 40 != 0
    || leAt b 0 8 % 256 != 0 || leAt b 8 8 % 64 != 0
/-- NEST (R34): MODE, LEVELS, ORDER, the STEPs, N. -/
def nestBad (nest : List Byte) (r : TaskRec) : Bool :=
  let n := leAt nest 1 1
  decide (1 < leAt nest 0 1) || n == 0 || decide (4 < n) || !(List.range n).all r.order.contains || r.levels.any (fun l => decide (l.step < 1))
    || decide (2 ^ 32 ≤ r.jobCount)

/-- The cores of a partition, by logical number. -/
def State.partCores (s : State) (part : Nat) : List Core := s.cores.filter fun c => c.place.part == part && decide (c.place.num < (s.partAt part).sites.length)
/-- The checks of R34 on a record: accepted, or an outcome with the signal fields, none where the record cannot be read. A GROUP that is no
group window is rejected (R333), last and as RECORD, one whose translation fails as UNREADABLE (log entry 77). -/
def State.checkRecord (vf addr : Nat) (s : State) : Except (Nat × Option (W32 × W32)) TaskRec × State :=
  match s.fetchGva vf (BitVec.ofNat 64 addr) 128 with
  | (none, s) => (.error (4, none), s)
  | (some b, s) =>
    let sig := some (BitVec.ofNat 32 (leAt b 0x20 4), BitVec.ofNat 32 (leAt b 0x24 4))
    if taskRecordBad b then (.error (3, sig), s)
    else match s.fetchGva vf (BitVec.ofNat 64 (leAt b 8 8)) 64 with
      | (none, s) => (.error (4, sig), s)
      | (some nest, s) =>
        let r := parseTask addr b nest
        if leAt nest 3 5 ≠ 0 ∨ leAt nest 0x38 8 ≠ 0 then (.error (3, sig), s)
        else if nestBad nest r then (.error (2, sig), s)
        else if r.cores = 0 ∨ (s.partAt ((s.vfAt vf).part.getD 0)).sites.length < r.cores then (.error (1, sig), s)
        else if r.group = 0 then (.ok r, s)
        else match s.groupWindow (s.whoVf vf) r.group with
          | (.ok h, s) => (.ok { r with window := h + 1 }, s)
          | (.error broken, s) => (.error (if broken then 4 else 3, sig), s)
/-- TASK_RECORD_CHECK: the first record of a launch queue that has not been checked (R34). -/
def taskRecordCheck (vf : Nat) (s : State) : State :=
  let v := s.vfAt vf
  let live := (v.part.map fun p => (s.partAt p).st == .live).getD false
  match lowest (fun l => l.checked.isNone) v.launch, live with
  | some i, true =>
    let addr := ((v.launch[i]?).map fun l => l.addr.toNat).getD 0
    (match s.checkRecord vf addr with
      | (.ok r, s) => s.setVf vf fun v => { v with launch := v.launch.modify i fun l => { l with checked := some r } }
      | (.error (outcome, sig), s) =>
        let s := s.setVf vf fun v => { v with launch := v.launch.eraseIdx i }
        match sig with
        | none => s.countOutcome vf outcome
        | some (c, a) => s.reject vf addr outcome c a)
  | _, _ => s
def execTaskRecordCheck (vf : Nat) (s : State) : Out := .next (taskRecordCheck vf s)

/-- UNGATE: a task at the head of a launch queue of a gated partition (R354). -/
def execUngate (part : Nat) (s : State) : Out :=
  .next (if (s.partAt part).st = .gated ∧ s.disp.vfs.toList.any (fun v => v.part == some part && !v.launch.isEmpty) then
    s.setPart part fun p => { p with st := .live } else s)

/-! ### Candidates (R36 to R38) -/

/-- Whether a task's wait events hold (R36). -/
def State.eligible (s : State) (r : TaskRec) : Bool :=
  r.waits.all fun (c, t) => !(Sparse.get 0 s.xr.scr c.toNat).ult t
/-- Whether a context of a task stands on a core. -/
def State.taskLive (s : State) (t : Nat) : Bool := s.cores.any (Core.runsTask t)
/-- Whether a started task has saved contexts to come back, none of them waiting for a page (R38, R345); or has nothing resident and nothing
saved, and cores it left waiting for a job (log entry 12). -/
def State.resumable (s : State) (k : Task) : Bool :=
  let saved := s.disp.saved.filter (Core.runsTask k.id)
  k.outcome.isNone && (if saved.isEmpty then !s.taskLive k.id && k.cores.any fun p => p.2 == .waiting
    else !saved.any fun c => s.waitsPage k.vf c.place.num k.id)

/-- A candidate: a place of the launch queue, or a task to resume. -/
inductive Cand
  | fresh (i : Nat) (r : TaskRec) (age : Nat)
  | resume (k : Task)
deriving DecidableEq, Repr
def Cand.prio : Cand → Nat
  | .fresh _ r _ => r.prio
  | .resume k => k.r.prio
/-- Its place in the order of launches. -/
def Cand.age : Cand → Nat
  | .fresh _ _ n => n
  | .resume k => k.age
/-- The oldest of the highest priority. -/
def bestCand : List Cand → Option Cand
  | [] => none
  | c :: cs => match bestCand cs with
    | none => some c
    | some d => if d.prio < c.prio ∨ (d.prio = c.prio ∧ d.age < c.age) then some d else some c
/-- The candidate of a function (R36): the oldest launch of the highest priority, queued and eligible or started and waiting to resume. -/
def State.candidate (vf : Nat) (s : State) : Option Cand :=
  let old := (s.disp.tasks.filter fun k => k.vf == vf && s.resumable k).map Cand.resume
  let new := (s.vfAt vf).launch.zipIdx.filterMap fun (l, i) => match l.checked with
    | some r => if s.eligible r then some (Cand.fresh i r l.age) else none
    | none => none
  bestCand (old ++ new)

/-- The functions of a partition, ascending. -/
def State.vfsOf (s : State) (part : Nat) : List Nat := (List.range 192).filter fun v => (s.vfAt v).part == some part
/-- Whether a function's visit has found it with a candidate and a positive deficit, and the candidate has still to start (R37). -/
def State.served (s : State) (vf : Nat) : Bool :=
  (s.candidate vf).isSome && (s.partAt ((s.vfAt vf).part.getD 0)).turns.contains vf
/-- A visit has started its candidate. -/
def State.endTurn (vf : Nat) (s : State) : State :=
  s.setPart ((s.vfAt vf).part.getD 0) fun p => { p with turns := p.turns.erase vf }
/-- The free logical cores of a partition, ascending. -/
def State.freeCores (s : State) (part : Nat) : List Nat :=
  (List.range (s.partAt part).sites.length).filter fun n => ((s.coreAt ⟨part, n⟩).map Core.isFree).getD false
/-- The logical cores a task needs to resume: those that hold its saved contexts, or where none was saved, those that wait for a job. -/
def State.resumeCores (s : State) (k : Task) : List Nat :=
  let saved := s.disp.saved.filter (Core.runsTask k.id)
  if saved.isEmpty then (k.cores.filter fun p => p.2 == .waiting).map Prod.fst else saved.map fun c => c.place.num
/-- The cores a candidate takes from the free ones, none while they do not suffice (R38). -/
def State.coresFor (s : State) (free : List Nat) : Cand → Option (List Nat)
  | .fresh _ r _ => if r.cores ≤ free.length then some (free.take r.cores) else none
  | .resume k => let l := s.resumeCores k; if l.all free.contains then some l else none
/-- The free cores that functions visited earlier leave to a function: what their candidates wait for is not theirs to take (R38). -/
def State.leftFor (s : State) (part : Nat) : List Nat → List Nat → List Nat
  | [], free => free
  | v :: vs, free =>
    let free := match s.candidate v, s.served v with
      | some (.fresh _ r _), true => free.drop r.cores
      | some (.resume k), true => free.filter fun n => !(s.resumeCores k).contains n
      | _, _ => free
    State.leftFor s part vs free

/-! ### Frames of sealed partitions (R370 to R373) -/

/-- The world of a core's current frame. -/
def Rota.world (r : Rota) : Option Nat := (r.entries[r.ix]?).bind fun e => e.vfn
/-- Whether a core's frame is a function's, its first word may execute, and the function is not idle after an overrun (R372, R373). -/
def State.inFrame (vf : Nat) (c : CoreId) (s : State) : Bool :=
  ((s.rotaOf c).map fun r => r.world == some vf && r.opens.isNone).getD false && !(s.vfAt vf).idle

/-- The cores on which a function's candidate may start or resume now. -/
def State.grantFree (vf : Nat) (s : State) : List Nat :=
  let part := (s.vfAt vf).part.getD 0
  let free := s.freeCores part
  if (s.partAt part).isSealed then free.filter fun n => s.inFrame vf ⟨part, n⟩
  else s.leftFor part ((s.partAt part).turns.takeWhile (· != vf)) free
/-- Whether the dispatcher serves a function now: its partition is live, and round robin or the frame lets it (R37, R370). -/
def State.mayServe (vf : Nat) (s : State) : Bool :=
  match (s.vfAt vf).part with
  | none => false
  | some p => (s.partAt p).st == .live && ((s.partAt p).isSealed || s.served vf)

/-! ### Starting a task (R24, R30, R35, R426) -/

/-- The words of n text pages from an address; a page that cannot be read is zeros, and says so. -/
def State.textPages (vf : Nat) : Nat → Nat → Nat → State → List (List Byte) × State
  | 0, _, _, s => ([], s)
  | k + 1, a, left, s =>
    let n := min left (4096 - a % 4096)
    if n = 0 then ([], s)
    else
      let (b, s) := s.fetchGva vf (BitVec.ofNat 64 a) n
      let (rest, s) := State.textPages vf k (a + n) (left - n) s
      ((b.getD (List.replicate n 0)) :: rest, s)
/-- The text image of 64 KiB; none when the page that holds TEXT cannot be read. -/
def State.readText (vf : Nat) (text : W64) (s : State) : Option (Sparse W32) × State :=
  let a := text.toNat
  match s.fetchGva vf text (min 65536 (4096 - a % 4096)) with
  | (none, s) => (none, s)
  | (some _, s) =>
    let (pages, s) := State.textPages vf 17 a 65536 s
    let bs := pages.flatten
    (some ((List.range Config.textWords).filterMap fun i =>
      let w : W32 := BitVec.ofNat 32 (leNat ((bs.drop (4 * i)).take 4))
      if w = 0 then none else some (i, w)), s)

/-- A DOM register: rank and count. -/
def domReg (rank count : Nat) : W64 := BitVec.ofNat 64 (rank + count * 2 ^ 32)
/-- The DOM registers of the n-th core of a task (R35): places within the hamlet, the die, the module and the torus group, which the tasks
of the partition make that name the same GROUP window. -/
def State.domOf (s : State) (part : Nat) (r : TaskRec) (cores : List Nat) (num : Nat) : Vector W64 5 :=
  let site (n : Nat) : Nat := ((s.coreAt ⟨part, n⟩).map fun c => c.place.site).getD 0
  let within (f : Nat → Nat) : W64 :=
    let l := cores.filter fun n => f (site n) == f (site num)
    domReg (l.filter (· < num)).length l.length
  let earlier := (s.disp.tasks.filter fun k => k.part == part && k.r.window == r.window).map fun k => k.cores.length
  let before := earlier.foldl (· + ·) 0
  let grp := if r.group = 0 then 0 else domReg (before + (cores.filter (· < num)).length) (before + cores.length)
  #v[domReg 0 1, within (· / 8), within (· / 128), domReg (cores.filter (· < num)).length cores.length, grp]

/-- A granted core before its first job (R24): every entry zero, the engines as at HALT. -/
def Core.seated (k : Task) (dom : Vector W64 5) (s1tb : W64) (slip precfg : W32) (c : Core) : Core :=
  let c' := c.cleared
  { c' with place := { c'.place with vf := k.vf, task := some k.id, run := .running }
            regs := { c'.regs with slip := slip, precfg := precfg, s1tb := s1tb, dom := dom }
            walk := { c'.walk with text := k.text, engs := c'.walk.engs.map (Eng.wait .atHalt) } }
/-- The bindings that name a core of a task: they stand while the task's other contexts, resident or saved, hold them (R23). -/
def State.boundTo (k : Task) (num : Nat) (s : State) : Vector (Option BoundFrom) 4 :=
  let ctx := (s.cores ++ s.disp.saved).filter fun c => c.place.part == k.part && c.runsTask k.id
  Vector.ofFn fun q => ctx.findSome? fun c => (List.finRange 2).findSome? fun i => match c.q.bound[i] with
    | some b => if b.peer = num ∧ b.plq = q then some ⟨c.place.num, i⟩ else none
    | none => none
/-- A core of a task seated: every register zero, its bead counters zero at the task's first start there (R24, R25). -/
def State.seat (k : Task) (num : Nat) (s : State) : State :=
  let v := s.vfAt k.vf
  let p := s.partAt k.part
  let dom := ((k.doms.find? fun d => d.1 == num).map Prod.snd).getD (Vector.replicate 5 0)
  let from_ := s.boundTo k num
  (s.atCore ⟨k.part, num⟩ fun c => let c := Core.seated k dom v.s1tb p.slip p.precfg c; { c with q := { c.q with boundFrom := from_ } }).takeRx
    k.id k.part num
/-- A static core's schedule table, and its start (R30). -/
def State.startStatic (k : Task) (n i num : Nat) (s : State) : State :=
  let count := if i < k.jobs then (k.jobs - i + n - 1) / n else 0
  let idx := if count = 0 then List.replicate 4 0 else k.r.indices i
  s.atCore ⟨k.part, num⟩ fun c =>
    Core.jobStart k.r.param idx i { c with place := { c.place with first := i, stride := n, count := count, cursor := 0 } }

/-- The candidate of a launch queue starts on some cores. -/
def State.startTask (vf i : Nat) (r : TaskRec) (cores : List Nat) (s : State) : State :=
  let part := (s.vfAt vf).part.getD 0
  let age := (((s.vfAt vf).launch[i]?).map Launch.age).getD 0
  let s := s.setVf vf fun v => { v with launch := v.launch.eraseIdx i }
  if r.jobCount = 0 then s.reject vf r.addr.toNat 0 r.sigCtr r.sigAdd
  else match s.readText vf r.text with
    | (none, s) => s.reject vf r.addr.toNat 4 r.sigCtr r.sigAdd
    | (some text, s) =>
      let k : Task := { id := s.disp.nextTask, vf := vf, part := part, r := r, jobs := r.jobCount, nextJob := 0,
                        cores := cores.map fun n => (n, if r.static then .running else .waiting),
                        doms := cores.map fun n => (n, s.domOf part r cores n), lastServed := [], residue := false,
                        text := text, discarded := 0, outcome := none, failCore := 0, age := age }
      let s := s.onDisp fun d => { d with tasks := d.tasks ++ [k], nextTask := d.nextTask + 1 }
      let s := if s.mgmt.replay.mode != 0 && s.mgmt.replay.part == some part then
          s.onMgmt fun m => { m with replay := { m.replay with begun := true, since := if m.replay.begun then m.replay.since else s.gcc } } else s
      let s := cores.foldl (fun s n => s.seat k n) s
      if r.static then cores.zipIdx.foldl (fun s (n, j) => s.startStatic k cores.length j n) s else s
/-- TASK_START (R38). -/
def taskStart (vf : Nat) (s : State) : State :=
  if !s.mayServe vf then s
  else match s.candidate vf with
    | some (.fresh i r n) => (match s.coresFor (s.grantFree vf) (.fresh i r n) with
      | some cores => (s.endTurn vf).startTask vf i r cores
      | none => s)
    | _ => s
def execTaskStart (vf : Nat) (s : State) : Out := .next (taskStart vf s)

/-! ### Hand-outs (R29, R31, R32) -/

/-- The cores of a task that claim a job: free ones, and JOBNEXT requests. -/
def State.claims (s : State) (k : Task) : List Nat :=
  (k.cores.filter fun p => match s.coreAt ⟨k.part, p.1⟩ with
    | some c => c.runsTask k.id && c.place.run == .running
        && ((p.2 == .waiting && !c.walk.softReq && !c.walk.hardStop) || (p.2 == .running && c.walk.jobReq.isSome))
    | none => false).map Prod.fst
/-- The core served next: the lowest die, and on it the rotating order (R29). -/
def State.nextClaim (s : State) (k : Task) : Option Nat :=
  let die (n : Nat) : Nat := ((s.coreAt ⟨k.part, n⟩).map fun c => c.place.site / 128).getD 0
  let l := s.claims k
  match l with
  | [] => none
  | n :: ns =>
    let d := ns.foldl (fun m x => min m (die x)) (die n)
    let on := ascending (l.filter fun x => die x == d)
    let last := (k.lastServed.find? fun x => x.1 == d).map Prod.snd
    match last with
    | none => on.head?
    | some y => ((on.filter fun x => decide (y < x)) ++ on).head?
/-- A job, or none, given to a core of a task. -/
def State.giveCore (k : Task) (num : Nat) (s : State) : State :=
  let die := ((s.coreAt ⟨k.part, num⟩).map fun c => c.place.site / 128).getD 0
  let j := k.nextJob
  if k.jobs ≤ j then
    s.atCore ⟨k.part, num⟩ fun c => match c.walk.jobReq with
      | some pos => { c.wake with walk := { c.wake.walk with jobGives := c.walk.jobGives ++ [⟨pos, none⟩], jobReq := none } }
      | none => c
  else
    let s := s.setTask k.id fun k => { Task.setSeat num .running k with
      nextJob := j + 1, lastServed := (die, num) :: k.lastServed.filter fun x => x.1 != die }
    let s := s.atCore ⟨k.part, num⟩ fun c => match c.walk.jobReq with
      | some pos => { c.wake with walk := { c.wake.walk with jobGives := c.walk.jobGives ++ [⟨pos, some j⟩], jobReq := none },
                                  place := { c.place with job := j } }
      | none => Core.jobStart k.r.param (k.r.indices j) j c
    (s.releaseIdle k.id).meshDown ⟨k.part, num⟩ .urgent
/-- JOB_HANDOUT to a core, when the order of R29 comes to it; the choice is recorded or forced. -/
def jobHandout (c : CoreId) (s : State) : State :=
  match ((s.coreAt c).bind fun x => x.place.task).bind s.taskAt with
  | none => s
  | some k =>
    let asked := (s.claims k).contains c.num
    if k.r.static || !asked then s
    else match if s.watched 2 0 c.part then s.choose 0 c.part ((((s.coreAt c).map fun x => x.place.site).getD 0) / 128) (whoCode c.num k.vf k.nextJob)
      else if s.nextClaim k = some c.num then s.choose 0 c.part ((((s.coreAt c).map fun x => x.place.site).getD 0) / 128) (whoCode c.num k.vf k.nextJob) else none with
      | some s => s.giveCore k c.num
      | none => s
def execJobHandout (c : CoreId) (s : State) : Out := .next (jobHandout c s)

/-! ### Completion (R33) -/

/-- STATUS of a started task (R26). -/
def Task.status (k : Task) : Nat :=
  k.outcome.getD 0 + (if k.residue then 2 ^ 8 else 0) + k.failCore % 2 ^ 16 * 2 ^ 16 + k.discarded % 2 ^ 16 * 2 ^ 48
/-- Whether a task is over: it has an outcome, or every core has halted for good. -/
def Task.over (k : Task) : Bool := k.outcome.isSome || k.cores.all fun p => p.2 == .released
/-- TASK_COMPLETION: the stores of a halted task have performed; STATUS, the signal, the count. -/
def taskCompletion (t : Nat) (s : State) : State :=
  match s.taskAt t with
  | none => s
  | some k =>
    if !k.over || s.taskLive t || s.disp.saved.any (Core.runsTask t) then s
    else
      let s := (s.putStatus k.vf k.part k.r.addr.toNat k.status).signalTask k.r.sigCtr k.r.sigAdd
      (s.countOutcome k.vf (k.outcome.getD 0)).onDisp fun d => { d with tasks := d.tasks.filter fun x => x.id != t }
def execTaskCompletion (t : Nat) (s : State) : Out := .next (taskCompletion t s)

/-! ### Round robin and pre-emption (R37, R47 to R50) -/

/-- Whether a function runs a task. -/
def State.vfRuns (s : State) (vf : Nat) : Bool := s.cores.any fun c => c.place.task.isSome && c.place.vf == vf
/-- The visit of a function: with a candidate and a weight its deficit rises, and a positive one lets the candidate start; without a candidate
and without a running task its deficit is set to zero (R37). -/
def State.visitVf (part v : Nat) (s : State) : State :=
  let s := s.setPart part fun p => { p with visited := v + 1 }
  if (s.candidate v).isSome then
    if (s.vfAt v).weight = 0 then s
    else
      let s := s.setVf v fun x => { x with deficit := x.deficit + x.weight * (s.partAt part).quantum }
      if 0 < (s.vfAt v).deficit then s.setPart part fun p => { p with turns := p.turns.erase v ++ [v] } else s
  else if s.vfRuns v then s
  else s.setVf v fun x => { x with deficit := 0 }
/-- DISPATCHER_ROUND: the round's next visit, in ascending number; after the last, a new round begins once every candidate that a visit let
start has started (R37; log entry 10). -/
def dispatcherRound (part : Nat) (s : State) : State :=
  let p := s.partAt part
  if p.st ≠ .live ∨ p.isSealed then s
  else match (s.vfsOf part).find? fun v => decide (p.visited ≤ v) with
    | some v => s.visitVf part v
    | none => if p.turns.any s.served then s else s.setPart part fun p => { p with visited := 0, turns := [] }
def execDispatcherRound (part : Nat) (s : State) : Out := .next (dispatcherRound part s)

/-- GRACE and KILL of PRECFG as real time; the value 0 means 1 (R49). -/
def Core.graceTime (c : Core) : Nat := max 1 (fld c.regs.precfg 0 16) * microsecond
def Core.killTime (c : Core) : Nat := max 1 (fld c.regs.precfg 16 16) * (100 * microsecond)
/-- A soft request on its way to a context: the grace timer runs from here (R49). -/
def Core.askSoft (now : Nat) (c : Core) : Core :=
  if c.walk.grace || c.walk.softReq || c.walk.hardStop || c.walk.kill then c
  else { c with walk := { c.walk with grace := true, timer := now + c.graceTime } }
/-- DEFICIT_EXHAUSTED: soft requests to the running tasks of a function while another of its partition has a candidate. -/
def deficitExhausted (vf : Nat) (s : State) : State :=
  match (s.vfAt vf).part with
  | none => s
  | some p =>
    let other := (s.vfsOf p).any fun v => v != vf && decide (0 < (s.vfAt v).weight) && (s.candidate v).isSome
    if 0 < (s.vfAt vf).deficit ∨ !other ∨ (s.partAt p).isSealed then s
    else
      let f (c : Core) : Core :=
        if c.place.vf = vf ∧ c.place.part = p ∧ c.place.task.isSome then c.askSoft s.mgmt.power.time else c
      { s with core := f s.core, others := s.others.map f }
def execDeficitExhausted (vf : Nat) (s : State) : Out := .next (deficitExhausted vf s)

/-- A soft request becomes pending at a core: one that holds no job is released (R47). -/
def State.softAt (c : CoreId) (s : State) : State :=
  match s.coreAt c with
  | none => s
  | some k =>
    let waiting : Bool := match k.place.task.bind s.taskAt with
      | some t => t.seat c.num == some .waiting
      | none => false
    let s := s.meshDown c .urgent
    if waiting then s.atCore c Core.freed
    else (s.endMonitor c).atCore c fun k => { k.wake with walk := { k.wake.walk with softReq := true } }
/-- SOFT_REQUEST_ARRIVAL. -/
def softRequestArrival (c : CoreId) (s : State) : State :=
  match s.coreAt c with
  | none => s
  | some k => if k.walk.grace && !k.walk.softReq then s.softAt c else s
def execSoftRequestArrival (c : CoreId) (s : State) : Out := .next (softRequestArrival c s)

/-- The hard step: every engine stops at its next word boundary, M at the end of its K-step, and the kill timer runs from the expiry of the
grace timer (R49, R50, R221). -/
def Core.hard (gcc : W64) (c : Core) : Core :=
  { c.wake with walk := { c.wake.walk with hardStop := true, kill := true, grace := false, timer := c.walk.timer + c.killTime }
                mat := { c.mat with ops := c.mat.ops.map (MatOp.halt gcc) } }
/-- GRACE_EXPIRY: the grace time has passed without a soft stop. -/
def graceExpiry (c : CoreId) (s : State) : State :=
  match s.coreAt c with
  | none => s
  | some k =>
    if k.walk.grace && !k.walk.hardStop && decide (k.walk.timer ≤ s.mgmt.power.time) then (s.endMonitor c).atCore c (Core.hard s.gcc) else s
def execGraceExpiry (c : CoreId) (s : State) : Out := .next (graceExpiry c s)
/-- KILL_EXPIRY: the kill time has passed without a completed save. -/
def killExpiry (c : CoreId) (s : State) : State :=
  match s.coreAt c with
  | none => s
  | some k => if k.walk.kill && k.walk.hardStop && decide (k.walk.timer ≤ s.mgmt.power.time) then s.killContext c else s
def execKillExpiry (c : CoreId) (s : State) : Out := .next (killExpiry c s)

/-- A saved context back on its core, or a core that waited for a job seated again (R38). -/
def State.comeBack (k : Task) (num : Nat) (s : State) : State :=
  let id : CoreId := ⟨k.part, num⟩
  match s.disp.saved.find? fun c => c.id == id && c.runsTask k.id with
  | some img =>
    let s := s.onDisp fun d => { d with saved := d.saved.filter fun c => !(c.id == id && c.runsTask k.id) }
    (match s.focus id with
      | some s => (s.restore img).takeRx k.id k.part num
      | none => s)
  | none => if k.seat num = some .waiting then s.seat k num else s
/-- CONTEXT_RESUME: a saved task is its function's candidate and its cores are free. -/
def contextResume (t : Nat) (s : State) : State :=
  match s.taskAt t with
  | none => s
  | some k =>
    if !s.mayServe k.vf || (s.partAt k.part).isSealed then s
    else match s.candidate k.vf with
      | some (.resume k') =>
        if k'.id ≠ t then s
        else (match s.coresFor (s.grantFree k.vf) (.resume k) with
          | some cores => cores.foldl (fun s n => s.comeBack k n) (s.endTurn k.vf)
          | none => s)
      | _ => s
def execContextResume (t : Nat) (s : State) : Out := .next (contextResume t s)

/-! ### The frame rota (R371 to R374) -/

/-- A frame's length in cycles, and its seal window. -/
def frameLen (e : RotaEntry) : Nat := (if e.lenu = 0 then 64 else e.lenu) * 65536
def sealLen (e : RotaEntry) : Nat := (if e.swin = 0 then 64 else e.swin) * 256
def State.setRota (c : CoreId) (f : Rota → Rota) (s : State) : State :=
  s.onDisp fun d => { d with rotas := d.rotas.map fun r => if r.part = c.part ∧ r.core = c.num then f r else r }

/-- Whether the seal window of a frame has come (R372). -/
def State.windowDue (s : State) (r : Rota) : Bool :=
  !r.windowOpen && ((r.entries[r.ix]?).map fun e => s.reached (r.edge - BitVec.ofNat 64 (sealLen e))).getD false
/-- SEAL_WINDOW: the soft request to the frame's world (R372). -/
def sealWindow (c : CoreId) (s : State) : State :=
  match s.rotaOf c with
  | none => s
  | some r => if s.windowDue r then (s.setRota c fun r => { r with windowOpen := true }).softAt c else s
def execSealWindow (c : CoreId) (s : State) : Out := .next (sealWindow c s)

/-- Whether the context of the core that moves is at job end; whether it is stopped (R373). -/
def State.atJobEnd (s : State) : Bool :=
  (s.core.place.task.bind fun t => (s.taskAt t).bind fun k => k.seat s.core.place.num) == some .waiting
def Core.atRest (c : Core) : Bool := c.place.run == .stopped || c.place.run == .debug || engines.all fun e => (c.eng e).atPoint
/-- Whether an edge seals the context of the core that moves: one that has stopped, or is at job end (R373; log entry 21). -/
def State.seals (s : State) : Bool := s.core.place.task.isSome && (s.atJobEnd || s.core.atRest)
/-- The outgoing world at an edge: sealed, overrun, or nothing there; none while a stopped context has still to settle (R373). -/
def State.sealOut (s : State) : Option State :=
  let c := s.core
  match c.place.task with
  | none => some s
  | some _ =>
    if s.atJobEnd then some (s.onCore Core.freed)
    else if c.atRest then (if c.settled then some s.saveContext else none)
    else if c.place.run == .scrubbing then some s
    else
      let e := (engines.find? fun e => (c.eng e).six == c.trailing).getD .s
      let f : FaultRec := ⟨.frameOverrun, e, (c.eng e).pc, (c.eng e).six, 0, 0, c.regs.hmode && e == .s, []⟩
      some ((s.stopFor f).setVf c.place.vf fun v => { v with idle := true })
/-- T: the cycles in which a context is sealed or restored, by the tiles and bank groups it holds (R372). -/
def Core.sealTime (c : Core) : Nat :=
  let m := c.savedMasks
  4160 + 256 * (bitsSet m.1 8).length + 2048 * (bitsSet m.2 4).length
/-- The started task of a world that comes back to the core: one with a context saved from it, or that waits for a job on it. -/
def State.comesBack (vf : Nat) (id : CoreId) (s : State) : Option Task :=
  if (s.vfAt vf).idle then none
  else s.disp.tasks.find? fun k => k.vf == vf && k.part == id.part && k.outcome.isNone
    && ((s.disp.saved.any fun c => c.id == id && c.runsTask k.id) || k.seat id.num == some .waiting)
/-- The image that a world restores on a core. -/
def State.imageIn (vf : Nat) (id : CoreId) (s : State) : Option Core :=
  (s.comesBack vf id).bind fun k => s.disp.saved.find? fun c => c.id == id && c.runsTask k.id
/-- A stored image that does not match its tags: the alarm is raised and the task fails, as for INTEGRITY (R44, R370; log entry 85). -/
def State.imageBad (k : Task) (num : Nat) (s : State) : State :=
  (((s.setPart k.part fun p => { p with alarm := true }).notice ⟨.sealAlarm, k.vf, num, 0, s.gcc⟩).failTask k.id num).dropImage ⟨k.part, num⟩ k.id
/-- The incoming world: its saved context on this core, its core that waited for a job, or its queued task (R372). -/
def State.restoreIn (vf : Nat) (s : State) : State :=
  let id := s.core.id
  if !s.core.isFree then s
  else match s.comesBack vf id with
    | some k => if s.imageFails vf id k.id then s.imageBad k id.num else (s.comeBack k id.num).dropImage id k.id
    | none => taskStart vf s
/-- The world of a frame comes in, in the cycle in which its first word may execute (R372). -/
def worldIn (c : CoreId) (s : State) : State :=
  match s.focus c, s.rotaOf c with
  | some f, some r =>
    if (r.opens.map s.reached).getD false then
      let f := f.setRota c fun r => { r with opens := none }
      match r.world with
      | some v => f.restoreIn v
      | none => f
    else s
  | _, _ => s
/-- FRAME_EDGE (R372, R373): the outgoing context is sealed, and the incoming frame's first word may execute at E + T_out + T_in. -/
def frameEdge (c : CoreId) (s : State) : State :=
  match s.focus c, s.rotaOf c with
  | some f, some r =>
    if !s.reached r.edge then s
    else match f.sealOut with
      | none => s
      | some t =>
        let ix := if r.entries.length ≤ r.ix + 1 then 0 else r.ix + 1
        let len := ((r.entries[ix]?).map frameLen).getD 65536
        let vf := (r.entries[ix]?).bind fun e => e.vfn
        let tout := if f.seals then f.core.sealTime else 0
        let tin := ((vf.bind fun v => t.imageIn v c).map Core.sealTime).getD 0
        worldIn c (t.setRota c fun r => { r with ix := ix, edge := r.edge + BitVec.ofNat 64 len, windowOpen := false,
                                                 opens := some (r.edge + BitVec.ofNat 64 (tout + tin)) })
  | _, _ => s
def execFrameEdge (c : CoreId) (s : State) : Out := .next (frameEdge c s)

end Sys2Proof.Machine
end

