-- ==== Sys2Proof/Machine/Firmware.lean ====
section
/-! DEFINITION. What firmware does to partitions: generation bumps, grants, cores, the scrub, and how a command is answered
(R353 to R366, R377 to R379, R384, R390 to R392). -/

namespace Sys2Proof.Machine

/-! ### Commands (R377 to R379, R413, R424) -/

/-- Status codes of a response (R378). -/
inductive CmdStatus | ok | badMsg | denied | noEnt | busy | noRes | state | refused | integrity
deriving DecidableEq, Repr
def CmdStatus.code : CmdStatus → Nat
  | .ok => 0 | .badMsg => 1 | .denied => 2 | .noEnt => 3 | .busy => 4 | .noRes => 5 | .state => 6 | .refused => 7 | .integrity => 8

/-- What a command comes to: a status, with its payload and its effect, or it goes on waiting and has not answered yet. -/
inductive CmdRes
  | done (p : Payload) (s : State)
  | err (c : CmdStatus)
  | wait (s : State)

/-- The code and the payload of a message, and its header, with the key of its session (R378). -/
def Message.opc (m : Message) : Nat := leAt m.bytes 0 2
def Message.payload (m : Message) : List Byte := m.bytes.drop 32
def Message.hdr (m : Message) : CmdHdr :=
  ⟨if leAt m.bytes 8 1 = 0xFF then .hyp else .vf (leAt m.bytes 8 1), BitVec.ofNat 32 (leAt m.bytes 4 4), leAt m.bytes 9 1, leAt m.bytes 10 1, m.key, m.port⟩
def Command.hdr : Command → CmdHdr
  | .bytes m => m.hdr
  | .typed h _ => h
/-- Whether two commands keep their order: those of one issuer on one port (R377). -/
def Command.ordered (a b : Command) : Bool := a.hdr.port == b.hdr.port && a.hdr.issuer == b.hdr.issuer

/-- The response of a command. -/
def State.respond (h : CmdHdr) (c : CmdStatus) (p : Payload) (s : State) : State :=
  s.onMgmt fun m => { m with responses := m.responses ++ [⟨h.reqid, c.code, p⟩], waiting := m.waiting.filter (· != h) }
/-- A command enters the journal (R413). -/
def State.enter (c : Command) (s : State) : State :=
  s.onMgmt fun m => { m with journal := if m.journal.contains c then m.journal else m.journal ++ [c] }
/-- A command that has not answered stays in the journal: it is served again, from its start, until it does. -/
def State.holdCmd (c : Command) (s : State) : State :=
  (s.onMgmt fun m => { m with waiting := if m.waiting.contains c.hdr then m.waiting else m.waiting ++ [c.hdr] }).enter c
/-- Whether a function's partition is sealed (R370). -/
def State.isWorld (s : State) (vf : Nat) : Bool := ((s.vfAt vf).part.map fun p => (s.partAt p).isSealed).getD false
/-- Whether a session carries the commands of an issuer: the control node's those of the hypervisor and of functions, but for those of sealed
partitions, which open their own (R377). -/
def State.carries (s : State) (i : Issuer) (x : UarovSession) : Bool :=
  x.owner == i || (x.owner == .hyp && (match i with
    | .hyp => true
    | .vf n => !s.isWorld n))
/-- Whether a command travels in a session of its port and its requester's key (R286, R377). -/
def State.inSession (s : State) (h : CmdHdr) : Bool :=
  s.mgmt.sessions.any fun x => x.port == h.port && x.key == h.digest && s.carries h.issuer x
/-- A command served: nothing answers once FATAL shows (R413) or outside a session (R377); before step 6 of bring-up only early ones are
accepted (R424). -/
def State.serveCmd (c : Command) (early : Bool) (body : State → CmdRes) (s : State) : State :=
  let h := c.hdr
  if s.mgmt.pins = .fatal || !s.inSession h then s
  else if !early && decide (s.mgmt.step < 6) then s.respond h .state .empty
  else match body s with
    | .done p s => s.respond h .ok p
    | .err c => s.respond h c .empty
    | .wait s => s.holdCmd c
/-- Whether an earlier command of the same issuer on the same port has still to answer, or this one is in the journal itself (R377). -/
def State.queued (s : State) (c : Command) : Bool := s.mgmt.journal.any fun x => x.ordered c
/-- A command that comes with its operands: served, or in the journal behind those that it has to follow (R377, R413). -/
def runCmd (x : Cmd) (h : CmdHdr) (early : Bool) (body : State → CmdRes) (s : State) : Out :=
  .next (if s.queued (.typed h x) then (if s.inSession h then s.enter (.typed h x) else s) else s.serveCmd (.typed h x) early body)

def ok (s : State) : CmdRes := .done .empty s
/-- A command only the hypervisor may issue. -/
def byHyp (h : CmdHdr) (k : CmdRes) : CmdRes := match h.issuer with
  | .hyp => k
  | .vf _ => .err .denied
/-- A command on a partition that exists and is not draining (R379). -/
def onPart (h : CmdHdr) (s : State) (k : Part → CmdRes) : CmdRes :=
  if 48 ≤ h.part then .err (if h.part = 0xFF then .noEnt else .badMsg)
  else match (s.partAt h.part).st with
    | .free => .err .noEnt
    | .draining => .err .state
    | _ => k (s.partAt h.part)
/-- A command on an assigned function whose partition is not draining, with that partition. -/
def onVf (h : CmdHdr) (s : State) (k : Nat → Vf → CmdRes) : CmdRes :=
  if 192 ≤ h.vfn then .err (if h.vfn = 0xFF then .noEnt else .badMsg)
  else match (s.vfAt h.vfn).part with
    | none => .err .noEnt
    | some p => if (s.partAt p).st = .draining then .err .state else k p (s.vfAt h.vfn)
/-- A command only the function itself may issue. -/
def byVf (h : CmdHdr) (k : CmdRes) : CmdRes := match h.issuer with
  | .vf n => if n = h.vfn then k else .err .denied
  | .hyp => .err .denied
/-- A command the function may issue, and the hypervisor unless the function's partition is sealed (R370, R379). -/
def byVfOrHyp (h : CmdHdr) (s : State) (k : CmdRes) : CmdRes := match h.issuer with
  | .vf n => if n = h.vfn then k else .err .denied
  | .hyp => if s.isWorld h.vfn then .err .denied else k

/-! ### Contexts of a partition -/

/-- Whether a core holds a context, and whether a partition has one running or saved (R354). -/
def Core.busy (c : Core) : Bool := !c.isFree
def State.partBusy (s : State) (part : Nat) : Bool :=
  s.cores.any (fun c => c.place.part == part && c.busy) || s.disp.saved.any (fun c => c.place.part == part)
    || s.disp.tasks.any fun t => t.part == part && t.outcome.isNone
/-- Whether a logical core is held by a running or saved task. -/
def State.coreBusy (s : State) (c : CoreId) : Bool :=
  ((s.coreAt c).map Core.busy).getD false || s.disp.saved.any (fun k => k.id == c)
    || s.disp.tasks.any fun t => t.part == c.part && t.outcome.isNone && t.cores.any fun p => p.1 == c.num && p.2 != .released

/-- A queued task ends: its STATUS, its signal, its count (R34). -/
def State.dropLaunch (vf outcome : Nat) (l : Launch) (s : State) : State :=
  match l.checked with
  | some r => s.reject vf l.addr.toNat outcome r.sigCtr r.sigAdd
  | none => match s.fetchGva vf l.addr 128 with
    | (some b, s) => s.reject vf l.addr.toNat outcome (BitVec.ofNat 32 (leAt b 0x20 4)) (BitVec.ofNat 32 (leAt b 0x24 4))
    | (none, s) => s.countOutcome vf outcome
/-- Every queued task of a function ends with an outcome. -/
def State.dropLaunches (vf outcome : Nat) (s : State) : State :=
  let l := (s.vfAt vf).launch
  l.foldl (fun s x => s.dropLaunch vf outcome x) (s.setVf vf fun v => { v with launch := [] })

/-! ### Generations (R363 to R366) -/

/-- Whether the value a bump would take is free (R366). -/
def State.bumpFree (s : State) (part : Nat) : Bool := !(s.partAt part).stale.contains ((s.partAt part).gen + 1)
/-- The combining slots and reservations of a partition cleared, with nothing forwarded (R293, R314). -/
def State.clearSlots (part : Nat) (s : State) : State :=
  let far := (s.coll.bookings.filter fun b => b.part == part).flatMap fun b =>
    ((b.granted ++ b.waitAt.toList).filter fun n => n != s.mgmt.node).map fun n => (n, b.id)
  let s := s.onXr fun x =>
    { x with slots := x.slots.filter fun kv => ((kv.2.map fun z => z.part != part).getD true),
             resv := x.resv.filter fun r => r.part != part, requests := x.requests.filter fun q => q.part != part }
  let s := far.foldl (fun s n => s.tell n.1 (.drop n.2)) s
  let s := s.onColl fun c => { c with bookings := c.bookings.filter fun b => b.part != part }
  let f (c : Core) : Core := if c.place.part = part then { c with port := { c.port with redCredits := [], redOwed := [] } } else c
  { s with core := f s.core, others := s.others.map f }
/-- The collectives of a function end without a STATUS; the other members end with CANCELLED (R306). -/
def State.dropColls (vf : Nat) (s : State) : State :=
  let l := (s.vfAt vf).colls
  let s := l.foldl (fun s c => s.failColl c 4) s
  l.foldl (fun s c => s.dropMessages c.blk.key) (s.setVf vf fun v => { v with colls := [] })
/-- The words of a partition's errand windows, and their earmarks, cleared (R355). -/
def State.clearWindows (part : Nat) (s : State) : State :=
  let p := s.partAt part
  let s := s.onXr fun x => { x with xb := x.xb.filter fun kv => !(decide (p.xbBase ≤ kv.1) && decide (kv.1 < p.xbBase + p.xbCount)),
                                    scr := x.scr.filter fun kv => !(decide (p.scrBase ≤ kv.1) && decide (kv.1 < p.scrBase + p.scrCount)) }
  s.setPart part fun p => { p with xbMark := Mark.empty, scrMark := Mark.empty }
/-- The park slots of a partition discarded, with the packets in them that wait for a lane: how many (R250, R251). -/
def State.clearPark (part : Nat) (s : State) : Nat × State :=
  let mine (kv : Nat × Option ParkSlot) : Bool := (kv.2.map fun x => x.p.pkt.part == part).getD false
  ((s.xr.bay.filter mine).length, s.onXr fun x => { x with bay := x.bay.filter fun kv => !mine kv,
                                                           waiting := x.waiting.filter fun j => !(j.fromSlot.isSome && j.pkt.part == part) })
/-- Bead counters and header queues of a partition cleared, held ones too (R229); only a context that still runs has run since (R228). -/
def State.clearBeads (part : Nat) (s : State) : State :=
  let runs (kv : Nat × Nat) : Bool := ((s.coreAt ⟨part, kv.1 % 512⟩).map fun c => c.runsTask (kv.2 - 1)).getD false
  s.onXr fun x => { x with beads := x.beads.filter fun kv => kv.1 / 16 / 512 != part, rx := x.rx.filter fun kv => kv.1 / 512 != part,
                           owner := x.owner.filter fun kv => kv.1 / 512 != part || runs kv, held := x.held.filter fun h => h.part != part }

/-- A bump of a partition's generation, with every effect other rules attach to it: how many park slots it discarded (R364). -/
def State.bump (part : Nat) (s : State) : Nat × State :=
  let s := s.setPart part fun p => { p with gen := p.gen + 1, stale := p.stale ++ [p.gen] }
  let g := (s.partAt part).gen
  let f (c : Core) : Core := if c.place.part = part then { c.wake with place := { c.place with gen := g } } else c
  let s := { s with core := f s.core, others := s.others.map f }
  let s := s.onGran fun x => { x with monitors := x.monitors.map fun m => if m.core.part = part ∧ m.why = none then { m with why := some .lost } else m }
  let (n, s) := (s.clearBeads part).clearPark part
  let s := (s.vfsOf part).foldl (fun s v => (s.dropColls v).raiseVfGen v) s
  let s := s.clearSlots part
  let s := if s.mgmt.replay.part = some part then s.onMgmt fun m => { m with replay := { m.replay with mode := 0 } } else s
  (n, s)

/-- A partition's measurement extended (R384; log entry 5). -/
def State.measurePart (part : Nat) (bs : List Byte) (s : State) : State :=
  s.setPart part fun p => { p with meas := Config.sha3 (natLe p.meas.toNat 32 ++ bs) }

/-! ### Grants (R390 to R393) -/

/-- The entries of one row that are in use. -/
def State.grantRow (s : State) (slice colour : Nat) : List Grant :=
  (List.range 4).filterMap fun e => Sparse.get none s.gran.grants (grantIx slice colour e)
/-- A payload's own faults: ranges, STW's four bits among them, WAYMASK zero, STW too large, two entries of one row (R390). -/
def grantsOdd (l : List GrantReq) : Bool :=
  l.any (fun g => decide (256 ≤ g.slice) || decide (16 ≤ g.colour) || decide (15 < g.stw) || g.wayMask == 0 || decide ((waysOf g.wayMask).length < g.stw))
    || !(l.map fun g => (g.slice, g.colour)).Nodup
/-- Whether a payload fits the rows beside the grants of other partitions. -/
def State.grantsFit (s : State) (part : Nat) (l : List GrantReq) : Bool :=
  l.all fun g =>
    let others := (s.grantRow g.slice g.colour).filter fun x => x.part != part
    decide (others.length < 4) && others.all fun x => x.mask &&& g.wayMask == 0
/-- A grant written in the first free entry of its row, or in the partition's own. -/
def State.putGrant (part : Nat) (g : GrantReq) (s : State) : State :=
  let ix := (List.range 4).map fun e => grantIx g.slice g.colour e
  let own := ix.find? fun i => ((Sparse.get none s.gran.grants i).map Grant.part) == some part
  match own.orElse (fun _ => ix.find? fun i => (Sparse.get none s.gran.grants i).isNone) with
  | none => s
  | some i => (s.onGran fun x => { x with grants := Sparse.set none x.grants i (some ⟨part, g.stw, g.wayMask⟩) }).setPart part
      fun p => { p with leaving := p.leaving.erase i }
/-- The grants of a partition, with their places. -/
def State.grantsOf (s : State) (part : Nat) : List (Nat × Grant) :=
  s.gran.grants.filterMap fun kv => match kv.2 with
    | some g => if g.part = part then some (kv.1, g) else none
    | none => none
/-- The grants a partition holds: without those that wait for the scrub to return to the pool (R356). -/
def State.heldGrants (s : State) (part : Nat) : List (Nat × Grant) := (s.grantsOf part).filter fun x => !(s.partAt part).leaving.contains x.1

/-- Resident lines that a predicate on slice, colour, way and holder names. -/
def State.linesWhere (s : State) (p : Nat → Nat → Nat → Option Nat → Bool) : List Nat :=
  (s.mem.lines.filter fun kv => match kv.2.way with
    | some w => p (sliceOf (kv.1 * 128)) (colourOf (kv.1 * 128)) w kv.2.part
    | none => false).map Prod.fst
/-- A line written back and invalidated. -/
def State.writeBack (l : Nat) (s : State) : State := s.onMem fun m => m.setLine l (m.line l).evict
/-- A line invalidated without write-back: memory is what it was below. -/
def State.invalidate (l : Nat) (s : State) : State :=
  s.onMem fun m =>
    let x := m.line l
    let m := match x.below with
      | some bs => m.setBytes (l * 128) bs
      | none => m
    m.setLine l x.evict
/-- A way of a colour that becomes or stops being a store way: its frame of the aperture reads as zero, whoever wrote there before, with
an empty earmark (R392). -/
def State.clearWay (slice colour way : Nat) (s : State) : State :=
  let base := 2 ^ 40 + way * 2 ^ 36 + slice * 2 ^ 20 + colour * 2 ^ 16
  (s.onMem fun m => { m with bytes := m.bytes.filter fun c => !(base ≤ c.1 && c.1 < base + 65536),
                             lines := m.lines.filter fun c => !(base ≤ c.1 * 128 && c.1 * 128 < base + 65536),
                             worlds := m.worlds.filter fun c => !(base ≤ c.1 && c.1 < base + 65536),
                             badBlocks := m.badBlocks.filter fun b => !(base ≤ b * 256 && b * 256 < base + 65536),
                             poison := m.poison.filter fun l => !(base ≤ l * 128 && l * 128 < base + 65536) }).setPageMark (base / 65536) Mark.empty

/-- The old and new grant of one row: removed cache ways are written back, changed store ways are cleared, a colour that goes loses
its lines and its store ways and waits for the scrub (R356, R392). -/
def State.changeGrant (part : Nat) (l : List GrantReq) (old : Nat × Grant) (s : State) : State :=
  let slice := old.1 / 64
  let colour := old.1 / 4 % 16
  match l.find? fun g => g.slice == slice && g.colour == colour with
  | none =>
    let ls := s.linesWhere fun sl co _ p => sl == slice && co == colour && p == some part
    let s := old.2.storeWays.foldl (fun s w => s.clearWay slice colour w) (ls.foldl (fun s k => s.invalidate k) s)
    s.setPart part fun p => { p with leaving := p.leaving.erase old.1 ++ [old.1] }
  | some g =>
    let new : Grant := ⟨part, g.stw, g.wayMask⟩
    let gone := old.2.cacheWays.filter fun w => !new.cacheWays.contains w
    let ls := s.linesWhere fun sl co w _ => sl == slice && co == colour && gone.contains w
    let s := ls.foldl (fun s k => s.writeBack k) s
    let flip := (List.range 16).filter fun w => old.2.storeWays.contains w != new.storeWays.contains w
    flip.foldl (fun s w => s.clearWay slice colour w) s
/-- Whether a payload changes STW or the store ways of a colour: of one the partition keeps, of one it gives up, of one it takes (R392). -/
def State.storeChanges (s : State) (part : Nat) (l : List GrantReq) : Bool :=
  let held := s.heldGrants part
  let at_ (i : Nat) (x : GrantReq) : Bool := x.slice == i / 64 && x.colour == i / 4 % 16
  (held.any fun (i, g) => match l.find? (at_ i) with
    | some x => x.stw != g.stw || decide (Grant.storeWays ⟨part, x.stw, x.wayMask⟩ ≠ g.storeWays)
    | none => !g.storeWays.isEmpty) || l.any fun x => x.stw != 0 && !(held.any fun (i, _) => at_ i x)
/-- A partition's grants become those of a payload. -/
def State.setGrants (part : Nat) (l : List GrantReq) (s : State) : State :=
  let held := s.heldGrants part
  let s := held.foldl (fun s g => s.changeGrant part l g) s
  let fresh := l.filter fun g => !(held.any fun (i, _) => i / 64 == g.slice && i / 4 % 16 == g.colour)
  let s := l.foldl (fun s g => s.putGrant part g) s
  fresh.foldl (fun s g => (Grant.storeWays ⟨part, g.stw, g.wayMask⟩).foldl (fun s w => s.clearWay g.slice g.colour w) s) s

/-! ### Cores (R359) -/

/-- Whether a site code names a site, and whether that site is an enabled one. -/
def siteOk (n : Nat) : Bool := decide (n < 512) && decide (n % 8 < 7)
def State.siteEnabled (s : State) (n : Nat) : Bool := s.siteClassAt n == 0
/-- Whether a site stands in some partition. -/
def State.siteUsed (s : State) (n : Nat) : Bool := s.disp.parts.toList.any fun p => p.st != .free && p.sites.contains n
/-- The core entries of a partition: those of its logical numbers. -/
def State.isMember (s : State) (c : Core) : Bool := (s.partAt c.place.part).st != .free && decide (c.place.num < (s.partAt c.place.part).sites.length)
/-- Cores that stand in no partition fall away; the place of the core that moves is never empty. -/
def State.dropStrays (s : State) : State :=
  match s.cores.filter s.isMember with
  | c :: l => { s with core := c, others := l }
  | [] => { s with core := Core.init, others := [] }
/-- The credits of a core that joins a partition: those of the reservations held for groups this module is in (R297). -/
def State.creditsOf (s : State) (part : Nat) : Sparse Nat :=
  (s.xr.resv.filter fun r => r.part == part && (bitsSet r.group 4096).contains s.mgmt.node).foldl
    (fun l r => Sparse.set 0 l r.id r.slots.length) []
/-- Sites added to a partition: they take the next logical numbers in ascending order. -/
def State.addSites (part : Nat) (sites : List Nat) (s : State) : State :=
  let n := (s.partAt part).sites.length
  let l := ascending sites
  let g := (s.partAt part).gen
  let held := s.creditsOf part
  let new := l.zipIdx.map fun (site, i) => { Core.init with place := { Place.init with part := part, num := n + i, site := site, gen := g }
                                                            port := { Port.init with redCredits := held } }
  let s := s.setPart part fun p => { p with sites := p.sites ++ l }
  let old := s.cores.filter fun c => s.isMember c && !(c.place.part == part && decide (n ≤ c.place.num))
  match old ++ new with
  | c :: l => { s with core := c, others := l }
  | [] => s

/-! ### The scrub (R365, R366) -/

/-- Accumulates on their way to a slice, and waiting there. -/
def State.sums (s : State) : List AaccPkt :=
  s.gran.air ++ s.gran.queues.flatMap fun kv => kv.2.q ++ kv.2.waiting ++ kv.2.held
/-- Whether an access of some cores is still on its way (R50). -/
def State.onWay (s : State) (p : CoreId → Bool) : Bool :=
  s.cores.any (fun c => p c.id && !c.port.pend.isEmpty) || s.sums.any (fun a => p a.core) || s.gran.refusals.any (fun a => p a.core)
    || s.gran.mcasts.any (fun a => p a.src) || s.xr.redIn.any fun a => p a.core
/-- Whether nothing that a core being scrubbed has sent is still on its way. -/
def State.nothingFrom (s : State) (p : CoreId → Bool) : Bool := !(s.onWay p || s.gran.boundAir.any fun a => p a.src)
/-- Whether a partition's drain ends with its next scrub: the bump of its PART.DESTROY is made (R355). -/
def Part.ends (p : Part) : Bool := p.st == .draining && p.doomed.isNone
/-- SCRUB_COMPLETE of a partition: killed cores are clear and free, stale entries and lines are gone, those of store ways too, stale generation values are free,
colours that left return to the pool, and a draining partition is FREE, its stations without row-lanes (R400). -/
def scrubComplete (part : Nat) (s : State) : State :=
  let p := s.partAt part
  let scrubbing (c : Core) : Bool := c.place.part == part && c.place.run == .scrubbing
  let mine (c : CoreId) : Bool := if p.ends then c.part == part else ((s.coreAt c).map scrubbing).getD false
  if p.st = .free || !s.nothingFrom mine then s
  else
    let f (c : Core) : Core := if scrubbing c then c.cleared else if c.place.part = part then c.scrub p.gen else c
    let s := { s with core := f s.core, others := s.others.map f }
    let s := s.onDisp fun d => { d with saved := d.saved.map fun c => if c.place.part = part then c.scrub p.gen else c }
    let old := (s.mem.lines.filter fun kv => kv.2.way.isSome && kv.2.part == some part && kv.2.gen != p.gen).map Prod.fst
    let s := old.foldl (fun s l => s.invalidate l) s
    let store := (s.mem.lines.filter fun kv => inAperture (kv.1 * 128) && kv.2.part == some part && kv.2.gen != p.gen).map Prod.fst
    let s := store.foldl (fun s l => s.onMem fun m => (m.setBytes (l * 128) (List.replicate 128 0)).setLine l LineMeta.init) s
    let gone := if p.ends then (s.grantsOf part).map Prod.fst else p.leaving
    let s := s.onGran fun g => { g with grants := g.grants.filter fun kv => !gone.contains kv.1 }
    if p.ends then
      let s := s.setPart part fun p => { Part.init with gen := p.gen, used := true, cnt := p.cnt }
      (s.onDisp fun d => { d with rotas := d.rotas.filter fun r => r.part != part }).dropStrays.compileRings
    else s.setPart part fun p => { p with stale := [], leaving := [] }
def execScrubComplete (part : Nat) (s : State) : Out := .next (scrubComplete part s)

end Sys2Proof.Machine
end

