-- ==== Sys2Proof/Machine/SeqSys.lean ====
section
/-! DEFINITION. Scheduling, matrix feeding, traps and system registers of S (R139 to R145), and the firmware's register writes (R15, R49, R403). -/

namespace Sys2Proof.Machine

/-! ### Scheduling (R139, R140) -/

/-- CUR.NEXT (R139). -/
def curNextBody (d : XR) (s : State) : WordRes :=
  match s.curTask with
  | none => .fault s .illegal (sStatus 0 0 0 s) 0 []
  | some k =>
    if !k.r.static then .fault s .illegal (sStatus 0 0 0 s) 0 []
    else if !s.core.journalRoom 4 then .stall .journal
    else
      let (c, j) := s.core.advanceCursor
      match j with
      | some j => .done (({ s with core := { c with place := { c.place with job := j } } }.onCore (Core.writeIndices (k.r.indices j))).setX
          d 1 Mark.empty)
      | none => .done ({ s with core := c }.setX d 0 Mark.empty)
def execCurNext (w g : Tok) (d : XR) (s : State) : Out := runShort w g (curNextBody d) s

/-- A task record's address appended to a launch queue, which ends the idleness of a world whose frame overran (R373); false when the queue is
full (R34). -/
def State.enqueueTask (vf addr : Nat) (s : State) : State × Bool :=
  if Config.launchDepth ≤ (s.vfAt vf).launch.length then (s, false)
  else (s.setVf vf fun v => { v with launch := v.launch ++ [⟨addr, none, v.launched⟩], launched := v.launched + 1, idle := false }, true)

/-- TLAUNCH (R140). Its ALIGN reports size code 7, that of the record's 128 bytes (R146; log entry 87); while it waits
for earlier accesses it shows reason 11 (log entry 88). -/
def tlaunchBody (d a : XR) (s : State) : WordRes :=
  let ea := (s.x a).val
  if ea.toNat % 128 ≠ 0 then .fault s .align (sStatus 7 0 1 s) ea []
  else if s.core.storesIn 0xFFFF then .stall .port
  else
    let (s, ok) := s.enqueueTask s.core.place.vf ea.toNat
    .done ((s.setX d (if ok then 0 else 1) (s.x a).mark).onCore (Core.dropEarly 0xFFFF))
def execTlaunch (w g : Tok) (d a : XR) (s : State) : Out := runShortH w g (tlaunchBody d a) s

/-! ### Feeding M (R141, R142) -/

/-- A push into FQ. -/
def pushFq (v : W32) (m : Mark) (s : State) : WordRes :=
  if Config.fqDepth ≤ s.core.q.fq.length then .stall .dataFull
  else .done (s.onQ fun q => { q with fq := q.fq ++ [⟨v, s.gen, m⟩] })
/-- FMTW: the code of a register is checked as that of the extension is (R141, R54; log entry 114). -/
def fmtwBody (v : W32) (m : Mark) (s : State) : WordRes :=
  if !fmtwOk v then .fault s .illegal (sStatus 0 0 0 s) 0 [] else pushFq v m s
def execFmtw (w g : Tok) (a : XR) (s : State) : Out :=
  runShort w g (fun s => fmtwBody ((s.x a).val.extractLsb' 0 32) (s.x a).mark s) s
def execFmtwImm (w g : Tok) (fw : W32) (s : State) : Out := runLong w g (fmtwBody fw Mark.empty) s
/-- RMODE: a mode-change entry (R142, R107). -/
def execRmode (w g : Tok) (r : RMode) (s : State) : Out := runShort w g (pushFq (BitVec.ofNat 32 (2 ^ 31 + r.code)) Mark.empty) s

/-! ### The in-core handler (R143, R144) -/

/-- TRAP (R143); its signal must find room before S enters the handler. -/
def trapBody (g : Tok) (c : BitVec 8) (s : State) : WordRes :=
  if bit s.core.regs.hvec 31 = false then .fault s .illegal (sStatus 0 0 0 s) 0 []
  else if (match g with
    | some d => !s.core.tokRoom .s d
    | none => false) then .stall .tokenFull
  else .goto (enterHandler c s) (fld s.core.regs.hvec 0 14)
def execTrap (w g : Tok) (c : BitVec 8) (s : State) : Out := runShort w g (trapBody g c) s
/-- ERET (R144). -/
def execEret (w g : Tok) (s : State) : Out :=
  if s.core.regs.hmode ∧ s.act = .s ∧ w = none ∧ g = none then .next (leaveHandler s)
  else runShortH w g (fun s => .fault s .illegal (sStatus 0 0 0 s) 0 []) s

/-! ### System registers (R109, R145) -/

/-- The registers MFSR reads, by number. -/
def State.sysReg (n : Nat) (s : State) : Option W64 :=
  let r := s.core.regs
  match n with
  | 0x000 => some s.gcc
  | 0x001 => some (r.nfl.setWidth 64)
  | 0x002 => some r.ctags
  | 0x003 => some (r.amost.setWidth 64)
  | 0x004 => some r.mps
  | 0x005 => some r.pst
  | 0x006 => some r.ttb
  | 0x007 => some r.s1tb
  | 0x008 => some r.dom[0]
  | 0x009 => some r.dom[1]
  | 0x00A => some r.dom[2]
  | 0x00B => some r.dom[3]
  | 0x00C => some r.dom[4]
  | 0x010 => some (r.hvec.setWidth 64)
  | 0x011 => some (r.hinfo.setWidth 64)
  | 0x012 => some (r.bkpt.setWidth 64)
  | _ => none

/-- MFSR (R109, R145). -/
def mfsrBody (d : XR) (n : BitVec 11) (s : State) : WordRes :=
  if 0x100 ≤ n.toNat then .fault s .privilege (sStatus 0 0 0 s) 0 []
  else match s.sysReg n.toNat with
    | none => .fault s .illegal (sStatus 0 0 0 s) 0 []
    | some v => .done (s.setX d v Mark.empty)
def execMfsr (w g : Tok) (d : XR) (n : BitVec 11) (s : State) : Out := runShortH w g (mfsrBody d n) s

/-- A write of NFL: RW1C (R89). -/
def nflBody (a : XR) (s : State) : WordRes := .done (s.writeNfl ((s.x a).val.extractLsb' 0 32))
/-- A write of HVEC: EN and ENTRY (R144). -/
def hvecBody (a : XR) (s : State) : WordRes :=
  .done (s.onRegs fun r => { r with hvec := (s.x a).val.extractLsb' 0 32 &&& 0x80003FFF })
/-- A write of BKPT: ignored while BPEND is 1 (R369, R374). -/
def bkptBody (a : XR) (s : State) : WordRes :=
  if bit s.core.regs.bkpt 27 then .done s
  else .done (s.onRegs fun r => { r with bkpt := (s.x a).val.extractLsb' 0 32 &&& 0xF0007FFF })
/-- A write of TTB: one K write, and the port's shape cache is dropped (R270). -/
def ttbBody (a : XR) (s : State) : WordRes :=
  if !s.core.journalRoom 1 then .stall .journal
  else
    let v := (s.x a).val &&& 0x01FFFFFFFFFFE001
    .done (((s.onRegs fun r => { r with ttb := v }).onCore (Core.writeJournal (.ttb v))).onPort fun p => { p with shapes := [] })

/-- MTSR (R109): a privileged number raises PRIVILEGE; an unassigned or read-only one raises ILLEGAL. -/
def mtsrBody (a : XR) (n : BitVec 11) (s : State) : WordRes :=
  if 0x100 ≤ n.toNat then .fault s .privilege (sStatus 0 0 0 s) 0 []
  else match n.toNat with
    | 0x001 => nflBody a s
    | 0x006 => ttbBody a s
    | 0x010 => hvecBody a s
    | 0x012 => bkptBody a s
    | _ => .fault s .illegal (sStatus 0 0 0 s) 0 []
def execMtsr (w g : Tok) (a : XR) (n : BitVec 11) (s : State) : Out := runShortH w g (mtsrBody a n) s
def execTtbWrite (w g : Tok) (a : XR) (s : State) : Out := runShortH w g (ttbBody a) s
def execNflWrite (w g : Tok) (a : XR) (s : State) : Out := runShortH w g (nflBody a) s
def execHvecWrite (w g : Tok) (a : XR) (s : State) : Out := runShortH w g (hvecBody a) s
def execBkptWrite (w g : Tok) (a : XR) (s : State) : Out := runShortH w g (bkptBody a) s

/-! ### Firmware writes of privileged registers -/

/-- SLIP.LIMIT clamped to 16 to 256 (R15). -/
def clampSlip (v : W32) : W32 := if fld v 0 9 < 16 then 16 else if 256 < fld v 0 9 then 256 else BitVec.ofNat 32 (fld v 0 9)
/-- SLIP_WRITE: the new limit holds from the next cycle (R15). -/
def execSlipWrite (c : CoreId) (v : W32) (s : State) : Out :=
  .next (s.atCore c fun k => { k.wake with regs := { k.regs with slip := clampSlip v } })
/-- PRECFG_WRITE (R49). -/
def execPrecfgWrite (c : CoreId) (v : W32) (s : State) : Out :=
  .next (s.atCore c fun k => { k with regs := { k.regs with precfg := v } })
/-- MCTL_WRITE: MAGE, at least 8 (R403). -/
def execMctlWrite (die : Fin 4) (v : W32) (s : State) : Out :=
  .next (s.onFab fun f => { f with mctl := f.mctl.set die (BitVec.ofNat 32 (max 8 (fld v 0 10))) })

end Sys2Proof.Machine
end

