-- ==== Sys2Proof/Machine/CmdDevice.lean ====
section
/-! DEFINITION. The commands on the device: evidence, labels, the Stile, rotas, slots, replay, spares, telemetry, anchors
(R314, R371, R382 to R387, R411 to R422). -/

namespace Sys2Proof.Machine

/-! ### Evidence and labels (R384 to R387) -/

/-- The functions of a scope, and its measurements. -/
def State.scopeVfs (s : State) : EvScope → List Nat
  | .module => (List.range 192).filter fun v => (s.vfAt v).part.isSome
  | .part p => s.vfsOf p
  | .vf n => [n]
def State.scopeMeas (s : State) (sc : EvScope) : List (BitVec 256) :=
  let own := match sc with
    | .module => [s.mgmt.romDigest, s.mgmt.fwDigest] ++ (s.disp.parts.toList.filter fun p => p.st != .free).map Part.meas
    | .part p => [(s.partAt p).meas]
    | .vf _ => []
  own ++ (s.scopeVfs sc).map fun v => (s.vfAt v).meas
/-- The states of a function's contexts: 0 running, 1 descheduled, 2 gated, 3 sealed and saved, 4 none (R385). -/
def State.vfStates (s : State) (v : Nat) : List (Nat × Nat) :=
  let p := s.partAt ((s.vfAt v).part.getD 48)
  let live := (s.cores.filter fun c => c.place.vf == v && c.place.task.isSome).map fun _ => (v, 0)
  let saved := (s.disp.saved.filter fun c => c.place.vf == v).map fun _ => (v, if p.isSealed then 3 else 1)
  if p.st = .gated then [(v, 2)] else if (live ++ saved).isEmpty then [(v, 4)] else live ++ saved
/-- A scope as bytes: its kind and its number (log entry 5). -/
def scopeBytes : EvScope → List Byte
  | .module => natLe 0 1 ++ natLe 0 1
  | .part p => natLe 1 1 ++ natLe p 1
  | .vf n => natLe 2 1 ++ natLe n 1
/-- The bytes the attestation key signs (R385; log entry 5). -/
def reportBytes (nonce : BitVec 256) (gcc : W64) (scope : EvScope) (meas : List (BitVec 256)) (states : List (Nat × Nat)) : List Byte :=
  natLe nonce.toNat 32 ++ natLe gcc.toNat 8 ++ scopeBytes scope ++ meas.flatMap (fun d => natLe d.toNat 32) ++ states.flatMap fun x => natLe x.1 1 ++ natLe x.2 1
/-- EVIDENCE (R385, R386): it changes nothing. -/
def evidence (h : CmdHdr) (nonce : BitVec 256) (scope : EvScope) (s : State) : CmdRes :=
  let may : Bool := match h.issuer, scope with
    | .hyp, _ => true
    | .vf n, .vf k => n == k
    | .vf _, _ => false
  let known : Bool := match scope with
    | .module => true
    | .part p => decide (p < 48) && (s.partAt p).st != .free
    | .vf n => decide (n < 192) && (s.vfAt n).part.isSome
  let leaving : Bool := match scope with
    | .module => false
    | .part p => (s.partAt p).st == .draining
    | .vf n => ((s.vfAt n).part.map fun p => (s.partAt p).st == .draining).getD false
  if !may then .err .denied
  else if !known then .err .noEnt
  else if leaving then .err .state
  else
    let meas := s.scopeMeas scope
    let states := (s.scopeVfs scope).flatMap s.vfStates
    .done (.report nonce s.gcc scope meas states (Config.sign (reportBytes nonce s.gcc scope meas states))) s
def execEvidence (h : CmdHdr) (nonce : BitVec 256) (scope : EvScope) (s : State) : Out := runCmd (.evidence nonce scope) h false (evidence h nonce scope) s

/-- LABEL.SET (R387). -/
def labelSet (h : CmdHdr) (label : Nat) (digest : BitVec 256) (s : State) : CmdRes :=
  byHyp h <|
    if label = 0 ∨ 255 < label then .err .badMsg
    else if s.mgmt.labels.any fun x => x.1 == label then .err .state
    else ok (s.onMgmt fun m => { m with labels := m.labels ++ [(label, digest)] })
def execLabelSet (h : CmdHdr) (label : Nat) (digest : BitVec 256) (s : State) : Out := runCmd (.labelSet label digest) h true (labelSet h label digest) s

/-- TRUST.ANCHOR (R382, R383). -/
def trustAnchor (h : CmdHdr) (digests : List (BitVec 256)) (s : State) : CmdRes :=
  byHyp h <|
    if digests.isEmpty ∨ 8 < digests.length then .err .badMsg
    else ok (s.onMgmt fun m => { m with anchors := (m.anchors ++ digests).dedup })
def execTrustAnchor (h : CmdHdr) (digests : List (BitVec 256)) (s : State) : Out := runCmd (.trustAnchor digests) h true (trustAnchor h digests) s

/-! ### The Stile (R419, R420) -/

/-- Whether a policy record breaks its layout or names another issuer. -/
def policyOdd (h : CmdHdr) (r : PolicyRec) : Bool :=
  !r.layoutOk || r.labels.isEmpty || decide (4 < r.labels.length) || !r.labels.all (fun l => decide (0 < l ∧ l < 256))
    || !r.labels.Pairwise (· < ·) || h.issuer != .vf r.vfn || r.gbase % 65536 != 0 || r.gsize == 0 || r.gsize % 65536 != 0
/-- STILE.INSTALL (R420). -/
def stileInstall (h : CmdHdr) (r : PolicyRec) (s : State) : CmdRes :=
  byVf h <| onVf h s fun _ _ =>
    let digest (l : Nat) : Option (BitVec 256) := (s.mgmt.labels.find? fun x => x.1 == l).map Prod.snd
    if policyOdd h r || s.mgmt.stile.any (fun x => x.r.vfn == r.vfn && x.r.policyId == r.policyId) then .err .badMsg
    else if r.labels.map digest ≠ r.keyDigests.map some then .err .denied
    else if !r.sigsOk then .err .integrity
    else if Config.stileCount ≤ s.mgmt.stile.length then .err .noRes
    else ok (s.onMgmt fun m => { m with stile := m.stile ++ [⟨r, r.bytes⟩] })
def execStileInstall (h : CmdHdr) (r : PolicyRec) (s : State) : Out := runCmd (.stileInstall r) h false (stileInstall h r) s
/-- A record with REVOKE (R420). -/
def stileRevoke (h : CmdHdr) (policyId : Nat) (s : State) : CmdRes :=
  byVf h <| onVf h s fun _ _ =>
    let mine (x : StileRec) : Bool := x.r.vfn == h.vfn && x.r.policyId == policyId
    if s.mgmt.stile.any mine then ok (s.onMgmt fun m => { m with stile := m.stile.filter fun x => !mine x }) else .err .noEnt
def execStileRevoke (h : CmdHdr) (policyId : Nat) (s : State) : Out := runCmd (.stileRevoke policyId) h false (stileRevoke h policyId) s

/-! ### Rotas (R371) -/

/-- Whether the entries of a rota are out of range for a partition. -/
def State.rotaOdd (s : State) (part : Nat) (l : List RotaEntry) : Bool :=
  l.isEmpty || decide (16 < l.length) || l.any fun e => decide (1023 < e.lenu) || decide (255 < e.swin) || decide (frameLen e ≤ sealLen e)
    || (match e.vfn with
      | some v => (s.vfAt v).part != some part
      | none => false)
/-- 1 ms in cycles of the full clock, which ROTA.SET takes at every clock (R3; log entry 102). -/
def msCycles : Nat := 3300000
/-- ROTA.SET: the first edge, at START, begins the first frame. -/
def rotaSet (h : CmdHdr) (cores : List Nat) (start : W64) (entries : List RotaEntry) (s : State) : CmdRes :=
  byHyp h <| onPart h s fun p =>
    if s.rotaOdd h.part entries || cores.isEmpty || !cores.Nodup then .err .badMsg
    else if !cores.all fun n => decide (n < p.sites.length) then .err .noEnt
    else if !p.isSealed || decide ((start - s.gcc).toInt < msCycles) then .err .state
    else if cores.any fun n => s.coreBusy ⟨h.part, n⟩ then .err .busy
    else
      let new := cores.map fun n => (⟨h.part, n, start, entries, entries.length, start, false, none⟩ : Rota)
      ok (s.onDisp fun d => { d with rotas := d.rotas.filter (fun r => !(r.part == h.part && cores.contains r.core)) ++ new })
def execRotaSet (h : CmdHdr) (cores : List Nat) (start : W64) (entries : List RotaEntry) (s : State) : Out :=
  runCmd (.rotaSet cores start entries) h false (rotaSet h cores start entries) s

/-! ### Slots (R293, R314) -/

/-- The nodes of the torus. -/
def State.nodes (s : State) : List Nat :=
  (List.range s.mgmt.dims.2.2).flatMap fun z => (List.range s.mgmt.dims.2.1).flatMap fun y => (List.range s.mgmt.dims.1).map fun x => nodeOf x y z
/-- SLOT.RESERVE: a booking with no lease, whose tree leads to the module that receives the command (R314; log entry 82). -/
def slotReserve (h : CmdHdr) (group : W64) (count : Nat) (s : State) : CmdRes :=
  byVf h <| onVf h s fun part _ =>
    match s.windowNodes (s.whoVf h.vfn) .named group with
    | none => .err .badMsg
    | some nodes =>
      if count = 0 ∨ 64 < count then .err .badMsg
      else if (s.limits part).slots < count then .err .noRes
      else ok (s.book part h.vfn (groupKey nodes) count s.mgmt.node false false).2
def execSlotReserve (h : CmdHdr) (group : W64) (count : Nat) (s : State) : Out := runCmd (.slotReserve group count) h false (slotReserve h group count) s
/-- SLOT.RELEASE. -/
def slotRelease (h : CmdHdr) (group : W64) (s : State) : CmdRes :=
  byVf h <| onVf h s fun _ _ =>
    match s.windowNodes (s.whoVf h.vfn) .named group with
    | none => .err .badMsg
    | some nodes =>
      let mine := s.coll.bookings.filter fun b => b.vf == h.vfn && b.group == groupKey nodes && !b.leased
      if mine.isEmpty then .err .noEnt else ok (mine.foldl (fun s b => s.dropBooking b.id) s)
def execSlotRelease (h : CmdHdr) (group : W64) (s : State) : Out := runCmd (.slotRelease group) h false (slotRelease h group) s

/-! ### Replay (R415, R418) -/

/-- Whether a payload names what is outside the region or its ranges. -/
def State.armOdd (s : State) (r : ReplayArmReq) : Bool :=
  r.base % 65536 != 0 || r.size % 65536 != 0 || decide (2 ^ 32 < r.size) || decide (r.base < s.mgmt.rbase)
    || decide (s.mgmt.rbase + s.mgmt.rsize * 65536 < r.base + r.size) || decide (2 < r.mode) || decide (48 ≤ r.part) || decide (256 ≤ r.mask.toNat)
/-- REPLAY.ARM. -/
def replayArm (h : CmdHdr) (r : ReplayArmReq) (s : State) : CmdRes :=
  byHyp h <|
    if s.armOdd r then .err .badMsg
    else onPart { h with part := r.part } s fun _ =>
      let old := s.mgmt.replay
      if s.partBusy r.part || (old.mode != 0 && old.part != some r.part) then .err .state
      else
        let log := if r.mode = 1 then [] else old.log
        let new : Replay := { mode := r.mode, part := some r.part, base := r.base, size := r.size, mask := r.mask, begun := false,
                              ovf := r.mode != 1 && old.ovf, diverged := false, log := log, todo := if r.mode = 2 then log else [],
                              since := s.gcc, used := [], divGcc := 0, divUnit := 0, divKind := 0 }
        ok (s.onMgmt fun m => { m with replay := new })
def execReplayArm (h : CmdHdr) (r : ReplayArmReq) (s : State) : Out := runCmd (.replayArm r) h false (replayArm h r) s
/-- REPLAY.DUMP (R418). -/
def replayDump (h : CmdHdr) (s : State) : CmdRes :=
  byHyp h <|
    let r := s.mgmt.replay
    .done (.replay r.mode (if r.ovf then 1 else 0) (if r.diverged then 1 else 0) r.log.length ((r.log.head?.map (·.gcc)).getD 0)
      ((r.log.getLast?.map (·.gcc)).getD 0) r.divGcc r.divUnit r.divKind) s
def execReplayDump (h : CmdHdr) (s : State) : Out := runCmd .replayDump h false (replayDump h) s

/-! ### Spares (R361, R411, R412) -/

/-- Whether a swap of a kind has already taken a spare. -/
def State.spareUsed (s : State) (kind : Nat) (p : SwapReq → Bool) : Bool := s.mgmt.spares.any fun x => x.kind == kind && p x
/-- Whether the units of a swap break the conditions of R411; a stack's repairs must remain, and no unit is its own spare (log entry 123). -/
def State.swapOdd (s : State) (r : SwapReq) : Bool :=
  (r.kind != 4 && r.hrow != 0) || (match r.kind with
    | 1 => !siteOk r.retire || !siteOk r.spare || r.retire / 8 != r.spare / 8 || !s.siteEnabled r.retire
        || !(s.siteClassAt r.spare == 1 || s.spareUsed 1 fun x => x.spare == r.spare)
    | 2 => decide (512 ≤ r.retire) || decide (512 ≤ r.spare) || decide (5 < r.retire / 64) || r.retire / 64 != r.spare / 64
        || decide (33 < r.retire % 64) || !(r.spare % 64 == 32 || r.spare % 64 == 33) || r.retire == r.spare
    | 3 => decide (4096 ≤ r.retire) || decide (1 < r.spare)
    | 4 => decide (512 ≤ r.retire) || r.spare != 0
        || decide (Config.repairs (r.retire % 16) ≤ (s.mgmt.spares.filter fun x => x.kind == 4 && x.retire % 16 == r.retire % 16).length)
    | 5 => decide (5 < r.retire) || !(r.spare == 4 || r.spare == 5) || r.retire == r.spare || s.mgmt.cores[r.retire]? == some .retired
    | _ => true)
/-- Whether the spare named has been used before; a spare lane that was itself retired is as good as used (R411; log entry 123). -/
def State.swapSpent (s : State) (r : SwapReq) : Bool := match r.kind with
  | 1 => s.spareUsed 1 fun x => x.spare == r.spare
  | 2 => (s.torusPort (r.spare / 64)).lanesUsed.contains (r.spare % 64) || s.spareUsed 2 fun x => x.retire == r.spare
  | 3 => s.spareUsed 3 fun x => x.retire / 16 == r.retire / 16 && x.spare == r.spare
  | 4 => false
  | _ => s.mgmt.cores[r.spare]? != some .spare
/-- A swap entered in the spare record. -/
def State.noteSwap (r : SwapReq) (s : State) : State := s.onMgmt fun m => { m with spares := m.spares ++ [r] }
/-- A site retired and another brought in; the logical core keeps its number (R361). -/
def State.moveSite (r : SwapReq) (s : State) : State :=
  let f (c : Core) : Core := if c.place.site = r.retire ∧ s.isMember c then { c with place := { c.place with site := r.spare } } else c
  let s := { s with core := f s.core, others := s.others.map f }
  let s := s.onDisp fun d => { d with parts := d.parts.map fun p => { p with sites := p.sites.map fun n => if n = r.retire then r.spare else n } }
  s.onMgmt fun m => { m with siteClass := Sparse.set 0 (Sparse.set 0 m.siteClass r.retire 4) r.spare 1 }
/-- Three retired management cores show FATAL (R413). -/
def State.checkFatal (s : State) : State :=
  if 3 ≤ (s.mgmt.cores.toList.filter (· == .retired)).length then s.onMgmt fun m => { m with pins := .fatal } else s
/-- The swap of a core site: a context on it is stopped hard and the command waits for its save; a sealed core waits for an idle frame. -/
def State.swapCore (r : SwapReq) (s : State) : CmdRes :=
  match s.cores.find? fun c => c.place.site == r.retire && s.isMember c with
  | none => ok ((s.moveSite r).noteSwap r)
  | some c =>
    let idle := c.isFree
    if (s.partAt c.place.part).isSealed then
      (match s.rotaOf c.id with
        | none => if idle then ok ((s.moveSite r).noteSwap r) else .err .state
        | some t =>
          if t.entries.all fun e => e.vfn.isSome then .err .state
          else if idle && (t.world).isNone then ok ((s.moveSite r).noteSwap r)
          else .wait s)
    else if idle then ok ((s.moveSite r).noteSwap r)
    else if c.walk.hardStop || c.place.run == .scrubbing then .wait s
    else .wait (s.atCore c.id fun k => Core.hard s.gcc { k with walk := { k.walk with timer := s.mgmt.power.time } })
/-- SPARE.SWAP (R411, R412). -/
def spareSwap (h : CmdHdr) (r : SwapReq) (s : State) : CmdRes :=
  byHyp h <|
    if s.swapOdd r then .err .badMsg
    else if s.swapSpent r then .err .noRes
    else match r.kind with
      | 1 => s.swapCore r
      | 2 => ok ((s.setPort (r.spare / 64) fun p => { p with lanesUsed := p.lanesUsed ++ [r.spare % 64] }).noteSwap r)
      | 3 =>
        let ls := s.linesWhere fun sl _ w _ => sl == r.retire / 16 && w == r.retire % 16
        ok ((ls.foldl (fun s l => s.writeBack l) s).noteSwap r)
      | 4 => ok (s.noteSwap r)
      | _ => ok ((s.onMgmt fun m => { m with cores := (m.cores.setIfInBounds r.retire .retired).setIfInBounds r.spare .active }).checkFatal.noteSwap r)
def execSpareSwap (h : CmdHdr) (r : SwapReq) (s : State) : Out := runCmd (.spareSwap r) h false (spareSwap h r) s

/-! ### Telemetry (R422) -/

/-- Block 0: power, and sensors the spec gives no value for. -/
def State.telemetry0 (s : State) (i : Nat) : Option Nat :=
  match i with
  | 0 => some s.mgmt.power.watts
  | 1 => some s.mgmt.power.pcap
  | 2 => some s.mgmt.power.clock
  | 3 => some s.mgmt.power.events
  | _ => if i < 37 then some (Config.sensor s.ticks i) else none
/-- Block 1: a partition's counters. -/
def State.telemetry1 (s : State) (i : Nat) : Option Nat :=
  let p := s.partAt (i / 64)
  if 48 * 64 ≤ i then none
  else match i % 64 with
    | 0 => some p.cnt.lostParks
    | 1 => some p.cnt.discarded
    | 2 => some p.cnt.bypasses
    | 3 => some p.cnt.kills
    | 4 => some p.gen.toNat
    | _ => some 0
/-- Block 2: a function's counters. -/
def State.telemetry2 (s : State) (i : Nat) : Option Nat :=
  let v := s.vfAt (i / 16)
  if 192 * 16 ≤ i then none
  else match i % 16 with
    | 0 => some v.cnt.stale
    | 1 => some v.cnt.unmatched
    | 2 => some v.cnt.lostTraps
    | 3 => some 0
    | k => some ((v.cnt.outcomes[k - 4]?).getD 0)
/-- A grant entry as its word (R390). -/
def grantWord : Option Grant → Nat
  | none => 0
  | some g => 2 ^ 31 + g.part % 64 * 2 ^ 24 + g.stw % 16 * 2 ^ 20 + g.mask.toNat
/-- Block 3: grant entries, and from 4,096 on the ring tables of the four dies. -/
def State.telemetry3 (s : State) (i : Nat) : Option Nat :=
  if 4096 ≤ i ∧ i < 5120 then some (Sparse.get 0xFFFFFFFF s.fab.ring (i - 4096)).toNat
  else if i < 16384 then some (grantWord (Sparse.get none s.gran.grants i))
  else none
/-- Block 4: by unit, the correctable errors and the retirement flag; then the log of uncorrectable errors, unit and GCC, and the spare records, kind and
units and then the row. -/
def State.telemetry4 (s : State) (i : Nat) : Option Nat :=
  let e := s.mgmt.errors[i % 65536 / 2]?
  let r := s.mgmt.spares[i % 65536 / 2]?
  match i / 65536 with
  | 0 => some (Sparse.get 0 s.mgmt.ecc i)
  | 1 => some (if s.mgmt.flagged.contains (i % 65536) then 1 else 0)
  | 2 => some (if i % 2 = 0 then (e.map Prod.fst).getD 0 else ((e.map Prod.snd).map BitVec.toNat).getD 0)
  | 3 => some ((r.map fun x => if i % 2 = 0 then x.kind + x.retire % 65536 * 2 ^ 16 + x.spare % 65536 * 2 ^ 32 else x.hrow).getD 0)
  | _ => none
/-- Block 5: a site's partition and logical core, or 0xFFFF, and its class at bit 16. -/
def State.telemetry5 (s : State) (i : Nat) : Option Nat :=
  if !siteOk i then none
  else
    let who := (s.cores.find? fun c => c.place.site == i && s.isMember c).map fun c => c.place.part * 512 + c.place.num
    some (who.getD 0xFFFF + s.siteClassAt i * 65536)
def State.telemetry (s : State) (block i : Nat) : Option Nat :=
  match block with
  | 0 => s.telemetry0 i
  | 1 => s.telemetry1 i
  | 2 => s.telemetry2 i
  | 3 => s.telemetry3 i
  | 4 => s.telemetry4 i
  | 5 => s.telemetry5 i
  | _ => none
/-- TELEMETRY.READ. -/
def telemetryRead (h : CmdHdr) (block first last : Nat) (s : State) : CmdRes :=
  byHyp h <|
    if last < first ∨ (2 ^ 20 - 32) / 8 ≤ last - first then .err .badMsg
    else match (List.range (last + 1 - first)).mapM fun k => s.telemetry block (first + k) with
      | some l => .done (.words (l.map fun n => BitVec.ofNat 64 n)) s
      | none => .err .badMsg
def execTelemetryRead (h : CmdHdr) (block first last : Nat) (s : State) : Out := runCmd (.telemetryRead block first last) h true (telemetryRead h block first last) s

end Sys2Proof.Machine
end

