-- ==== Sys2Proof/Machine/CmdPart.lean ====
section
/-! DEFINITION. The commands on partitions (R353 to R356, R364, R379). -/

namespace Sys2Proof.Machine

/-- Whether a QoS word has a reserved bit set or a share above 4 (R8, R394). -/
def qosOdd (q : W32) : Bool := fld q 0 8 != 0 || decide (4 < qosRshare q)
/-- Sites a command may add: coded, enabled, named once. -/
def State.sitesOdd (s : State) (l : List Nat) : Bool := !l.all siteOk || !l.all s.siteEnabled || !l.Nodup
/-- The bytes a partition's measurement takes in at a PART command: its configuration (log entry 5). -/
def State.configBytes (s : State) (part : Nat) : List Byte :=
  let p := s.partAt part
  p.sites.flatMap (fun n => natLe n 2) ++ (s.heldGrants part).flatMap (fun x => natLe x.1 4 ++ natLe x.2.mask.toNat 2 ++ natLe x.2.stw 1)
    ++ natLe p.qos.toNat 4 ++ natLe p.quantum 4 ++ natLe (if p.isSealed then 1 else 0) 1 ++ natLe p.emask.toNat 2
    ++ [p.xbBase, p.xbCount, p.scrBase, p.scrCount, p.parkBase, p.parkCount, p.slots, p.precfg.toNat, p.slip.toNat].flatMap fun n => natLe n 4
/-- The end of a PART command: the rings compiled anew where they fit, and the configuration measured. -/
def State.endPart (part : Nat) (s : State) : CmdRes :=
  if !s.ringFits then .err .noRes
  else
    let s := s.compileRings
    ok (s.measurePart part (s.configBytes part))

/-- Whether a quantum is out of the range of 1 to 65,535 core-microseconds (R37). -/
def quantumOdd (quantum : Nat) : Bool := quantum == 0 || decide (65535 < quantum)
/-- PART.CREATE (R37, R353, R359, R363, R390, R394, R400). -/
def partCreate (h : CmdHdr) (sites : List Nat) (colours : List GrantReq) (qos : W32) (quantum : Nat) (isSealed : Bool) (s : State) : CmdRes :=
  byHyp h <|
    let p := s.partAt h.part
    if 48 ≤ h.part then .err .badMsg
    else if p.st ≠ .free then .err .state
    else if s.sitesOdd sites || grantsOdd colours || !s.grantsFit h.part colours || qosOdd qos || quantumOdd quantum then .err .badMsg
    else if sites.any s.siteUsed then .err .busy
    else
      let s := s.setPart h.part fun p =>
        { Part.init with st := .live, gen := if p.used then p.gen + 1 else 0, used := true, qos := qos, quantum := quantum,
                         isSealed := isSealed, world := if isSealed then s.ticks * 64 + h.part + 1 else 0, cnt := p.cnt }
      ((s.addSites h.part sites).setGrants h.part colours).endPart h.part
def execPartCreate (h : CmdHdr) (sites : List Nat) (colours : List GrantReq) (qos : W32) (quantum : Nat) (isSealed : Bool) (s : State) : Out :=
  runCmd (.partCreate sites colours qos quantum isSealed) h false (partCreate h sites colours qos quantum isSealed) s

/-- Every context of a partition killed, and its queued tasks ended (R355). -/
def State.killPart (part : Nat) (s : State) : State :=
  let ts := (s.disp.tasks.filter fun t => t.part == part && t.outcome.isNone).map Task.id
  let s := ts.foldl (fun s t => s.endTask t 7 0 id) s
  let stray := (s.cores.filter fun c => c.place.part == part && (c.place.run == .running || c.place.run == .stopped || c.place.run == .debug)).map Core.id
  let s := stray.foldl (fun s c => s.killCore c) s
  (s.vfsOf part).foldl (fun s v => s.dropLaunches v 5) s
/-- The steps of a PART.DESTROY: the kills at once, then the bump, which waits while the next generation value is not free (R355, R366). -/
def State.destroyPart (h : CmdHdr) (s : State) : CmdRes :=
  let s := (s.killPart h.part).setPart h.part fun p => { p with st := .draining, doomed := some h.reqid }
  if !s.bumpFree h.part then .wait s
  else
    let (n, s) := s.bump h.part
    let vs := s.vfsOf h.part
    let s := (s.clearWindows h.part).onMgmt fun m => { m with stile := m.stile.filter fun r => !vs.contains r.r.vfn }
    let s := s.setPart h.part fun p => { p with doomed := none, emask := 0, xbBase := 0, xbCount := 0, scrBase := 0, scrCount := 0,
                                                parkBase := 0, parkCount := 0, slots := 0 }
    .done (.words [BitVec.ofNat 64 n]) (s.measurePart h.part (s.configBytes h.part))
/-- PART.DESTROY (R355): commands for the partition that come after it find it draining. -/
def partDestroy (h : CmdHdr) (s : State) : CmdRes :=
  byHyp h <| if (s.partAt h.part).st = .draining ∧ (s.partAt h.part).doomed = some h.reqid then s.destroyPart h else onPart h s fun _ => s.destroyPart h
def execPartDestroy (h : CmdHdr) (s : State) : Out := runCmd .partDestroy h false (partDestroy h) s

/-- Waiting candidates that want more cores than the partition has end with CORES (R356). -/
def State.dropWide (part : Nat) (s : State) : State :=
  let n := (s.partAt part).sites.length
  (s.vfsOf part).foldl (fun s v =>
    let wide (l : Launch) : Bool := (l.checked.map fun r => decide (n < r.cores)).getD false
    let out := (s.vfAt v).launch.filter wide
    out.foldl (fun s l => s.dropLaunch v 1 l) (s.setVf v fun x => { x with launch := x.launch.filter fun l => !wide l })) s
/-- PART.RESIZE: the sites to add and remove, and the partition's colours from now on (R356, R359, R392). -/
def partResize (h : CmdHdr) (add remove : List Nat) (colours : List GrantReq) (s : State) : CmdRes :=
  byHyp h <| onPart h s fun p =>
    let keep := p.sites.length - remove.length
    let last := p.sites.drop keep
    if s.sitesOdd add || !remove.Nodup || !remove.all last.contains || decide (p.sites.length < remove.length) || grantsOdd colours
        || !s.grantsFit h.part colours then .err .badMsg
    else if add.any s.siteUsed then .err .busy
    else if (List.range p.sites.length).any fun n => decide (keep ≤ n) && s.coreBusy ⟨h.part, n⟩ then .err .busy
    else if s.storeChanges h.part colours && s.partBusy h.part then .err .busy
    else
      let s := (s.setPart h.part fun p => { p with sites := p.sites.take keep }).dropStrays
      let s := ((s.addSites h.part add).setGrants h.part colours).dropWide h.part
      s.endPart h.part
def execPartResize (h : CmdHdr) (add remove : List Nat) (colours : List GrantReq) (s : State) : Out :=
  runCmd (.partResize add remove colours) h false (partResize h add remove colours) s

/-- Whether a limits payload is out of range (R243, R244, R248, R295, R394). -/
def limitsOdd (l : Limits) : Bool :=
  fld l.mask 15 1 != 0 || decide (2048 < l.xbCount) || decide (4096 < l.xbBase + l.xbCount) || decide (2 ^ 32 < l.scrBase + l.scrCount)
    || decide (64 < l.parkBase + l.parkCount) || decide (256 < l.slots) || qosOdd l.qos
/-- PART.LIMITS (R15, R49, R110, R243, R244, R295, R394). -/
def partLimits (h : CmdHdr) (l : Limits) (s : State) : CmdRes :=
  byHyp h <| onPart h s fun _ =>
    if limitsOdd l then .err .badMsg
    else
      let slip := clampSlip l.slip
      let s := s.setPart h.part fun p =>
        { p with emask := l.mask, xbBase := l.xbBase, xbCount := l.xbCount, scrBase := l.scrBase, scrCount := l.scrCount,
                 parkBase := l.parkBase, parkCount := l.parkCount, slots := l.slots, precfg := l.precfg, slip := slip, qos := l.qos }
      let f (c : Core) : Core := if c.place.part = h.part then
        { c.wake with regs := { c.regs with slip := slip, precfg := l.precfg } } else c
      State.endPart h.part { s with core := f s.core, others := s.others.map f }
def execPartLimits (h : CmdHdr) (l : Limits) (s : State) : Out := runCmd (.partLimits l) h false (partLimits h l) s

/-- PART.GATE (R354). -/
def partGate (h : CmdHdr) (s : State) : CmdRes :=
  byHyp h <| onPart h s fun p =>
    if p.st ≠ .live ∨ s.partBusy h.part then .err .state
    else
      let s := s.setPart h.part fun p => { p with st := .gated }
      ok (s.measurePart h.part (s.configBytes h.part))
def execPartGate (h : CmdHdr) (s : State) : Out := runCmd .partGate h false (partGate h) s

/-- PART.GEN (R364): it waits while the next value is not free (R366); the count of discarded park slots comes back (R251). -/
def partGen (h : CmdHdr) (s : State) : CmdRes :=
  byHyp h <| onPart h s fun _ =>
    if !s.bumpFree h.part then .wait s
    else
      let (n, s) := s.bump h.part
      .done (.words [BitVec.ofNat 64 n]) (s.measurePart h.part (s.configBytes h.part))
def execPartGen (h : CmdHdr) (s : State) : Out := runCmd .partGen h false (partGen h) s

end Sys2Proof.Machine
end

