-- ==== Sys2Proof/Machine/CmdVf.lean ====
section
/-! DEFINITION. The commands on virtual functions: assignment, reset, roots, loads, launches, memory, resumes, page replies, the dirty
log (R37, R140, R336 to R347, R357, R358, R369, R375, R379, R421). -/

namespace Sys2Proof.Machine

/-! ### Assignment (R357, R358) -/

/-- Whether a host-physical address lies in the replay region (R410). -/
def State.inReplay (s : State) (hpa : Nat) : Bool := decide (s.mgmt.rbase ≤ hpa) && decide (hpa < s.mgmt.rbase + s.mgmt.rsize * 65536)
/-- Whether the parts of a VF.ASSIGN payload are out of range. -/
def State.assignOdd (s : State) (vfn part weight : Nat) (s2root : Option Nat) (trapBase sz : Nat) : Bool :=
  decide (192 ≤ vfn) || decide (48 ≤ part) || decide (255 < weight)
    || (match s2root with
      | none => true
      | some r => r % 65536 != 0 || decide (2 ^ 40 ≤ r) || s.inReplay r)
    || trapBase % 4096 != 0 || decide (2 ^ 48 ≤ trapBase) || decide (sz < 4) || decide (12 < sz)
/-- VF.ASSIGN (R357, R367). -/
def vfAssign (h : CmdHdr) (vfn part weight : Nat) (s2root : Option Nat) (trapBase sz : Nat) (s : State) : CmdRes :=
  byHyp h <|
    if s.assignOdd vfn part weight s2root trapBase sz then .err .badMsg
    else onPart { h with part := part } s fun _ =>
      if (s.vfAt vfn).part.isSome then .err .state
      else ok (s.setVf vfn fun v =>
        { Vf.init with part := some part, weight := weight, s2root := s2root.getD 0, trapBase := trapBase, trapSz := sz, cnt := v.cnt,
                       keys := if (s.partAt part).isSealed then some (newKeys (2 * s.ticks + 1)) else none })
def execVfAssign (h : CmdHdr) (vfn part weight : Nat) (s2root : Option Nat) (trapBase sz : Nat) (s : State) : Out :=
  runCmd (.vfAssign vfn part weight s2root trapBase sz) h false (vfAssign h vfn part weight s2root trapBase sz) s

/-- The collectives of a function end with CANCELLED, here and on the other members (R306). -/
def State.cancelColls (vf : Nat) (s : State) : State :=
  let l := (s.vfAt vf).colls
  let s := l.foldl (fun s c => s.failColl c 4) s
  l.foldl (fun s c => match s.collPlaces vf true 2 (c.blk.addr.toNat + 0x28) 8 with
    | (.ok p, s) => (s.collPut ((s.vfAt vf).part.getD 0) Mark.empty p (natLe (c.status (c.outcome.getD 4)) 8)).collDone vf c
    | (.error _, s) => s.collDone vf c) s
/-- The five steps of a reset (R358), and the function's records leave the Stile (R420). -/
def State.resetVf (v : Nat) (s : State) : State :=
  let ts := (s.disp.tasks.filter fun t => t.vf == v && t.outcome.isNone).map Task.id
  let s := ts.foldl (fun s t => s.endTask t 7 0 (fun _ => 0)) s
  let s := (s.dropLaunches v 5).cancelColls v
  let s := s.setVf v fun x => { x with reqQ := [], evQ := [], pageWait := [] }
  (s.raiseVfGen v).onMgmt fun m => { m with stile := m.stile.filter fun r => r.r.vfn != v }
/-- Whether an earlier command for the same function has still to answer (R358). -/
def State.heldBehind (s : State) (h : CmdHdr) : Bool := (s.mgmt.waiting.takeWhile (· != h)).any fun x => x.vfn == h.vfn
/-- The function leaves its partition once every task of it has its STATUS (R357, R358). -/
def State.unassign (h : CmdHdr) (s : State) : CmdRes :=
  if s.disp.tasks.any fun t => t.vf == h.vfn then .wait (s.setVf h.vfn fun x => { x with leaving := some h.reqid })
  else ok ((s.dropLaunches h.vfn 5).setVf h.vfn fun x => { Vf.init with cnt := x.cnt })
/-- VF.RESET (R358). -/
def vfReset (h : CmdHdr) (unassign : Bool) (s : State) : CmdRes :=
  let may : Bool := match h.issuer with
    | .hyp => true
    | .vf n => n == h.vfn && !unassign
  if !may then .err .denied
  else onVf h s fun _ x =>
    if unassign ∧ x.leaving = some h.reqid then s.unassign h
    else if s.heldBehind h then .wait s
    else if unassign then (s.resetVf h.vfn).unassign h
    else ok (s.resetVf h.vfn)
def execVfReset (h : CmdHdr) (unassign : Bool) (s : State) : Out := runCmd (.vfReset unassign) h false (vfReset h unassign) s

/-- VF.WEIGHT (R37). -/
def vfWeight (h : CmdHdr) (weight : Nat) (s : State) : CmdRes :=
  byHyp h <| onVf h s fun _ _ => if 255 < weight then .err .badMsg else ok (s.setVf h.vfn fun v => { v with weight := weight })
def execVfWeight (h : CmdHdr) (weight : Nat) (s : State) : Out := runCmd (.vfWeight weight) h false (vfWeight h weight) s

/-- VF.S1ROOT (R327, R357): every port drops the function's stage-1 walk entries and combined entries. -/
def vfS1root (h : CmdHdr) (v : W64) (s : State) : CmdRes :=
  byVf h <| onVf h s fun _ _ =>
    if fld v 48 16 ≠ 0 ∨ fld v 1 11 ≠ 0 then .err .badMsg
    else
      let f (c : Core) : Core := { c with port := { c.port with
        tc := c.port.tc.filter fun e => !(e.vf == h.vfn && !e.s2only)
        walks1 := c.port.walks1.filter fun e => e.vf != h.vfn } }
      let s := s.setVf h.vfn fun x => { x with s1tb := v }
      ok { s with core := f s.core, others := s.others.map f }
def execVfS1root (h : CmdHdr) (v : W64) (s : State) : Out := runCmd (.vfS1root v) h false (vfS1root h v) s

/-! ### Guest-physical ranges -/

/-- The places of a guest-physical range, cut at 64 KiB; none where any of it does not translate in the function's stage 2, or lies in a way of
the store aperture that its partition may not use (R393; log entry 122). -/
def State.guestPlaces (vf : Nat) : Nat → Nat → Nat → State → Option (List (Nat × S2 × Nat)) × State
  | 0, _, _, s => (some [], s)
  | k + 1, gpa, n, s =>
    if n = 0 then (some [], s)
    else
      let m := min n (65536 - gpa % 65536)
      match s.stage2 (s.whoVf vf) gpa with
      | (.error _, s) => (none, s)
      | (.ok t, s) =>
        if !s.apertureOk ((s.vfAt vf).part.getD 0) (t.at gpa) then (none, s)
        else (match State.guestPlaces vf k (gpa + m) (n - m) s with
        | (some l, s) => (some ((gpa, t, m) :: l), s)
        | r => r)
/-- Bytes written at such places, whatever W holds: D is set, an empty earmark is added (R341, R379). -/
def State.guestPut (vf part : Nat) : List (Nat × S2 × Nat) → List Byte → State → State
  | [], _, s => s
  | (gpa, t, n) :: l, bs, s =>
    State.guestPut vf part l (bs.drop n) ((s.setDirty vf t).writeData part (s.partAt part).gen .plain (t.at gpa) (t.frame gpa) (bs.take n) Mark.empty)
/-- What the reads of such places leave beside their lines (R391). -/
def State.readPlaces (part : Nat) (l : List (Nat × S2 × Nat)) (s : State) : State := l.foldl (fun s x => s.afterRead part (x.2.1.at x.1) x.2.2) s
/-- Most bytes a message carries beside its header (R378). -/
def msgBytes : Nat := 2 ^ 20 - 32

/-- MEM.WRITE (R379). -/
def memWrite (h : CmdHdr) (gpa : Nat) (data : List Byte) (s : State) : CmdRes :=
  byVfOrHyp h s <| onVf h s fun part _ =>
    if msgBytes < data.length then .err .badMsg
    else match s.guestPlaces h.vfn (data.length / 65536 + 2) gpa data.length with
      | (none, _) => .err .noEnt
      | (some l, s) => ok (s.guestPut h.vfn part l data)
def execMemWrite (h : CmdHdr) (gpa : Nat) (data : List Byte) (s : State) : Out := runCmd (.memWrite gpa data) h false (memWrite h gpa data) s

/-- Whether every frame of the rotas that names a function has a length (R375). -/
def State.framesAre (s : State) (vf len : Nat) : Bool :=
  s.disp.rotas.all fun r => r.entries.all fun e => e.vfn != some vf || frameLen e == len
/-- PROG.LOAD (R375, R379, R384): at LAST the function's measurement takes in the image, the bytes from GPA to the end of this part. -/
def progLoad (h : CmdHdr) (gpa off : Nat) (img : List Byte) (last : Bool) (frame : Option Nat) (s : State) : CmdRes :=
  byVfOrHyp h s <| onVf h s fun part _ =>
    let frameOk : Bool := match frame with
      | some f => s.framesAre h.vfn f
      | none => false
    if (s.partAt part).isSealed && !frameOk then .err .state
    else if msgBytes < img.length then .err .badMsg
    else match s.guestPlaces h.vfn (img.length / 65536 + 2) (gpa + off) img.length with
      | (none, _) => .err .noEnt
      | (some l, s) =>
        let s := s.guestPut h.vfn part l img
        if !last then ok s
        else match s.guestPlaces h.vfn ((off + img.length) / 65536 + 2) gpa (off + img.length) with
          | (none, _) => .err .noEnt
          | (some l, s) =>
            let whole := l.flatMap fun (a, t, n) => s.seen part (t.at a) n
            let s := s.readPlaces part l
            ok (s.setVf h.vfn fun v => { v with meas := Config.sha3 (natLe v.meas.toNat 32 ++ natLe (Config.sha3 whole).toNat 32) })
def execProgLoad (h : CmdHdr) (gpa off : Nat) (img : List Byte) (last : Bool) (frame : Option Nat) (s : State) : Out :=
  runCmd (.progLoad gpa off img last frame) h false (progLoad h gpa off img last frame) s

/-! ### MEM.READ and the Stile (R286, R421) -/

/-- Whether a session of a key owns a label (R286, R387). -/
def State.ownsLabel (s : State) (digest : BitVec 256) (l : Nat) : Bool := s.mgmt.labels.any fun x => x.1 == l && x.2 == digest
/-- Whether an earmark may leave by itself in a command's answer. -/
def State.releases (s : State) (digest : BitVec 256) (m : Mark) : Bool := s.releasesTo none (s.ownsLabel digest) m
/-- Whether a policy record qualifies for a page that holds bytes from gpa on. -/
def State.qualifies (s : State) (h : CmdHdr) (need gpa n : Nat) (m : Mark) (r : StileRec) : Bool :=
  !m.ovf && m.labels.all r.r.labels.contains && r.r.vfn == h.vfn && decide (r.r.gbase ≤ gpa / 65536 * 65536)
    && decide (gpa + n ≤ r.r.gbase + r.r.gsize)
    && (if r.r.destOwn then h.issuer == .vf r.r.vfn else h.issuer == .hyp)
    && (r.r.notAfter == 0 || decide (s.gcc.toNat ≤ r.r.notAfter)) && decide (need ≤ r.left)
/-- The qualifying record of the lowest POLICYID. -/
def lowestPolicy (l : List StileRec) : Option StileRec := l.foldl (fun b r => match b with
  | some x => if r.r.policyId < x.r.policyId then some r else b
  | none => some r) none
/-- The pages of a read that R286 does not release directly, with their earmarks. -/
def State.held (s : State) (h : CmdHdr) (l : List (Nat × S2 × Nat)) : List (Nat × Nat × Mark) :=
  (l.map fun (a, t, n) => (a, t, n, s.pageMark (t.frame a))).filterMap fun (a, t, n, m) =>
    if s.releases h.digest m || s.inReplay (t.at a) then none else some (a, n, m)
/-- Every held page charged to its record; none where one has no record. -/
def State.charge (h : CmdHdr) (need : Nat) : List (Nat × Nat × Mark) → State → Option State
  | [], s => some s
  | (a, n, m) :: l, s =>
    match State.charge h need l s with
    | none => none
    | some t => match lowestPolicy (s.mgmt.stile.filter (s.qualifies h need a n m)) with
      | none => none
      | some r => some (t.onMgmt fun x => { x with stile := x.stile.map fun k =>
          if k.r.policyId = r.r.policyId ∧ k.r.vfn = r.r.vfn then { k with left := k.left - n } else k })
/-- MEM.READ (R379, R421). -/
def memRead (h : CmdHdr) (gpa len : Nat) (s : State) : CmdRes :=
  byVfOrHyp h s <| onVf h s fun part _ =>
    if msgBytes < len then .err .badMsg
    else match s.guestPlaces h.vfn (len / 65536 + 2) gpa len with
      | (none, _) => .err .noEnt
      | (some l, s) =>
        if l.any fun (a, t, n) => s.badBlock part (t.at a) n || s.poisoned (t.at a) n then .err .integrity
        else
          let pages := s.held h l
          let need := (pages.map fun x => x.2.1).foldl (· + ·) 0
          match s.charge h need pages with
          | none => .err .refused
          | some s => .done (.bytes (l.flatMap fun (a, t, n) => s.seen part (t.at a) n)) (s.readPlaces part l)
def execMemRead (h : CmdHdr) (gpa len : Nat) (s : State) : Out := runCmd (.memRead gpa len) h false (memRead h gpa len) s

/-! ### Tasks and contexts (R34, R140, R369) -/

/-- TASK.LAUNCH (R34, R140, R379). -/
def taskLaunch (h : CmdHdr) (addr : Nat) (s : State) : CmdRes :=
  byVf h <| onVf h s fun _ _ =>
    if addr % 128 ≠ 0 ∨ 2 ^ 64 ≤ addr then .err .badMsg
    else match s.enqueueTask h.vfn addr with
      | (s, true) => ok s
      | (_, false) => .err .noRes
def execTaskLaunch (h : CmdHdr) (addr : Nat) (s : State) : Out := runCmd (.taskLaunch addr) h false (taskLaunch h addr) s

/-- TASK.CANCEL (R379): the oldest task of that record; one that has started is killed. -/
def taskCancel (h : CmdHdr) (addr : Nat) (s : State) : CmdRes :=
  byVf h <| onVf h s fun _ v =>
    match s.disp.tasks.find? fun t => t.vf == h.vfn && t.r.addr.toNat == addr && t.outcome.isNone with
    | some t => ok (s.endTask t.id 5 0 id)
    | none => match lowest (fun l => l.addr.toNat == addr) v.launch with
      | none => .err .noEnt
      | some i => match v.launch[i]? with
        | none => .err .noEnt
        | some l => ok ((s.setVf h.vfn fun x => { x with launch := x.launch.eraseIdx i }).dropLaunch h.vfn 5 l)
def execTaskCancel (h : CmdHdr) (addr : Nat) (s : State) : Out := runCmd (.taskCancel addr) h false (taskCancel h addr) s

/-- A stopped context goes on: its halted engines look at their words again, and S1TB is the function's (R41, R327, R369). -/
def Core.goOn (s1tb : W64) (c : Core) : Core :=
  { c with place := { c.place with run := .running }
           regs := { c.regs with s1tb := s1tb }
           walk := { c.walk with stall := 0, engs := c.walk.engs.map fun x => if x.blk = .atHalt then x else x.wait .running } }
/-- A change made to a function's context on a logical core, running or saved. -/
def State.onContext (vf num : Nat) (f : Core → Core) (s : State) : State :=
  let g (c : Core) : Core := if c.place.vf = vf ∧ c.place.num = num ∧ c.place.task.isSome then f c else c
  { s with core := g s.core, others := s.others.map g }.onDisp fun d => { d with saved := d.saved.map g }
/-- The contexts of a function, running and saved. -/
def State.contexts (s : State) (vf : Nat) : List Core := (s.cores ++ s.disp.saved).filter fun c => c.place.vf == vf && c.place.task.isSome
/-- CTX.RESUME (R369). -/
def ctxResume (h : CmdHdr) (core : Nat) (s : State) : CmdRes :=
  byVfOrHyp h s <| onVf h s fun _ _ =>
    match (s.contexts h.vfn).find? fun c => c.place.num == core with
    | none => .err .noEnt
    | some c =>
      if s.imageFails h.vfn c.id (c.place.task.getD 0) then .err .integrity
      else if c.place.run ≠ .debug then .err .state else ok (s.onContext h.vfn core (Core.goOn (s.vfAt h.vfn).s1tb))
def execCtxResume (h : CmdHdr) (core : Nat) (s : State) : Out := runCmd (.ctxResume core) h false (ctxResume h core) s

/-! ### Page replies and invalidations (R336, R339, R346, R347) -/

/-- Whether a record breaks its layout (R346). -/
def replyOdd (r : PageReplyRec) : Bool :=
  let gran := if r.kind = 0 ∨ r.kind = 3 then 65536 else 4096
  r.badLayout || decide (3 < r.kind) || decide (192 ≤ r.vfn) || decide (64 ≤ r.gen) || r.addr % gran != 0 || decide (2 ^ 64 ≤ r.addr)
    || (if r.kind < 2 then r.size != 0 || decide (1 < r.status) else r.size % gran != 0 || r.status != 0) || (r.mark0 && r.kind != 0)
/-- Whether the issuer may send a record of its kind: the hypervisor 0 and 3, a function 1 and 2 for itself. -/
def replyMay (h : CmdHdr) (r : PageReplyRec) : Bool := match h.issuer with
  | .hyp => r.kind == 0 || r.kind == 3
  | .vf n => (r.kind == 1 || r.kind == 2) && r.vfn == n
/-- Where the page of a reply to a request maps to, if it does. -/
def State.replyFrame (s : State) (r : PageReplyRec) : Option S2 := match (s.stage2 (s.whoVf r.vfn) r.addr).1 with
  | .ok t => some t
  | .error _ => none
/-- Whether the Granary holds a line of a stale generation in a leaf's memory: the scrubber has not cleared it (R336, R365, R366). -/
def State.frameStale (s : State) (t : S2) : Bool :=
  s.mem.lines.any fun kv => decide (t.hpa ≤ kv.1 * 128) && decide (kv.1 * 128 < t.hpa + t.size) && (kv.2.way.isSome || inAperture (kv.1 * 128))
    && !s.lineLive kv.1
/-- Whether a leaf names the replay region (R410; log entry 98). -/
def State.namesReplay (s : State) (t : S2) : Bool :=
  decide (t.hpa < s.mgmt.rbase + s.mgmt.rsize * 65536) && decide (s.mgmt.rbase < t.hpa + t.size)
/-- A reply that maps the replay region (R410), or whose MARK0 names a frame not cleared. -/
def State.replyRefused (s : State) (r : PageReplyRec) : Bool :=
  r.kind == 0 && (match s.replyFrame r with
    | some t => s.namesReplay t || (r.mark0 && s.frameStale t)
    | none => false)

/-- The contexts that waited for a record, by core and task, go on once they wait for nothing else. -/
def State.wakeWaiters (vf : Nat) (l : List (Nat × Nat)) (s : State) : State :=
  l.foldl (fun s (n, t) =>
    if s.waitsPage vf n t then s
    else s.atContext ⟨(s.vfAt vf).part.getD 0, n⟩ t fun c => if c.place.run = .stopped then c.goOn (s.vfAt vf).s1tb else c) s
/-- The tasks whose contexts waited for a record fail, each once, with the lowest of its cores that waited (R44, R347). -/
def State.failWaiters (l : List (Nat × Nat)) (s : State) : State :=
  ((l.map Prod.snd).dedup).foldl (fun s t =>
    let cores := (l.filter fun x => x.2 == t).map Prod.fst
    s.failTask t (cores.foldl min (cores.headD 0))) s
/-- A reply to a page request or a page event (R347). -/
def State.reply (r : PageReplyRec) (s : State) : State :=
  let v := s.vfAt r.vfn
  let event := r.kind == 1
  let page := r.addr / (if event then 4096 else 65536)
  if BitVec.ofNat 6 r.gen ≠ v.gen then s.setVf r.vfn fun v => { v with cnt := { v.cnt with stale := v.cnt.stale + 1 } }
  else match (v.recs event).find? fun x => x.page == page with
    | none => s.setVf r.vfn fun v => { v with cnt := { v.cnt with unmatched := v.cnt.unmatched + 1 } }
    | some x =>
      let s := s.setVf r.vfn fun v => v.setRecs event ((v.recs event).filter fun y => y.page != page)
      let s := if r.mark0 then (match s.replyFrame r with
          | some t => s.setPageMark (t.frame r.addr) Mark.empty
          | none => s) else s
      if r.status = 0 then s.wakeWaiters r.vfn x.waiters else (s.failWaiters x.waiters).failMiss r.vfn page
/-- A stage-1 or stage-2 range dropped from every port's caches (R339); the tables of the walks are dropped whole. -/
def State.dropRange (r : PageReplyRec) (s : State) : State :=
  let meets (base size : Nat) : Bool := decide (base < r.addr + r.size) && decide (r.addr < base + size)
  let f (c : Core) : Core :=
    { c with port := { c.port with
        tc := c.port.tc.filter fun e => !(e.vf == r.vfn &&
          (if r.kind = 2 then !e.s2only && meets e.base e.size else meets e.gpaPage (if e.leafBig then 2 ^ 29 else 65536)))
        walks1 := if r.kind = 2 then c.port.walks1.filter fun e => e.vf != r.vfn else c.port.walks1
        walks2 := if r.kind = 3 then c.port.walks2.filter fun e => e.vf != r.vfn else c.port.walks2 } }
  { s with core := f s.core, others := s.others.map f }
/-- Whether accesses that a function's contexts have translated are still to perform: those under way, killed contexts' too, and addends carried,
saved contexts' too (R339). -/
def State.inFlight (s : State) (vf : Nat) : Bool :=
  let mine (c : CoreId) : Bool := ((s.coreAt c).map fun k => k.place.vf == vf && (k.place.task.isSome || k.place.run == .scrubbing)).getD false
  s.onWay mine || (s.contexts vf).any (fun c => !c.port.carry.isEmpty)
    || s.sums.any fun a => ((a.red.map fun k => k.hvf == vf && k.coll.isNone)).getD false
/-- The records of a PAGE.REPLY in turn. -/
def State.replies (l : List PageReplyRec) (s : State) : State :=
  l.foldl (fun s r => if r.kind < 2 then s.reply r else s.dropRange r) s
/-- The turns of the replies of a command, each of which is one choice (R416, R417). -/
def State.replyTurns (s : State) : List PageReplyRec → Option State
  | [] => some s
  | r :: l => (s.choose 5 ((s.vfAt r.vfn).part.getD 0) 0 (whoCode 0 r.vfn (r.addr / 4096))).bind fun s => s.replyTurns l
/-- PAGE.REPLY: an invalidation waits until every earlier access of the function has performed; in replay, replies wait for their
recorded turn (R339, R347, R417). -/
def pageReply (h : CmdHdr) (recs : List PageReplyRec) (s : State) : CmdRes :=
  if recs.isEmpty || decide (64 < recs.length) || recs.any replyOdd then .err .badMsg
  else if !recs.all (replyMay h) then .err .denied
  else if recs.any fun r => (s.vfAt r.vfn).part.isNone then .err .noEnt
  else if recs.any fun r => (((s.vfAt r.vfn).part.map fun p => (s.partAt p).st == .draining).getD false) then .err .state
  else if recs.any s.replyRefused then .err .badMsg
  else if recs.any fun r => decide (2 ≤ r.kind) && s.inFlight r.vfn then .wait s
  else
    match s.replyTurns recs with
    | none => .wait s
    | some s => ok (s.replies recs)
def execPageReply (h : CmdHdr) (recs : List PageReplyRec) (s : State) : Out := runCmd (.pageReply recs) h false (pageReply h recs) s

/-! ### The dirty log (R342, R343) -/

/-- MIG.START: OVF is cleared by writing 1 (R342). -/
def migStart (h : CmdHdr) (w0 w1 : W64) (s : State) : CmdRes :=
  byHyp h <| onVf h s fun _ v =>
    if fld w0 44 18 ≠ 0 ∨ fld w0 0 12 ≠ 0 then .err .badMsg
    else
      let ovf : W64 := if fld v.dlog0 62 1 = 1 ∧ fld w0 62 1 = 0 then 0x4000000000000000 else 0
      ok (s.setVf h.vfn fun v => { v with dlog0 := (w0 &&& 0x80000FFFFFFFF000) ||| ovf, dlog1 := w1 })
def execMigStart (h : CmdHdr) (w0 w1 : W64) (s : State) : Out := runCmd (.migStart w0 w1) h false (migStart h w0 w1) s
/-- MIG.STOP. -/
def migStop (h : CmdHdr) (s : State) : CmdRes :=
  byHyp h <| onVf h s fun _ v =>
    .done (.words [v.dlog0, v.dlog1]) (s.setVf h.vfn fun v => { v with dlog0 := v.dlog0 &&& 0x7FFFFFFFFFFFFFFF })
def execMigStop (h : CmdHdr) (s : State) : Out := runCmd .migStop h false (migStop h) s

end Sys2Proof.Machine
end

