-- ==== Sys2Proof/Machine/Control.lean ====
section
/-! DEFINITION. The control words, which every engine executes against its own loop stack and K view (R117 to R125). -/

namespace Sys2Proof.Machine

/-- What a control word comes to in one engine. -/
inductive CtlRes
  | goto (s : State) (pc : Nat)
  | stall (r : Block)
  | block (s : State) (r : Block)
  /-- The engine stops at HALT, or at a JOBNEXT that gives no job (R123, R31). -/
  | halt (s : State)
  /-- The engine stops at a taken PPOINT (R47). -/
  | stop (s : State)
  | illegal

/-- A control word: only JMP, BR.K and NOPA stand in the handler (R144); M comes to it once its earlier words have finished (R215; log entry 42);
a walk that would reach index 16,384 raises ILLEGAL, whose TEXTIX names this word, and the word has changed nothing then (R92, R93; log entry 116). An engine
that stops at a taken PPOINT keeps the blocking reason it had (R43; log entry 113). -/
def runControl (len : Nat) (inHandler : Bool) (body : State → CtlRes) (s : State) : Out :=
  let e := s.act
  let handler := s.core.regs.hmode && e == .s
  if handler && !inHandler then .next (illegalControl s)
  else if s.core.slips e len && !handler then .next (s.onEng e (Eng.wait .slip))
  else if e = .m ∧ (s.core.mat.ops ≠ [] ∨ s.core.mat.word.isSome) then .next (s.onEng e (Eng.wait .running))
  else match body s with
    | .goto v pc => if pc < Config.textWords then .next (v.onCore (Core.moveOn e pc len)) else .next (illegalControl s)
    | .stall r => .next (s.onEng e (Eng.wait r))
    | .block s r => .next (s.onCore fun c => c.wake.onEng e (Eng.wait r))
    | .halt s => .next ((s.onEng e fun x => { x.wait .atHalt with stack := [] }).tryHalt)
    | .stop s => .next (s.onEng e fun x => { x with atPoint := true })
    | .illegal => .next (illegalControl s)

/-- Whether a K register read as a signed integer passes a test (R96). -/
def kccHolds (c : Kcc) (k : W32) : Bool :=
  match c with
  | .eq => k == 0
  | .ne => k != 0
  | .lt => k.toInt < 0
  | .ge => 0 ≤ k.toInt
  | .gt => 0 < k.toInt
  | .le => k.toInt ≤ 0
  | .always => true

/-- A control word that reads K waits for S (R18). -/
def ctlK (body : State → CtlRes) (s : State) : CtlRes := if s.kAhead then .stall .kAhead else body s

/-- The state with another loop stack for the engine that moves. -/
def State.setStack (l : List Frame) (s : State) : State := s.onEng s.act fun x => { x with stack := l }

/-- The word that ENDL is encoded as (R98). -/
def endlWord : W32 := 0xE0020000

/-- LOOP at the engine's index, with a count (R119). -/
def loopBody (e : Fin 2048) (len : Nat) (c : W32) (s : State) : CtlRes :=
  let i := s.me.pc
  let fin := i + e.val
  if e.val < len ∨ Config.textWords ≤ fin ∨ s.core.wordAt fin ≠ endlWord then .illegal
  else if c = 0 then .goto s (fin + 1)
  else if Config.stackDepth ≤ s.me.stack.length then .illegal
  else .goto (s.setStack (.loop (i + len) fin c :: s.me.stack)) (i + len)

/-- LOOP (R119). -/
def execLoop (k : KR) (e : Fin 2048) (s : State) : Out := runControl 1 false (ctlK fun s => loopBody e 1 (s.k k).val s) s
/-- LOOP with its count in the extension (R119). -/
def execLoopCount (e : Fin 2048) (count : W32) (s : State) : Out := runControl 2 false (loopBody e 2 count) s

/-- ENDL (R119). -/
def endlBody (s : State) : CtlRes :=
  match s.me.stack with
  | .loop body fin left :: rest =>
    if fin ≠ s.me.pc then .illegal
    else if left - 1 ≠ 0 then .goto (s.setStack (.loop body fin (left - 1) :: rest)) body
    else .goto (s.setStack rest) (s.me.pc + 1)
  | _ => .illegal
def execEndl (s : State) : Out := runControl 1 false endlBody s

/-- The entries BRK pops: none when one of them is a call entry or too few are there (R120). -/
def breakOut : Nat → List Frame → Option (Nat × List Frame)
  | _, [] => none
  | _, .call _ :: _ => none
  | 0, .loop _ fin _ :: rest => some (fin, rest)
  | n + 1, .loop _ _ _ :: rest => breakOut n rest

/-- BRK (R120). -/
def brkBody (k : KR) (c : Kcc) (l : Fin 8) (s : State) : CtlRes :=
  if kccHolds c (s.k k).val then
    match breakOut l.val s.me.stack with
    | none => .illegal
    | some (fin, rest) => .goto (s.setStack rest) (fin + 1)
  else .goto s (s.me.pc + 1)
def execBrk (k : KR) (c : Kcc) (l : Fin 8) (s : State) : Out :=
  runControl 1 false (if c = .always then brkBody k c l else ctlK (brkBody k c l)) s

/-- A branch to the engine's index plus an offset; a target outside the text raises ILLEGAL (R98, R121). -/
def branchBy (off : Int) (s : State) : CtlRes :=
  let t : Int := s.me.pc + off
  if 0 ≤ t ∧ t < Config.textWords then .goto s t.toNat else .illegal

/-- JMP (R121). -/
def execJmp (o : BitVec 15) (s : State) : Out := runControl 1 true (branchBy o.toInt) s

/-- BR.K (R121). -/
def brKBody (k : KR) (c : Kcc) (o : BitVec 9) (s : State) : CtlRes :=
  if kccHolds c (s.k k).val then branchBy o.toInt s else .goto s (s.me.pc + 1)
def execBrK (k : KR) (c : Kcc) (o : BitVec 9) (s : State) : Out :=
  runControl 1 true (if c = .always then brKBody k c o else ctlK (brKBody k c o)) s

/-- CALL (R122). -/
def callBody (o : BitVec 15) (s : State) : CtlRes :=
  if Config.stackDepth ≤ s.me.stack.length then .illegal
  else branchBy o.toInt (s.setStack (.call (s.me.pc + 1) :: s.me.stack))
def execCall (o : BitVec 15) (s : State) : Out := runControl 1 false (callBody o) s

/-- RET (R122). -/
def retBody (s : State) : CtlRes :=
  match s.me.stack with
  | .call back :: rest => .goto (s.setStack rest) back
  | _ => .illegal
def execRet (s : State) : Out := runControl 1 false retBody s

/-- NOPA (R123). -/
def execNopa (s : State) : Out := runControl 1 true (fun s => .goto s (s.me.pc + 1)) s

/-- HALT (R123). -/
def execHalt (s : State) : Out := runControl 1 false CtlRes.halt s

/-- The decision of a PPOINT instance: the first engine samples whether a soft request is pending; while S is in the handler the
request is held (R47, R52). -/
def State.decidePoint (s : State) : Bool × State :=
  match s.core.walk.decisions.find? fun d => d.1 == s.me.six with
  | some d => (d.2, s)
  | none =>
    let b := s.core.walk.softReq && !s.core.regs.hmode
    (b, s.onWalk fun w => { w with decisions := w.decisions ++ [(s.me.six, b)] })

/-- PPOINT: it is passed and its masks recorded, or the engine stops at it (R46, R47, R124). -/
def ppointBody (t : BitVec 8) (g : BitVec 4) (s : State) : CtlRes :=
  let (taken, s) := s.decidePoint
  if taken then .stop s
  else
    let p : PPoint := ⟨s.me.six, t, g⟩
    let s := s.onWalk fun w => if w.points.any fun q => q.pos == p.pos then w else { w with points := p :: w.points }
    .goto s (s.me.pc + 1)
def execPpoint (t : BitVec 8) (g : BitVec 4) (s : State) : Out := runControl 1 false (ppointBody t g) s

/-- The answer to a JOBNEXT recorded for its stream index. -/
def State.giveJob (pos : W32) (j : Option Nat) (s : State) : State :=
  s.onCore fun c => { c with walk := { c.walk with jobGives := c.walk.jobGives ++ [⟨pos, j⟩], jobReq := none },
                             place := { c.place with job := j.getD c.place.job } }

/-- An engine passes a JOBNEXT that gives job j: S writes K0 to K3, and the loop stack empties (R31, R117). -/
def takeJob (k : Task) (j : Nat) (s : State) : CtlRes :=
  if s.act = .s then
    if s.core.journalRoom 4 then .goto ((s.onCore (Core.writeIndices (k.r.indices j))).setStack []) (s.me.pc + 1)
    else .stall .journal
  else .goto (s.setStack []) (s.me.pc + 1)

/-- JOBNEXT: the job comes from the cursor in static mode, which S moves in the order of its own stream, and from the walker in dynamic
mode (R31, R125, R139). -/
def jobnextBody (s : State) : CtlRes :=
  match s.curTask with
  | none => .stall .jobnext
  | some k =>
    let pos := s.me.six
    match s.core.walk.jobGives.find? fun d => d.pos == pos with
    | some ⟨_, some j⟩ => takeJob k j s
    | some ⟨_, none⟩ => .halt s
    | none =>
      if k.r.static then
        let (c, j) := s.core.advanceCursor
        if s.act ≠ .s then .stall .jobnext
        else if j.isSome && !s.core.journalRoom 4 then .stall .journal
        else
          let s := State.giveJob pos j { s with core := c }
          match j with
          | some j => takeJob k j s
          | none => .halt s
      else if k.nextJob < k.jobs then .block (s.onWalk fun w => { w with jobReq := some pos }) .jobnext
      else .halt (s.giveJob pos none)
def execJobnext (s : State) : Out := runControl 1 false jobnextBody s

end Sys2Proof.Machine
end

