-- ==== Sys2Proof/Machine/DeviceEvents.lean ====
section
/-! DEFINITION. Events of the device: links, errors, management cores, power and cooling, bring-up, replay, bank-group maps
(R362, R380 to R383, R413, R414, R417, R423, R424). Each event changes nothing where it cannot happen. -/

namespace Sys2Proof.Machine

/-! ### Torus links (R380 to R382, R424) -/

/-- Whether a peer offers the subset of R380: version 1.4, the four algorithms, its chain in slot 0, and whether its signature verifies. -/
def peerSubset (p : LinkPeer) : Bool := p.present && p.version14 && p.algorithms && p.slot0 && p.sigOk
/-- Whether a peer authenticates: the subset, a chain to an installed root, and its measurement (R380, R382). -/
def State.peerOk (s : State) (p : LinkPeer) : Bool := peerSubset p && s.mgmt.anchors.contains p.rootDigest && p.measOk
/-- Which of two nodes is lower, by X, then Y, then Z (R380). -/
def lowerNode (a b : Nat) : Bool :=
  let (ax, ay, az) := (a % 16, a / 16 % 16, a / 256)
  let (bx, by_, bz) := (b % 16, b / 16 % 16, b / 256)
  decide (ax < bx) || (ax == bx && (decide (ay < by_) || (ay == by_ && decide (az < bz))))
/-- A link comes up: the lower node has been the requester, both directions have the keys of the session, counts restart, and every channel has its
credits (R230, R380, R381). -/
def State.linkUp (port : Fin 6) (s : State) : State :=
  let me := s.mgmt.node
  let far := s.neighbour port.val
  s.setPort port.val fun q => { q with up := true, tagFails := 0, requester := lowerNode me far,
                                       outDir := { LinkDir.init with key := Config.linkKey s.ticks me },
                                       inDir := { LinkDir.init with key := Config.linkKey s.ticks far },
                                       credits := Vector.ofFn (fun v => Config.linkCredits port.val v.val), dryAt := Vector.replicate 8 s.gcc }
/-- A link goes down. -/
def State.linkDown (port : Fin 6) (s : State) : State :=
  s.setPort port.val fun q => { q with up := false, tagFails := 0, credits := Vector.replicate 8 0, dryAt := Vector.replicate 8 s.gcc }
/-- The 10 s after which a link that failed its training is trained again (R424). -/
def retryTime : Nat := 10000000 * microsecond
/-- LINK_TRAINING: from step 6 of bring-up on; a link that fails stays down. -/
def linkTraining (port : Fin 6) (peer : LinkPeer) (s : State) : State :=
  if s.mgmt.step < 6 ∨ (s.torusPort port.val).up then s
  else if s.peerOk peer then (s.linkUp port).drainTx
  else s.setPort port.val fun q => { q with retryAt := s.mgmt.power.time + retryTime }
def execLinkTraining (port : Fin 6) (peer : LinkPeer) (s : State) : Out := .next (linkTraining port peer s)
/-- LINK_RETRY: a link that is down trains again, 10 s after it failed (R424). -/
def linkRetry (port : Fin 6) (peer : LinkPeer) (s : State) : State :=
  if s.mgmt.power.time < (s.torusPort port.val).retryAt then s else linkTraining port peer s
def execLinkRetry (port : Fin 6) (peer : LinkPeer) (s : State) : Out := .next (linkRetry port peer s)
/-- FLIT_TAG_FAILURE: three in a row take the link down (R381). -/
def flitTagFailure (port : Fin 6) (s : State) : State :=
  if !(s.torusPort port.val).up then s
  else if 2 ≤ (s.torusPort port.val).tagFails then s.linkDown port
  else s.setPort port.val fun q => { q with tagFails := q.tagFails + 1 }
def execFlitTagFailure (port : Fin 6) (s : State) : Out := .next (flitTagFailure port s)
/-- FLIT_COUNT_KEY_UPDATE after 2^32 flits that this side has sent (R381). -/
def flitCountKeyUpdate (port : Fin 6) (s : State) : State :=
  if (s.torusPort port.val).outDir.flits < 2 ^ 32 then s
  else s.setPort port.val fun q => { q with outDir := q.outDir.update }
def execFlitCountKeyUpdate (port : Fin 6) (s : State) : Out := .next (flitCountKeyUpdate port s)
/-- HEARTBEAT_MISSED takes the link down (R381). -/
def execHeartbeatMissed (port : Fin 6) (s : State) : Out := .next (if (s.torusPort port.val).up then s.linkDown port else s)

/-! ### Errors (R413, R414) -/

/-- MANAGEMENT_WATCHDOG: the core is retired and the lowest unused spare takes its place, as the spare record then says; it goes on with the commands
of the journal, which stands in no core (R411, R413). -/
def managementWatchdog (core : Fin 6) (s : State) : State :=
  if s.mgmt.cores[core.val]? ≠ some .active then s
  else
    let s := s.onMgmt fun m => { m with cores := m.cores.setIfInBounds core.val .retired }
    (match lowest (· == MgmtCore.spare) s.mgmt.cores.toList with
      | some i => (s.onMgmt fun m => { m with cores := m.cores.setIfInBounds i .active }).noteSwap ⟨5, core.val, i, 0⟩
      | none => s).checkFatal
def execManagementWatchdog (core : Fin 6) (s : State) : Out := .next (managementWatchdog core s)
/-- 24 hours of real time (R3, R414). -/
def dayTime : Nat := 86400000000 * microsecond
/-- The corrections of the last 24 hours, and how many a unit has had in them. -/
def State.eccLately (s : State) : List (Nat × Nat) := s.mgmt.eccAt.filter fun x => decide (s.mgmt.power.time ≤ x.2 + dayTime)
def State.eccRecent (s : State) (u : Nat) : Nat := s.eccLately.countP fun x => x.1 == u
/-- ECC_CORRECTION: counted, and flagged when those of the last 24 hours pass CETHR. -/
def eccCorrection (u : Nat) (s : State) : State :=
  let late := s.eccLately
  let n := s.eccRecent u + 1
  s.onMgmt fun m =>
    { m with ecc := Sparse.set 0 m.ecc u (Sparse.get 0 m.ecc u + 1), eccAt := late ++ [(u, m.power.time)],
             flagged := if m.cethr < n ∧ m.flagged.contains u = false then m.flagged ++ [u] else m.flagged }
def execEccCorrection (u : Nat) (s : State) : Out := .next (eccCorrection u s)
/-- UNCORRECTABLE_ERROR: the contexts that hold the unit are killed and the error is logged, or the line is poisoned (R414). The STATUS of a task killed for its
partition's windows names core 0 (log entry 75). -/
def uncorrectableError (u : ErrUnit) (s : State) : State :=
  match u with
  | .core c =>
    (match s.coreAt c with
      | none => s
      | some k => (if k.busy then s.killContext c else s).onMgmt fun m => { m with errors := m.errors ++ [(k.place.site, s.gcc)] })
  | .saved c t =>
    (match s.disp.saved.find? fun k => k.id == c && k.runsTask t with
      | none => s
      | some k => (s.endTask t 7 c.num id).onMgmt fun m => { m with errors := m.errors ++ [(k.place.site, s.gcc)] })
  | .windows part =>
    let ts := (s.disp.tasks.filter fun t => t.part == part && t.outcome.isNone).map Task.id
    (ts.foldl (fun s t => s.endTask t 7 0 id) s).onMgmt fun m => { m with errors := m.errors ++ [(0x10000 + part, s.gcc)] }
  | .line hpa => s.onMem fun m => { m with poison := if m.poison.contains (lineOf hpa) then m.poison else m.poison ++ [lineOf hpa] }
def execUncorrectableError (u : ErrUnit) (s : State) : Out := .next (uncorrectableError u s)

/-! ### Power and cooling (R423) -/

def State.onPower (f : Power → Power) (s : State) : State := s.onMgmt fun m => { m with power := f m.power }
/-- Limits of a sensor in degrees C: throttle and shutdown. -/
def throttleAt : Sensor → Nat
  | .junction _ => 105 | .hbm _ => 95 | .outlet => 60
def shutdownAt : Sensor → Nat
  | .junction _ => 115 | .hbm _ => 105 | .outlet => 70
/-- POWER_STEP: the 10 ms average, and one step of 100 MHz at most; a throttle holds the clock at 1.2 GHz. -/
def Power.step (watts : Nat) (p : Power) : Power :=
  { p with watts := watts,
           clock := if p.throttled ≠ [] then 1200 else if p.pcap < watts then max 1200 (p.clock - 100)
             else if watts < p.pcap then min 3300 (p.clock + 100) else p.clock }
def execPowerStep (watts : Nat) (s : State) : Out := .next (s.onPower (Power.step watts))
/-- THERMAL_THROTTLE. -/
def thermalThrottle (sensor : Sensor) (temp : Nat) (s : State) : State :=
  if temp < throttleAt sensor ∨ s.mgmt.power.throttled.contains sensor then s
  else s.onPower fun p => { p with throttled := p.throttled ++ [sensor], clock := 1200, events := p.events + 1 }
def execThermalThrottle (sensor : Sensor) (temp : Nat) (s : State) : Out := .next (thermalThrottle sensor temp s)
/-- THROTTLE_RELEASE: 5 degrees below the limit; the clock steps up again from there. -/
def throttleRelease (sensor : Sensor) (temp : Nat) (s : State) : State :=
  if throttleAt sensor < temp + 5 then s else s.onPower fun p => { p with throttled := p.throttled.filter (· != sensor) }
def execThrottleRelease (sensor : Sensor) (temp : Nat) (s : State) : Out := .next (throttleRelease sensor temp s)
/-- COOLANT_FLOW_LOW: below 4.0 L/min PCAP falls by 400 W for each 0.5 L/min lacking. -/
def coolantFlowLow (flow : Nat) (s : State) : State :=
  if 4000 ≤ flow then s else s.onPower fun p => { p with pcap := p.cap - 400 * ((4000 - flow) / 500) }
def execCoolantFlowLow (flow : Nat) (s : State) : Out := .next (coolantFlowLow flow s)

/-- What survives the loss of power: the configuration flash with its spare record, the cause for the next bring-up, and the model's
own fields. -/
def State.powerOff (cause : Nat) (s : State) : State :=
  let r := State.reset
  { r with
    mgmt := { r.mgmt with pins := .off, siteClass := s.mgmt.siteClass, spares := s.mgmt.spares, power := { r.mgmt.power with cause := cause } }
    agenda := s.agenda, ticks := s.ticks }
/-- THERMAL_SHUTDOWN: a sensor at its shutdown limit, or with none, a flow below 2.0 L/min. -/
def thermalShutdown (sensor : Option Sensor) (value : Nat) (s : State) : State :=
  match sensor with
  | some x => if shutdownAt x ≤ value then s.powerOff (1 + (match x with | .junction _ => 0 | .hbm _ => 1 | .outlet => 2)) else s
  | none => if value < 2000 then s.powerOff 4 else s
def execThermalShutdown (sensor : Option Sensor) (value : Nat) (s : State) : Out := .next (thermalShutdown sensor value s)

/-! ### Bring-up (R410, R424) -/

/-- Whether the ROM takes a configuration block (R410). -/
def blockOk (b : ConfigBlock) : Bool := b.format == 1 && b.reservedZero
/-- Whether a hop through a port crosses its ring's dateline (R230). -/
def crossesDateline (node dims : Nat × Nat × Nat) (port : Nat) : Bool :=
  let c := match port / 2 with | 0 => node.1 | 1 => node.2.1 | _ => node.2.2
  let n := match port / 2 with | 0 => dims.1 | 1 => dims.2.1 | _ => dims.2.2
  if port % 2 = 0 then decide (c + 1 = n) else decide (c = 0)
/-- Whether a peer authenticates under R383: the subset of R380, and a chain to an installed anchor, or to the fused one before any. -/
def State.controlOk (s : State) (p : LinkPeer) : Bool :=
  peerSubset p && (if s.mgmt.anchors.isEmpty then p.rootDigest == Config.fusedAnchor else s.mgmt.anchors.contains p.rootDigest)
/-- A session on a Uarov port: the control node's, or that of a function of a sealed partition (R377, R383; log entry 91). -/
def State.openSession (port : Fin 2) (owner : Issuer) (p : LinkPeer) (key : BitVec 256) (s : State) : State :=
  let may : Bool := match owner with
    | .hyp => s.controlOk p
    | .vf n => peerSubset p && s.isWorld n
  if s.mgmt.step < 5 || !may then s
  else s.onMgmt fun m => { m with sessions := (m.sessions.filter fun x => !(x.port == port && x.owner == owner)) ++ [⟨port, owner, key⟩] }
/-- The module after steps 1 to 4: a reset module with the block's values, the measured firmware and the spare record applied (R411). -/
def State.configured (env : BringUpEnv) (s : State) : State :=
  let r := State.reset
  let b := env.block
  let (x, y, z) := b.node
  let used (i : Nat) : List Nat := (s.mgmt.spares.filter fun x => x.kind == 2 && x.spare / 64 == i).map fun x => x.spare % 64
  let ports := Vector.ofFn fun i : Fin 6 => { TorusPort.init with dateline := crossesDateline b.node b.dims i.val, lanesUsed := used i.val }
  let cores := (s.mgmt.spares.filter fun x => x.kind == 5).foldl (fun l x => (l.setIfInBounds x.retire .retired).setIfInBounds x.spare .active) r.mgmt.cores
  { r with
    fab := { r.fab with mctl := Vector.replicate 4 (BitVec.ofNat 32 (max 8 (b.mage % 1024))) }
    xr := { r.xr with ports := ports }
    mgmt := { r.mgmt with
      node := nodeOf x y z, dims := b.dims, mage := b.mage, cethr := b.cethr, rbase := b.rbase, rsize := b.rsize, step := 5
      siteClass := s.mgmt.siteClass, spares := s.mgmt.spares, cores := cores, romDigest := env.romDigest, fwDigest := env.fwDigest
      sessions := [⟨0, .hyp, env.controlKey⟩, ⟨1, .hyp, env.controlKey⟩]
      errors := if s.mgmt.power.cause = 0 then [] else [(s.mgmt.power.cause, 0)]
      power := { r.mgmt.power with cap := b.pcap, pcap := b.pcap } }
    agenda := s.agenda, ticks := s.ticks }
/-- BRING_UP: from reset, steps 1 to 4 or the code of the step that failed; from step 5, steps 6 and 7. -/
def bringUp (env : BringUpEnv) (s : State) : State :=
  let fail (p : PinCode) : State := s.onMgmt fun m => { m with pins := p }
  if s.mgmt.step = 5 then s.onMgmt fun m => { m with step := 7 }
  else if s.mgmt.step ≠ 0 then s
  else if !env.railsOk then fail .power
  else if !env.selfTestOk || !blockOk env.block then fail .config
  else if !env.memoryOk then fail .memory
  else if !s.controlOk env.control then fail .control
  else s.configured env
def execBringUp (env : BringUpEnv) (s : State) : Out := .next (bringUp env s)

/-! ### Replay (R417) -/

/-- Whether a replay has departed from its log: the log has ended, or its next event for some unit has not come within 2^24 cycles. -/
def State.replayLost (s : State) : Bool :=
  let r := s.mgmt.replay
  r.mode == 2 && r.begun && (r.todo.isEmpty || (r.overdue s.gcc).isSome)
/-- REPLAY_DIVERGENCE. -/
def replayDivergence (s : State) : State :=
  if !s.replayLost then s
  else match s.mgmt.replay.overdue s.gcc with
    | some x => s.diverge x.kind x.unit
    | none => s.diverge 0 0
def execReplayDivergence (s : State) : Out := .next (replayDivergence s)

/-! ### Bank-group maps (R362) -/

/-- Whether a list is a permutation of G0 to G3. -/
def isGroupPerm (l : List Nat) : Bool := l.length == 4 && [0, 1, 2, 3].all l.contains
/-- BANK_GROUP_MAP_CHANGE: while no context stands on the core. -/
def bankGroupMapChange (c : CoreId) (perm : List Nat) (s : State) : State :=
  match s.coreAt c with
  | none => s
  | some k => if isGroupPerm perm && k.isFree then s.atCore c fun k => { k with place := { k.place with bankMap := perm } } else s
def execBankGroupMapChange (c : CoreId) (perm : List Nat) (s : State) : Out := .next (bankGroupMapChange c perm s)

end Sys2Proof.Machine
end

