-- ==== Sys2Proof/Machine/Errand.lean ====
section
/-! DEFINITION. The errand instructions, run on the lane `State.lane` (R242 to R247). -/

namespace Sys2Proof.Machine

/-- What an errand instruction comes to. -/
inductive ErrRes
  | go (p : Packet) (s : State)
  /-- A jump to the instruction's own index plus an offset. -/
  | jump (p : Packet) (off : Nat)
  /-- A clone is made. -/
  | fork (p c : Packet)
  /-- The packet parks before the instruction has any effect. -/
  | park (r : ParkReason)
  /-- The visit has ended. -/
  | over (s : State)

/-- The packet stands at another instruction; index 16 parks it with ENDCODE and PC 0 (R242). -/
def State.laneAt (j : LaneJob) (p : Packet) (pc : Nat) (s : State) : State :=
  if pc < 16 then s.setLane s.lane (some { j with pkt := { p with pc := pc } })
  else (s.setLane s.lane (some j)).parkLane .endcode { p with pc := 0 }

/-- An errand instruction of a class that pops `pops` values and pushes `pushes`: permission, then the stack, then its effect (R243). -/
def runErrand (cls pops pushes : Nat) (body : Packet → State → ErrRes) (s : State) : Out :=
  match s.laneJob s.lane with
  | none => .next s
  | some j =>
    let p := j.pkt
    if s.permits p.part cls = false then .next (s.parkLane .forbid p)
    else if p.sp < pops ∨ 4 < p.sp - pops + pushes then .next (s.parkLane .stack p)
    else match body p s with
      | .go q s => .next (s.laneAt j q (p.pc + 1))
      | .jump q off => .next (s.laneAt j q (p.pc + off))
      | .fork q c => .next (s.laneAt { j with clones := j.clones ++ [c] } q (p.pc + 1))
      | .park r => .next (s.parkLane r p)
      | .over s => .next s

/-- The k-th value from the top of the stack; values popped; a value pushed. -/
def Packet.top (p : Packet) (k : Nat) : W32 := p.places[p.sp - 1 - k]?.getD 0
def Packet.pop (p : Packet) (n : Nat) : Packet := { p with sp := p.sp - n }
def Packet.push (p : Packet) (v : W32) : Packet := { p with places := p.places.setIfInBounds p.sp v, sp := p.sp + 1 }

/-- PUSHI, PUSHW, POPW (R245). -/
def execErrandPushi (i : BitVec 11) (s : State) : Out := runErrand 0 0 1 (fun p s => .go (p.push (i.signExtend 32)) s) s
def execErrandPushw (n : Fin 4) (s : State) : Out := runErrand 0 0 1 (fun p s => .go (p.push p.w[n]) s) s
def execErrandPopw (n : Fin 4) (s : State) : Out :=
  runErrand 0 1 0 (fun p s => .go { p.pop 1 with w := p.w.set n (p.top 0) } s) s
/-- DUP, SWAP, DROP (R245). -/
def execErrandDup (s : State) : Out := runErrand 0 1 2 (fun p s => .go (p.push (p.top 0)) s) s
def execErrandSwap (s : State) : Out := runErrand 0 2 2 (fun p s => .go (((p.pop 2).push (p.top 0)).push (p.top 1)) s) s
def execErrandDrop (s : State) : Out := runErrand 0 1 0 (fun p s => .go (p.pop 1) s) s

/-- A two-operand instruction: a lies under b, the top. -/
def errand2 (f : W32 → W32 → W32) (s : State) : Out := runErrand 0 2 1 (fun p s => .go ((p.pop 2).push (f (p.top 1) (p.top 0))) s) s
def bool32 (b : Bool) : W32 := if b then 1 else 0
/-- ADD, SUB, AND, OR, XOR, SHL, SHR, CMPEQ, CMPLT (R245). -/
def execErrandAdd (s : State) : Out := errand2 (fun a b => a + b) s
def execErrandSub (s : State) : Out := errand2 (fun a b => a - b) s
def execErrandAnd (s : State) : Out := errand2 (fun a b => a &&& b) s
def execErrandOr (s : State) : Out := errand2 (fun a b => a ||| b) s
def execErrandXor (s : State) : Out := errand2 (fun a b => a ^^^ b) s
def execErrandShl (s : State) : Out := errand2 (fun a b => a <<< (b.toNat % 32)) s
def execErrandShr (s : State) : Out := errand2 (fun a b => a >>> (b.toNat % 32)) s
def execErrandCmpeq (s : State) : Out := errand2 (fun a b => bool32 (a == b)) s
def execErrandCmplt (s : State) : Out := errand2 (fun a b => bool32 (a.ult b)) s

/-! ### Windows (R244) -/

/-- An operation on a window, in the order that the replay capture unit records and forces; a lane that has to wait stays at its instruction
(R244, R416, R417). -/
def State.inOrder (p : Packet) (k : State → ErrRes) (s : State) : ErrRes :=
  match s.choose 3 p.part s.lane (whoCode p.score p.vfn p.visits) with
  | some s => k s
  | none => .over s
/-- An access to the partition's counters: the word at a window index, the packet's earmark unioned with the window's; a write unions
the packet's earmark into the window's. f gives the new word and what is pushed. -/
def ctrAccess (n pops : Nat) (wr : Bool) (f : W32 → W32 × W32) (p : Packet) (s : State) : ErrRes :=
  let l := s.limits p.part
  if l.xbCount ≤ n then .park .range
  else
    let old : W32 := Sparse.get 0 s.xr.xb (l.xbBase + n)
    let (new, out) := f old
    s.inOrder p fun s =>
      let s := if wr then (s.onXr fun x => { x with xb := Sparse.set 0 x.xb (l.xbBase + n) new }).setPart p.part
          fun q => { q with xbMark := q.xbMark.union p.mark } else s
      .go { (p.pop pops).push out with mark := p.mark.union l.xbMark } s
/-- The same for the scratch words. -/
def scrAccess (n pops : Nat) (wr : W32 → Bool) (f : W32 → W32 × W32) (p : Packet) (s : State) : ErrRes :=
  let l := s.limits p.part
  if l.scrCount ≤ n then .park .range
  else
    let old : W32 := Sparse.get 0 s.xr.scr (l.scrBase + n)
    let (new, out) := f old
    s.inOrder p fun s =>
      let s := if wr old then (s.onXr fun x => { x with scr := Sparse.set 0 x.scr (l.scrBase + n) new }).setPart p.part
          fun q => { q with scrMark := q.scrMark.union p.mark } else s
      .go { (p.pop pops).push out with mark := p.mark.union l.scrMark } s

/-- CTR.RD, CTR.ADD, CTR.TEST (R245). -/
def execCtrRd (n : Fin 2048) (s : State) : Out := runErrand 1 0 1 (ctrAccess n.val 0 false fun x => (x, x)) s
def execCtrAdd (n : Fin 2048) (s : State) : Out :=
  runErrand 2 1 1 (fun p s => ctrAccess n.val 1 true (fun x => (x + p.top 0, x)) p s) s
def execCtrTest (n : Fin 2048) (s : State) : Out :=
  runErrand 1 1 1 (fun p s => ctrAccess n.val 1 false (fun x => (x, bool32 (!x.ult (p.top 0)))) p s) s
/-- The window index of a scratch word, modulo 2^32. -/
def scrIx (v : W32) (o : Fin 2048) : Nat := (v + BitVec.ofNat 32 o.val).toNat
/-- SCR.RD, SCR.ADD, SCR.CAS (R245). -/
def execScrRd (o : Fin 2048) (s : State) : Out :=
  runErrand 3 1 1 (fun p s => scrAccess (scrIx (p.top 0) o) 1 (fun _ => false) (fun x => (x, x)) p s) s
def execScrAdd (o : Fin 2048) (s : State) : Out :=
  runErrand 4 2 1 (fun p s => scrAccess (scrIx (p.top 1) o) 2 (fun _ => true) (fun x => (x + p.top 0, x)) p s) s
def execScrCas (o : Fin 2048) (s : State) : Out :=
  runErrand 5 3 1 (fun p s => scrAccess (scrIx (p.top 2) o) 3 (fun x => x == p.top 1) (fun x => (if x = p.top 1 then p.top 0 else x, x)) p s) s

/-! ### Clones and directions -/

/-- CLONE (R246). -/
def cloneBody (k : BitVec 8) (p : Packet) (_s : State) : ErrRes :=
  if 3 ≤ p.cld then .park .clonedepth
  else
    let b := min k.toNat p.budget
    .fork ({ p with budget := p.budget - b }.push 0) ({ p with budget := b, cld := p.cld + 1, clone := true, pc := p.pc + 1 }.push 1)
def execClone (k : BitVec 8) (s : State) : Out := runErrand 6 0 1 (cloneBody k) s

/-- DIR with its port in the instruction, and with its port popped (R245). -/
def execDir (port : Fin 6) (s : State) : Out := runErrand 7 0 0 (fun p s => .go { p with next := port.val, nv := true } s) s
def dirPopBody (p : Packet) (s : State) : ErrRes :=
  if 5 < (p.top 0).toNat then .park .illegal else .go { p.pop 1 with next := (p.top 0).toNat, nv := true } s
def execDirPop (s : State) : Out := runErrand 7 1 0 dirPopBody s

/-- DIRMIN (R231, R245). -/
def dirminBody (p : Packet) (s : State) : ErrRes :=
  match s.dimOrder p.dst with
  | none => .go (p.push 1) s
  | some port => .go { p.push 0 with next := port, nv := true } s
def execDirmin (s : State) : Out := runErrand 8 0 1 dirminBody s

/-- The minimal up port with the most adaptive credits of the packet's class, the lower on a tie: the credits of the channel that the hop would
take (log entry 110). -/
def bestPort (p : Packet) (s : State) : Option Nat :=
  ((List.range 6).filter fun q => s.portUp q && s.minimalHop p.dst q).foldl (fun best q =>
    let cr (q : Nat) : Nat := (s.torusPort q).credit (TxPkt.channel ⟨p, q, 0, none⟩ false s)
    match best with
    | some b => if cr b < cr q then some q else some b
    | none => some q) none
/-- DIRLOAD (R245). -/
def dirloadBody (p : Packet) (s : State) : ErrRes :=
  if (s.dimOrder p.dst).isNone then .go (p.push 1) s
  else match bestPort p s with
    | none => .park .link
    | some port => .go { p.push 0 with next := port, nv := true } s
def execDirload (s : State) : Out := runErrand 9 0 1 dirloadBody s

/-- BUD, JZ, JNZ (R245). -/
def execBud (s : State) : Out := runErrand 0 0 1 (fun p s => .go (p.push (BitVec.ofNat 32 p.budget)) s) s
def execJz (o : Fin 16) (s : State) : Out :=
  runErrand 0 1 0 (fun p s => if p.top 0 = 0 then .jump (p.pop 1) o.val else .go (p.pop 1) s) s
def execJnz (o : Fin 16) (s : State) : Out :=
  runErrand 0 1 0 (fun p s => if p.top 0 ≠ 0 then .jump (p.pop 1) o.val else .go (p.pop 1) s) s

/-! ### The end of a visit -/

/-- DELIV (R228, R245). -/
def execDeliv (s : State) : Out := runErrand 11 0 0 (fun p s => .over ((s.endVisit.deliver p).getD s)) s
/-- DROPK (R245). -/
def execDropk (s : State) : Out := runErrand 12 0 0 (fun _ s => .over s.endVisit) s
/-- PARK: PC names the next instruction, modulo 16 (R245, R242). -/
def execPark (c : BitVec 8) (s : State) : Out :=
  runErrand 13 0 0 (fun p s => .over (s.parkLane (.user c) { p with pc := (p.pc + 1) % 16 })) s
/-- FWD (R247). -/
def fwdBody (p : Packet) (s : State) : ErrRes :=
  if p.nv = false then .park .illegal
  else
    let cost := if s.minimalHop p.dst p.next then 1 else 2
    if cost = 2 ∧ s.permits p.part 10 = false then .park .forbid
    else if s.portUp p.next = false then .park .link
    else if p.budget < cost then .park .budget
    else .over (s.endVisit.sendNow { p with budget := p.budget - cost, pc := 0 } p.next none)
def execFwd (s : State) : Out := runErrand 0 0 0 fwdBody s

end Sys2Proof.Machine
end

