-- ==== Sys2Proof/Machine/SeqAlu.lean ====
section
/-! DEFINITION. The register operations of S (R127, R128). -/

namespace Sys2Proof.Machine

/-! ### The functions of R127 -/

def sshl (a b : W64) : W64 := a <<< (b.toNat % 64)
def sshr (a b : W64) : W64 := a >>> (b.toNat % 64)
def ssra (a b : W64) : W64 := a.sshiftRight (b.toNat % 64)
/-- Bits [127:64] of the signed product. -/
def smulh (a b : W64) : W64 := BitVec.ofInt 64 (a.toInt * b.toInt / 2 ^ 64)
/-- The signed quotient truncated toward zero, with its two corners. -/
def sdivide (a b : W64) : W64 := if b = 0 then -1 else BitVec.ofInt 64 (a.toInt.tdiv b.toInt)
/-- The remainder, whose sign follows a. -/
def sremain (a b : W64) : W64 := a - b * sdivide a b
def smin (a b : W64) : W64 := if a.toInt ≤ b.toInt then a else b
def smax (a b : W64) : W64 := if a.toInt ≤ b.toInt then b else a
def bool64 (b : Bool) : W64 := if b then 1 else 0
/-- The 64-bit mask of width bits from pos. -/
def fieldMask (pos width : Nat) : W64 := BitVec.ofNat 64 ((2 ^ width - 1) * 2 ^ pos)
/-- Leading zeros, and the number of one bits. -/
def clz64 (a : W64) : Nat := 64 - bitLen a.toNat
def popc64 (a : W64) : Nat := ((List.range 64).filter fun i => a.toNat / 2 ^ i % 2 == 1).length

/-- A two-operand form: XD takes f of the operands and the union of their earmarks (R126, R127). -/
def aluBody (d : XR) (a b : State → Tagged W64) (f : W64 → W64 → W64) (s : State) : State :=
  s.setX d (f (a s).val (b s).val) ((a s).mark.union (b s).mark)
/-- An immediate operand: the sign-extended extension with an empty earmark. -/
def immOp (i : W32) (s : State) : Tagged W64 := ⟨imm64 i, s.gen, Mark.empty⟩
def xOp (r : XR) (s : State) : Tagged W64 := s.x r
/-- The short and the long form. -/
def aluReg (w g : Tok) (d a b : XR) (f : W64 → W64 → W64) (s : State) : Out := runShortH w g (simply (aluBody d (xOp a) (xOp b) f)) s
def aluImm (w g : Tok) (d a : XR) (i : W32) (f : W64 → W64 → W64) (s : State) : Out := runLongH w g (simply (aluBody d (xOp a) (immOp i) f)) s
/-- The one-operand form. -/
def aluOne (w g : Tok) (d a : XR) (f : W64 → W64) (s : State) : Out := runShortH w g (simply fun s => s.setX d (f (s.x a).val) (s.x a).mark) s
/-- SEL (R128). -/
def selBody (d : XR) (a b : State → Tagged W64) (s : State) : State :=
  s.setX d (if (s.x d).val ≠ 0 then (a s).val else (b s).val) (((s.x d).mark.union (a s).mark).union (b s).mark)
/-- A K write by S waits for room in every journal (R17). -/
def kWrite (r : KR) (v : W32) (m : Mark) (s : State) : WordRes :=
  if s.core.journalRoom 1 then .done (s.onCore (Core.writeK r ⟨v, s.gen, m⟩)) else .stall .journal

/-- ADD (R127). -/
def execAdd (w g : Tok) (d a b : XR) (s : State) : Out := aluReg w g d a b (fun a b => a + b) s
def execAddImm (w g : Tok) (d a : XR) (imm : W32) (s : State) : Out := aluImm w g d a imm (fun a b => a + b) s
/-- SUB (R127). -/
def execSub (w g : Tok) (d a b : XR) (s : State) : Out := aluReg w g d a b (fun a b => a - b) s
def execSubImm (w g : Tok) (d a : XR) (imm : W32) (s : State) : Out := aluImm w g d a imm (fun a b => a - b) s
/-- AND (R127). -/
def execAnd (w g : Tok) (d a b : XR) (s : State) : Out := aluReg w g d a b (fun a b => a &&& b) s
def execAndImm (w g : Tok) (d a : XR) (imm : W32) (s : State) : Out := aluImm w g d a imm (fun a b => a &&& b) s
/-- OR (R127). -/
def execOr (w g : Tok) (d a b : XR) (s : State) : Out := aluReg w g d a b (fun a b => a ||| b) s
def execOrImm (w g : Tok) (d a : XR) (imm : W32) (s : State) : Out := aluImm w g d a imm (fun a b => a ||| b) s
/-- XOR (R127). -/
def execXor (w g : Tok) (d a b : XR) (s : State) : Out := aluReg w g d a b (fun a b => a ^^^ b) s
def execXorImm (w g : Tok) (d a : XR) (imm : W32) (s : State) : Out := aluImm w g d a imm (fun a b => a ^^^ b) s
/-- ANDN (R127). -/
def execAndn (w g : Tok) (d a b : XR) (s : State) : Out := aluReg w g d a b (fun a b => a &&& ~~~b) s
def execAndnImm (w g : Tok) (d a : XR) (imm : W32) (s : State) : Out := aluImm w g d a imm (fun a b => a &&& ~~~b) s
/-- SHL (R127). -/
def execShl (w g : Tok) (d a b : XR) (s : State) : Out := aluReg w g d a b (sshl) s
def execShlImm (w g : Tok) (d a : XR) (imm : W32) (s : State) : Out := aluImm w g d a imm (sshl) s
/-- SHR (R127). -/
def execShr (w g : Tok) (d a b : XR) (s : State) : Out := aluReg w g d a b (sshr) s
def execShrImm (w g : Tok) (d a : XR) (imm : W32) (s : State) : Out := aluImm w g d a imm (sshr) s
/-- SRA (R127). -/
def execSra (w g : Tok) (d a b : XR) (s : State) : Out := aluReg w g d a b (ssra) s
def execSraImm (w g : Tok) (d a : XR) (imm : W32) (s : State) : Out := aluImm w g d a imm (ssra) s
/-- MUL (R127). -/
def execMul (w g : Tok) (d a b : XR) (s : State) : Out := aluReg w g d a b (fun a b => a * b) s
def execMulImm (w g : Tok) (d a : XR) (imm : W32) (s : State) : Out := aluImm w g d a imm (fun a b => a * b) s
/-- MULH (R127). -/
def execMulh (w g : Tok) (d a b : XR) (s : State) : Out := aluReg w g d a b (smulh) s
def execMulhImm (w g : Tok) (d a : XR) (imm : W32) (s : State) : Out := aluImm w g d a imm (smulh) s
/-- DIV (R127). -/
def execDiv (w g : Tok) (d a b : XR) (s : State) : Out := aluReg w g d a b (sdivide) s
def execDivImm (w g : Tok) (d a : XR) (imm : W32) (s : State) : Out := aluImm w g d a imm (sdivide) s
/-- REM (R127). -/
def execRem (w g : Tok) (d a b : XR) (s : State) : Out := aluReg w g d a b (sremain) s
def execRemImm (w g : Tok) (d a : XR) (imm : W32) (s : State) : Out := aluImm w g d a imm (sremain) s
/-- MIN (R127). -/
def execMin (w g : Tok) (d a b : XR) (s : State) : Out := aluReg w g d a b (smin) s
def execMinImm (w g : Tok) (d a : XR) (imm : W32) (s : State) : Out := aluImm w g d a imm (smin) s
/-- MAX (R127). -/
def execMax (w g : Tok) (d a b : XR) (s : State) : Out := aluReg w g d a b (smax) s
def execMaxImm (w g : Tok) (d a : XR) (imm : W32) (s : State) : Out := aluImm w g d a imm (smax) s
/-- CMP.eq (R127). -/
def execCmpEq (w g : Tok) (d a b : XR) (s : State) : Out := aluReg w g d a b (fun a b => bool64 (a == b)) s
def execCmpEqImm (w g : Tok) (d a : XR) (imm : W32) (s : State) : Out := aluImm w g d a imm (fun a b => bool64 (a == b)) s
/-- CMP.ne (R127). -/
def execCmpNe (w g : Tok) (d a b : XR) (s : State) : Out := aluReg w g d a b (fun a b => bool64 (a != b)) s
def execCmpNeImm (w g : Tok) (d a : XR) (imm : W32) (s : State) : Out := aluImm w g d a imm (fun a b => bool64 (a != b)) s
/-- CMP.lt (R127). -/
def execCmpLt (w g : Tok) (d a b : XR) (s : State) : Out := aluReg w g d a b (fun a b => bool64 (a.slt b)) s
def execCmpLtImm (w g : Tok) (d a : XR) (imm : W32) (s : State) : Out := aluImm w g d a imm (fun a b => bool64 (a.slt b)) s
/-- CMP.ge (R127). -/
def execCmpGe (w g : Tok) (d a b : XR) (s : State) : Out := aluReg w g d a b (fun a b => bool64 (!a.slt b)) s
def execCmpGeImm (w g : Tok) (d a : XR) (imm : W32) (s : State) : Out := aluImm w g d a imm (fun a b => bool64 (!a.slt b)) s
/-- CMP.ltu (R127). -/
def execCmpLtu (w g : Tok) (d a b : XR) (s : State) : Out := aluReg w g d a b (fun a b => bool64 (a.ult b)) s
def execCmpLtuImm (w g : Tok) (d a : XR) (imm : W32) (s : State) : Out := aluImm w g d a imm (fun a b => bool64 (a.ult b)) s
/-- CMP.geu (R127). -/
def execCmpGeu (w g : Tok) (d a b : XR) (s : State) : Out := aluReg w g d a b (fun a b => bool64 (!a.ult b)) s
def execCmpGeuImm (w g : Tok) (d a : XR) (imm : W32) (s : State) : Out := aluImm w g d a imm (fun a b => bool64 (!a.ult b)) s

/-- SEL (R128). -/
def execSel (w g : Tok) (d a b : XR) (s : State) : Out := runShortH w g (simply (selBody d (xOp a) (xOp b))) s
def execSelImm (w g : Tok) (d a : XR) (imm : W32) (s : State) : Out := runLongH w g (simply (selBody d (xOp a) (immOp imm))) s
/-- LI: short, long, and li.hi, which keeps XD[31:0] and the earmark (R128). -/
def execLi (w g : Tok) (d : XR) (i : BitVec 11) (s : State) : Out := runShortH w g (simply fun s => s.setX d (i.signExtend 64) Mark.empty) s
def execLiLong (w g : Tok) (d : XR) (imm : W32) (s : State) : Out := runLongH w g (simply fun s => s.setX d (imm64 imm) Mark.empty) s
def execLiHi (w g : Tok) (d : XR) (imm : W32) (s : State) : Out :=
  runLongH w g (simply fun s => s.setX d (imm ++ (s.x d).val.extractLsb' 0 32) (s.x d).mark) s
/-- MOVK, from a register and from the extension (R128). -/
def execMovk (w g : Tok) (a : XR) (k : KR) (s : State) : Out :=
  runShort w g (fun s => kWrite k ((s.x a).val.extractLsb' 0 32) (s.x a).mark s) s
def execMovkImm (w g : Tok) (k : KR) (imm : W32) (s : State) : Out := runLong w g (kWrite k imm Mark.empty) s
/-- MOVX: the K register sign-extended (R128). -/
def execMovx (w g : Tok) (d : XR) (k : KR) (s : State) : Out :=
  runShortH w g (simply fun s => s.setX d ((s.k k).val.signExtend 64) (s.k k).mark) s
/-- CLZ and POPC (R128). -/
def execClz (w g : Tok) (d a : XR) (s : State) : Out := aluOne w g d a (fun x => BitVec.ofNat 64 (clz64 x)) s
def execPopc (w g : Tok) (d a : XR) (s : State) : Out := aluOne w g d a (fun x => BitVec.ofNat 64 (popc64 x)) s
/-- BFX (R128). -/
def execBfx (w g : Tok) (d a : XR) (wm1 pos : Fin 64) (s : State) : Out :=
  runLongH w g (simply fun s => s.setX d (((s.x a).val >>> pos.val) &&& fieldMask 0 (wm1.val + 1)) (s.x a).mark) s
/-- BFI (R128). -/
def execBfi (w g : Tok) (d a : XR) (wm1 pos : Fin 64) (s : State) : Out :=
  runLongH w g (simply fun s =>
    let m := fieldMask pos.val (wm1.val + 1)
    s.setX d (((s.x d).val &&& ~~~m) ||| (((s.x a).val <<< pos.val) &&& m)) ((s.x d).mark.union (s.x a).mark)) s

end Sys2Proof.Machine
end

