-- ==== Sys2Proof/Machine/SeqSync.lean ====
section
/-! DEFINITION. Fences, monitored waits and barriers of S (R133 to R138). -/

namespace Sys2Proof.Machine

/-- FENCE.C (R133): at scope core the port's acceptance is enough (R259); a line read early serves no later load of a class in the mask. While it waits
it shows reason 11 (R43; log entry 88). -/
def fenceBody (mask : W16) (scope : Lvl) (s : State) : WordRes :=
  if mask = 0 then .fault s .illegal (sStatus 0 0 0 s) 0 []
  else if scope ≠ .core ∧ s.core.storesIn mask.toNat then .stall .port
  else .done (s.onCore (Core.dropEarly mask.toNat))
def execFenceC (w g : Tok) (mask : W16) (scope : Lvl) (s : State) : Out := runLongH w g (fenceBody mask scope) s

/-! ### WAITM (R134) -/

/-- A monitor armed; the 257th of a slice evicts the oldest; a stop that is asked for already ends the wait (R134). -/
def State.arm (hpa : Nat) (s : State) : State :=
  let why : Option MonEvent := if s.core.walk.softReq || s.core.walk.hardStop then some .wake else none
  s.onGran fun g =>
    let here (m : Monitor) : Bool := m.why.isNone && sliceOf (m.line * 128) == sliceOf hpa
    let l := if Config.monitorCount ≤ (g.monitors.filter here).length then
        (match lowest here g.monitors with
          | some i => g.monitors.modify i fun m => { m with why := some .lost }
          | none => g.monitors)
      else g.monitors
    { g with monitors := l ++ [⟨lineOf hpa, s.core.id, why⟩] }

/-- WAITM finishes with a status. -/
def waitmEnd (d : XR) (st : Nat) (m : Mark) (s : State) : State :=
  (s.onWaits fun w => { w with waitm := none }).setX d (BitVec.ofNat 64 st) m

/-- WAITM, with its timeout in cycles or none. -/
def waitmBody (d a b : XR) (timeout : W32) (s : State) : WordRes :=
  match s.core.waits.waitm with
  | some x => (match x.status with
    | some st => .done (waitmEnd d st x.mark s)
    | none => .stall .monitor)
  | none =>
    s.sAccess .home false true 8 3 0 ((s.x a).val) (fun _ l s => s.homeTurn l (fun s =>
      let (bs, pm) := s.readLoc l 8
      let m := (pm.union (s.x a).mark).union (s.x b).mark
      if BitVec.ofNat 64 (leNat bs) ≠ (s.x b).val then .done (waitmEnd d 1 m (s.readDone l 8))
      else match l with
        | .win .. => .stall .monitor
        | .mem hpa _ =>
          let dl : Option W64 := if timeout = 0 then none else some (s.gcc + timeout.setWidth 64)
          .block (((s.readDone l 8).arm hpa).onWaits fun w => { w with waitm := some ⟨hpa, dl, m, none⟩ }) .monitor))
def execWaitm (w g : Tok) (d a b : XR) (s : State) : Out := runShortH w g (waitmBody d a b 0) s
def execWaitmLong (w g : Tok) (d a b : XR) (timeout : W32) (s : State) : Out := runLongH w g (waitmBody d a b timeout) s

/-! ### Barriers (R135 to R137) -/

/-- A barrier object as its home holds it. -/
structure BarObj where
  arrived : Nat
  gen : W32
  expect : Nat
  state : Nat
  lastrel : Nat
  rest : Nat
deriving DecidableEq, Repr

def State.barObj (s : State) (hpa : Nat) : BarObj :=
  let b := s.seen s.core.place.part hpa 16
  ⟨leAt b 0 4, BitVec.ofNat 32 (leAt b 4 4), leAt b 8 4, leAt b 12 1, leAt b 13 1, leAt b 14 2⟩
def BarObj.bytes (o : BarObj) : List Byte :=
  natLe o.arrived 4 ++ natLe o.gen.toNat 4 ++ natLe o.expect 4 ++ natLe o.state 1 ++ natLe o.lastrel 1 ++ natLe o.rest 2
/-- A barrier word's write of the object. -/
def State.writeBar (hpa frame : Nat) (o : BarObj) (m : Mark) (s : State) : State :=
  s.writeData s.core.place.part s.gen .barrier hpa frame o.bytes m

/-- XD after BAR: the status, and GEN as read at the release. -/
def barX (st : Nat) (g : W32) : W64 := BitVec.ofNat 64 (st + g.toNat * 2 ^ 32)

/-- The count of the DOM register of a level (R35). -/
def State.domCount (l : Lvl) (s : State) : Nat := fld (s.core.regs.dom[(Fin.ofNat 5 l.code)]) 32 32

/-- BAR at its home (R136). -/
def barAt (d : XR) (n hpa frame : Nat) (xm : Mark) (s : State) : WordRes :=
  let o := s.barObj hpa
  let m := xm.union (s.pageMark frame)
  if o.state = 1 then .done (s.setX d (barX 2 o.gen) m)
  else if o.arrived ≠ 0 ∧ o.expect ≠ n then .done (s.setX d (barX 4 o.gen) m)
  else if o.arrived + 1 = n then
    let o' := { o with arrived := 0, expect := 0, gen := o.gen + 1, lastrel := 0 }
    .done (((s.writeBar hpa frame o' xm).releaseBar (fun h => h == hpa) 0).setX d (barX 0 o'.gen) m)
  else
    let s := s.writeBar hpa frame { o with expect := n, arrived := (o.arrived + 1) % 2 ^ 32 } xm
    .block (s.onWaits fun w => { w with bar := some ⟨hpa, frame, o.gen, m, none, false⟩ }) .barrier

/-- A BAR that a stop found waiting reads its object, as an access of S with its turn at the home (R138, R414, R415), where its arrival found
it: XA is not translated again (log entry 76). -/
def barAgain (b : BarState) (d : XR) (s : State) : WordRes :=
  match s.locPoison (.mem b.hpa b.frame) 16 with
  | some h => s.readPoison h
  | none => State.homeTurn (.mem b.hpa b.frame) (fun s =>
      let o := s.barObj b.hpa
      let m := b.mark.union (s.pageMark b.frame)
      let fin (st : Nat) (s : State) : WordRes := .done ((s.onWaits fun w => { w with bar := none }).setX d (barX st o.gen) m)
      let s := s.readDone (.mem b.hpa b.frame) 16
      if o.state = 1 then fin 2 s
      else if o.gen ≠ b.gen then fin (match o.lastrel with | 0 => 0 | 1 => 1 | _ => 3) s
      else .block (s.onWaits fun w => { w with bar := some { b with again := false } }) .barrier) s

/-- BAR: the release of earlier stores, the arrival, the wait (R136). A domain that counts 0 raises ILLEGAL before the release wait and the
checks of XA, with size code 4 (log entry 87); its release waits with reason 11 (R43; log entry 88). -/
def barBody (d a : XR) (l : Lvl) (s : State) : WordRes :=
  match s.core.waits.bar with
  | some b => (match b.status with
    | some (st, g) => .done ((s.onWaits fun w => { w with bar := none }).setX d (barX st g) b.mark)
    | none => if b.again then barAgain b d s else .stall .barrier)
  | none =>
    let n := s.domCount l
    if n = 0 then .fault s .illegal (sStatus 4 0 0 s) 0 []
    else if l ≠ .core ∧ s.core.storesIn 0xFFFF then .stall .port
    else
      let ea := (s.x a).val
      s.sAccess .home true true 16 4 0 ea (fun _ p s => match p with
        | .win .. => .fault s .permission (sStatus 4 0 2 s) ea []
        | .mem hpa frame => s.homeTurn p (barAt d n hpa frame (s.x a).mark))
def execBar (w g : Tok) (d a : XR) (l : Lvl) (s : State) : Out := runShort w g (barBody d a l) s

/-- BARINIT and BARKILL: the object written, its waiters released with a status, and their number in XD (R137). -/
def barSet (d a : XR) (m : State → Mark) (st : Nat) (f : State → BarObj → BarObj) (s : State) : WordRes :=
  let ea := (s.x a).val
  s.sAccess .home true true 16 4 0 ea (fun _ p s => match p with
    | .win .. => .fault s .permission (sStatus 4 0 2 s) ea []
    | .mem hpa frame => s.homeTurn p (fun s =>
      let n := s.barWaiters hpa
      let pm := s.pageMark frame
      .done (((s.writeBar hpa frame (f s (s.barObj hpa)) (m s)).releaseBar (fun h => h == hpa) st).setX d (BitVec.ofNat 64 n)
        (pm.union (m s)))))

def initObj (g : W32) (o : BarObj) : BarObj := { o with arrived := 0, expect := 0, state := 0, lastrel := 1, gen := g }
/-- BARINIT (R137). -/
def execBarinit (w g : Tok) (d a b : XR) (s : State) : Out :=
  runShort w g (barSet d a (fun s => (s.x a).mark.union (s.x b).mark) 1 fun s o => initObj ((s.x b).val.extractLsb' 0 32) o) s
def execBarinitImm (w g : Tok) (d a : XR) (imm : W32) (s : State) : Out :=
  runLong w g (barSet d a (fun s => (s.x a).mark) 1 fun _ o => initObj imm o) s
/-- BARKILL (R137). -/
def execBarkill (w g : Tok) (d a : XR) (s : State) : Out :=
  runShort w g (barSet d a (fun s => (s.x a).mark) 2 fun _ o => { o with state := 1 }) s

end Sys2Proof.Machine
end

