-- ==== Sys2Proof/Machine/Vector.lean ====
section
/-! DEFINITION. The V words (R187 to R197, R199 to R202, R204, R205, R207). -/

namespace Sys2Proof.Machine

/-! ### Floating-point arithmetic (R187) -/

def execVadd (w g : Tok) (d a b : VR) (s : State) : Out := runShort w g (vBin d a (vReg b) fun x y => checked (fadd x y)) s
def execVaddImm (w g : Tok) (d a : VR) (imm : W32) (s : State) : Out := runLong w g (vBin d a (vImm imm) fun x y => checked (fadd x y)) s
def execVsub (w g : Tok) (d a b : VR) (s : State) : Out := runShort w g (vBin d a (vReg b) fun x y => checked (fsub x y)) s
def execVsubImm (w g : Tok) (d a : VR) (imm : W32) (s : State) : Out := runLong w g (vBin d a (vImm imm) fun x y => checked (fsub x y)) s
def execVmul (w g : Tok) (d a b : VR) (s : State) : Out := runShort w g (vBin d a (vReg b) fun x y => checked (fmul x y)) s
def execVmulImm (w g : Tok) (d a : VR) (imm : W32) (s : State) : Out := runLong w g (vBin d a (vImm imm) fun x y => checked (fmul x y)) s
/-- VFMA reads VD as well. -/
def vfmaBody (d a : VR) (b : State → VArg) (s : State) : WordRes :=
  let x := s.vArg a
  let y := b s
  let z := s.vArg d
  .done (s.writeActive d ((x.mark.union y.mark).union z.mark) fun i => checked (ffma (z.lane i) (x.lane i) (y.lane i)))
def execVfma (w g : Tok) (d a b : VR) (s : State) : Out := runShort w g (vfmaBody d a (vReg b)) s
def execVfmaImm (w g : Tok) (d a : VR) (imm : W32) (s : State) : Out := runLong w g (vfmaBody d a (vImm imm)) s
/-- VMIN and VMAX (R76). -/
def vminmax (isMax : Bool) (d a : VR) (b : State → VArg) : State → WordRes :=
  fpOrInt fun int => vBin d a b fun x y => if int then plain (intMinMax isMax x y) else checked (fminmax isMax x y)
def execVmin (w g : Tok) (d a b : VR) (s : State) : Out := runShort w g (vminmax false d a (vReg b)) s
def execVminImm (w g : Tok) (d a : VR) (imm : W32) (s : State) : Out := runLong w g (vminmax false d a (vImm imm)) s
def execVmax (w g : Tok) (d a b : VR) (s : State) : Out := runShort w g (vminmax true d a (vReg b)) s
def execVmaxImm (w g : Tok) (d a : VR) (imm : W32) (s : State) : Out := runLong w g (vminmax true d a (vImm imm)) s

/-! ### One operand (R188, R189) -/

def execVabs (w g : Tok) (d a : VR) (s : State) : Out := runShort w g (vUn d a fun x => plain (x &&& 0x7FFFFFFF)) s
def execVneg (w g : Tok) (d a : VR) (s : State) : Out := runShort w g (vUn d a fun x => plain (x ^^^ 0x80000000)) s
def execVrcp (w g : Tok) (d a : VR) (s : State) : Out := runShort w g (vUn d a fun x => checked (frcp x)) s
def execVrsq (w g : Tok) (d a : VR) (s : State) : Out := runShort w g (vUn d a fun x => checked (frsq x)) s
def execVexp2 (w g : Tok) (d a : VR) (s : State) : Out := runShort w g (vUn d a fun x => checked (fexp2 x)) s
def execVlog2 (w g : Tok) (d a : VR) (s : State) : Out := runShort w g (vUn d a fun x => checked (flog2 x)) s

/-! ### Bits and integers (R190) -/

def execVand (w g : Tok) (d a b : VR) (s : State) : Out := runShort w g (vBin d a (vReg b) fun x y => plain (x &&& y)) s
def execVandImm (w g : Tok) (d a : VR) (imm : W32) (s : State) : Out := runLong w g (vBin d a (vImm imm) fun x y => plain (x &&& y)) s
def execVor (w g : Tok) (d a b : VR) (s : State) : Out := runShort w g (vBin d a (vReg b) fun x y => plain (x ||| y)) s
def execVorImm (w g : Tok) (d a : VR) (imm : W32) (s : State) : Out := runLong w g (vBin d a (vImm imm) fun x y => plain (x ||| y)) s
def execVxor (w g : Tok) (d a b : VR) (s : State) : Out := runShort w g (vBin d a (vReg b) fun x y => plain (x ^^^ y)) s
def execVxorImm (w g : Tok) (d a : VR) (imm : W32) (s : State) : Out := runLong w g (vBin d a (vImm imm) fun x y => plain (x ^^^ y)) s
def execVshl (w g : Tok) (d a b : VR) (s : State) : Out := runShort w g (vBin d a (vReg b) fun x y => plain (x <<< (y.toNat % 32))) s
def execVshlImm (w g : Tok) (d a : VR) (imm : W32) (s : State) : Out := runLong w g (vBin d a (vImm imm) fun x y => plain (x <<< (y.toNat % 32))) s
def execVshr (w g : Tok) (d a b : VR) (s : State) : Out := runShort w g (vBin d a (vReg b) fun x y => plain (x >>> (y.toNat % 32))) s
def execVshrImm (w g : Tok) (d a : VR) (imm : W32) (s : State) : Out := runLong w g (vBin d a (vImm imm) fun x y => plain (x >>> (y.toNat % 32))) s
def execViadd (w g : Tok) (d a b : VR) (s : State) : Out := runShort w g (vBin d a (vReg b) fun x y => plain (x + y)) s
def execViaddImm (w g : Tok) (d a : VR) (imm : W32) (s : State) : Out := runLong w g (vBin d a (vImm imm) fun x y => plain (x + y)) s
def execVimul (w g : Tok) (d a b : VR) (s : State) : Out := runShort w g (vBin d a (vReg b) fun x y => plain (x * y)) s
def execVimulImm (w g : Tok) (d a : VR) (imm : W32) (s : State) : Out := runLong w g (vBin d a (vImm imm) fun x y => plain (x * y)) s

/-! ### Compare and select (R191, R192) -/

def vcmpBody (c : VCond) (d a : VR) (b : State → VArg) : State → WordRes := fpOrInt fun int => vBin d a b (vcmpLane int c)
def execVcmpEq (w g : Tok) (d a b : VR) (s : State) : Out := runShort w g (vcmpBody .eq d a (vReg b)) s
def execVcmpEqImm (w g : Tok) (d a : VR) (imm : W32) (s : State) : Out := runLong w g (vcmpBody .eq d a (vImm imm)) s
def execVcmpNe (w g : Tok) (d a b : VR) (s : State) : Out := runShort w g (vcmpBody .ne d a (vReg b)) s
def execVcmpNeImm (w g : Tok) (d a : VR) (imm : W32) (s : State) : Out := runLong w g (vcmpBody .ne d a (vImm imm)) s
def execVcmpLt (w g : Tok) (d a b : VR) (s : State) : Out := runShort w g (vcmpBody .lt d a (vReg b)) s
def execVcmpLtImm (w g : Tok) (d a : VR) (imm : W32) (s : State) : Out := runLong w g (vcmpBody .lt d a (vImm imm)) s
def execVcmpLe (w g : Tok) (d a b : VR) (s : State) : Out := runShort w g (vcmpBody .le d a (vReg b)) s
def execVcmpLeImm (w g : Tok) (d a : VR) (imm : W32) (s : State) : Out := runLong w g (vcmpBody .le d a (vImm imm)) s
def execVcmpGt (w g : Tok) (d a b : VR) (s : State) : Out := runShort w g (vcmpBody .gt d a (vReg b)) s
def execVcmpGtImm (w g : Tok) (d a : VR) (imm : W32) (s : State) : Out := runLong w g (vcmpBody .gt d a (vImm imm)) s
def execVcmpGe (w g : Tok) (d a b : VR) (s : State) : Out := runShort w g (vcmpBody .ge d a (vReg b)) s
def execVcmpGeImm (w g : Tok) (d a : VR) (imm : W32) (s : State) : Out := runLong w g (vcmpBody .ge d a (vImm imm)) s
def execVcmpUn (w g : Tok) (d a b : VR) (s : State) : Out := runShort w g (vcmpBody .un d a (vReg b)) s
def execVcmpUnImm (w g : Tok) (d a : VR) (imm : W32) (s : State) : Out := runLong w g (vcmpBody .un d a (vImm imm)) s

def vselBody (d a b : VR) (s : State) : WordRes :=
  let x := s.vArg a
  let y := s.vArg b
  let z := s.vArg d
  .done (s.writeActive d ((z.mark.union x.mark).union y.mark) fun i => plain (if z.lane i ≠ 0 then x.lane i else y.lane i))
def execVsel (w g : Tok) (d a b : VR) (s : State) : Out := runShort w g (vselBody d a b) s

/-! ### Lane movement (R193) -/

def vbcastBody (d a : VR) (n : Fin 64) (s : State) : WordRes :=
  let x := s.vArg a
  .done (s.writeActive d x.mark fun _ => plain (x.lane n.val))
def execVbcast (w g : Tok) (d a : VR) (n : Fin 64) (s : State) : Out := runShort w g (vbcastBody d a n) s
def vpermBody (d a b : VR) (s : State) : WordRes :=
  let x := s.vArg a
  let y := s.vArg b
  .done (s.writeActive d (x.mark.union y.mark) fun i => plain (if (y.lane i).toNat < 64 then x.lane (y.lane i).toNat else 0))
def execVperm (w g : Tok) (d a b : VR) (s : State) : Out := runShort w g (vpermBody d a b) s
def vshufBody (d a b : VR) (s : State) : WordRes :=
  let x := s.v a
  let y := s.v b
  let byte (j : Nat) : Byte := Row.byte x.val (Row.byte y.val j).toNat
  .done (s.writeActive d (x.mark.union y.mark) fun i =>
    plain (byte (4 * i + 3) ++ byte (4 * i + 2) ++ byte (4 * i + 1) ++ byte (4 * i)))
def execVshuf (w g : Tok) (d a b : VR) (s : State) : Out := runShort w g (vshufBody d a b) s
def vidxBody (d : VR) (seg : Bool) (s : State) : WordRes :=
  .done (if seg then s.writeActive d s.segMark fun i => plain (BitVec.ofNat 32 (s.segLanes i (s.seg i)).length)
    else s.writeActive d Mark.empty fun i => plain (BitVec.ofNat 32 i))
def execVidx (w g : Tok) (d : VR) (seg : Bool) (s : State) : Out := runShort w g (vidxBody d seg) s

/-! ### Conversions (R194 to R197) -/

/-- One lane converted from a format to a format: an integer code is extended, another is zero-extended. -/
def cvtLane (src tgt : Nat) (rm : RMode) (sat : Bool) (x : W32) : LaneRes :=
  let v := elemFV src x.toNat
  let int (lo hi : Int) : LaneRes :=
    let r := toIntFmt rm lo hi v
    ⟨BitVec.ofInt 32 r.1, r.2.2, r.2.1⟩
  match tgt with
  | 5 => int (-128) 127
  | 6 => int 0 255
  | 7 => int (-2 ^ 31) (2 ^ 31 - 1)
  | n => match fmtOf n with
    | some F =>
      let r := F.convert rm sat v
      ⟨BitVec.ofNat 32 r.1, false, r.2⟩
    | none => plain 0
def vcvtBody (d a : VR) (rm : RMode) (sat : Bool) (tfmt : Fin 10) (s : State) : WordRes :=
  if 8 ≤ tfmt.val then vIll 4 s else vUn d a (cvtLane s.vFmt tfmt.val rm sat) s
def execVcvt (w g : Tok) (d a : VR) (rm : RMode) (sat : Bool) (tfmt : Fin 10) (s : State) : Out :=
  runLong w g (vcvtBody d a rm sat tfmt) s

/-- VFXC: 32 integers times a power of two, each rounded once (R66, R195). -/
def vfxcBody (d a : VR) (rm : RMode) (sat : Bool) (tfmt : Fin 10) (s : State) : WordRes :=
  if tfmt.val ≠ 0 then vIll 4 s
  else
    let x := s.vArg a
    let z := s.vArg d
    let e := sextNat 8 (z.lane 0).toNat
    let rs := (List.range 32).map fun k =>
      let n := (x.lane (2 * k + 1) ++ x.lane (2 * k)).toInt
      if n = 0 then (0, false) else f32.round rm sat (decide (n < 0)) n.natAbs e false
    let row := Row.ofLanes fun i => BitVec.ofNat 32 (rs.getD i (0, false)).1
    .done ((s.setVreg d row (x.mark.union z.mark)).setV false (rs.any fun r => r.2) false)
def execVfxc (w g : Tok) (d a : VR) (rm : RMode) (sat : Bool) (tfmt : Fin 10) (s : State) : Out :=
  runLong w g (vfxcBody d a rm sat tfmt) s

/-- The second register of a pair. -/
def pairOf (r : VR) : VR := Fin.ofNat 32 (r.val + 1)

/-- VPACKQ (R196): the odd pair is looked at before the format (log entry 106). -/
def vpackqBody (d a : VR) (rm : RMode) (tfmt : Fin 10) (s : State) : WordRes :=
  if a.val % 2 = 1 then vIll 2 s
  else if tfmt.val ≠ 8 then vIll 4 s
  else
    let x := s.vArg a
    let y := s.vArg (pairOf a)
    let z := s.vArg d
    let scale := (z.lane 0).toNat % 2 ^ 16
    let (ns, inv, sat) := packRow rm scale ((List.range 64).map x.lane ++ (List.range 64).map y.lane)
    let row := Row.ofBytes fun j =>
      if j < 64 then BitVec.ofNat 8 (ns.getD (2 * j) 0 + 16 * ns.getD (2 * j + 1) 0)
      else if j = 64 then BitVec.ofNat 8 scale else if j = 65 then BitVec.ofNat 8 (scale / 256) else 0
    .done ((s.setVreg d row ((x.mark.union y.mark).union z.mark)).setV inv sat false)
def execVpackq (w g : Tok) (d a : VR) (rm : RMode) (_sat : Bool) (tfmt : Fin 10) (s : State) : Out :=
  runLong w g (vpackqBody d a rm tfmt) s

/-- VUNPQ (R197): a zero times a negative scale is −0 (log entry 107). -/
def vunpqBody (d a : VR) (s : State) : WordRes :=
  if d.val % 2 = 1 then vIll 2 s
  else
    let x := s.v a
    let fp (v : FV) : W32 := BitVec.ofNat 32 (f32.convert .rne false v).1
    let scale := fp (fp16.decode ((Row.byte x.val 64).toNat + 256 * (Row.byte x.val 65).toNat))
    let rs := (q4xList (Row.byte x.val)).map fun q => if q.2 then ((0 : W32), true, true) else
      let r := fmul (fp q.1) scale
      (r.1, r.2, false)
    let row (o : Nat) : Row := Row.ofLanes fun i => (rs.getD (o + i) (0, false, false)).1
    let s := (s.setVreg d (row 0) x.mark).setVreg (pairOf d) (row 64) x.mark
    .done (s.setV (rs.any fun r => r.2.1) false (rs.any fun r => r.2.2))
def execVunpq (w g : Tok) (d a : VR) (s : State) : Out := runShort w g (vunpqBody d a) s

/-! ### Segments (R199 to R202) -/

/-- The distinct ids of the active lanes. -/
def State.segIds (s : State) : List Nat := ((List.range s.vActive).map s.seg).eraseDups

/-- VRED (R199). -/
def vredBody (d a : VR) (bc : Bool) (o : RedOp) : State → WordRes := fpOrInt fun int s =>
  let x := s.vArg a
  let m := x.mark.union s.segMark
  let red (id : Nat) : W32 × Bool := reduce int o ((s.segLanes s.vActive id).map x.lane)
  if bc then .done (s.writeActive d m fun i => checked (red (s.seg i)))
  else
    let row := Row.ofLanes fun j => (red j).1
    .done ((s.setVreg d row m).setV (s.segIds.any fun id => (red id).2) false false)
def execVred (w g : Tok) (d a : VR) (bc : Bool) (o : RedOp) (s : State) : Out := runShort w g (vredBody d a bc o) s

/-- VSCAN (R200). -/
def vscanBody (d a : VR) (exc : Bool) (o : RedOp) : State → WordRes := fpOrInt fun int s =>
  let x := s.vArg a
  .done (s.writeActive d (x.mark.union s.segMark) fun i =>
    checked (reduce int o ((s.segLanes (if exc then i else i + 1) (s.seg i)).map x.lane)))
def execVscan (w g : Tok) (d a : VR) (exc : Bool) (o : RedOp) (s : State) : Out := runShort w g (vscanBody d a exc o) s

/-- A word that computes a whole segment: each active lane takes its place in its segment's results. -/
def perSegment (d a : VR) (f : List W32 → List LaneRes) (s : State) : WordRes :=
  let x := s.vArg a
  let rs := s.segIds.map fun id => (id, f ((s.segLanes s.vActive id).map x.lane))
  .done (s.writeActive d (x.mark.union s.segMark) fun i =>
    let l := ((rs.find? fun r => r.1 == s.seg i).map Prod.snd).getD []
    l.getD (s.segLanes i (s.seg i)).length (plain 0))
def execVnorm (w g : Tok) (d a : VR) (e : Fin 16) (k : NormKind) (s : State) : Out :=
  runShort w g (fpOnly (perSegment d a (vnormSeg e.val k))) s
def execVsmax (w g : Tok) (d a : VR) (s : State) : Out := runShort w g (fpOnly (perSegment d a vsmaxSeg)) s

/-! ### Queues and accumulator rows (R204, R205) -/

/-- VPOP: the head entry, and a credit for the peer of a bound queue (R23). -/
def vpopBody (d : VR) (q : Fin 4) (s : State) : WordRes :=
  match s.core.q.lq[q] with
  | [] => .stall .dataEmpty
  | e :: rest =>
    let e := Tagged.live 0 s.gen e
    let s := (s.onCore (Core.setLq q rest)).setVreg d e.val e.mark
    match s.core.q.boundFrom[q] with
    | none => .done s
    | some b =>
      let peer : CoreId := ⟨s.core.place.part, b.peer⟩
      .done ((s.returnCredits peer (s.core.place.task.getD 0) b.sq 1).meshToCore s.core.id peer .response false)
def execVpop (w g : Tok) (d : VR) (q : Fin 4) (s : State) : Out := runShort w g (vpopBody d q) s

/-- VPUSH: into the queue, or toward the peer it is bound to (R23, R180). -/
def vpushBody (a : VR) (q : Fin 2) (s : State) : WordRes :=
  let d := s.v a
  let e : QEntry := ⟨d.val, s.gen, d.mark⟩
  if s.core.q.binds.any fun b => b.2 == q then .stall .credit
  else match s.core.q.bound[q] with
    | some b =>
      if b.credits = 0 then .stall .credit
      else
        let s := s.onQ fun x => { x with bound := x.bound.set q (some { b with credits := b.credits - 1 }) }
        .done ((s.onGran fun g => { g with boundAir := g.boundAir ++ [⟨s.core.id, q, s.core.place.task.getD 0, b.peer, b.plq, e⟩] }).meshToCore
          s.core.id ⟨s.core.place.part, b.peer⟩ .entry false)
    | none =>
      if Config.sqDepth ≤ (s.core.q.sq[q]).length then .stall .dataFull
      else .done (s.onCore (Core.setSq q (s.core.q.sq[q] ++ [e])))
def execVpush (w g : Tok) (a : VR) (q : Fin 2) (s : State) : Out := runShort w g (vpushBody a q) s

/-- The half row a word names, and the earmark of the K register it adds. -/
def accRow (r : Fin 128) (hi : Bool) (k : Option KR) (s : State) : Nat × Mark :=
  let h := if hi then 1 else 0
  match k with
  | none => (2 * r.val + h, Mark.empty)
  | some k => (2 * ((r.val + (s.k k).val.toNat) % 128) + h, (s.k k).mark)
def vaccrdBody (d : VR) (c : AccR) (r : Fin 128) (hi : Bool) (k : Option KR) (s : State) : WordRes :=
  let (n, km) := accRow r hi k s
  let t := (s.core.mat.acc[c]).live s.gen
  .done (s.setVreg d (Sparse.get 0 t.rows n) (t.mark.union km))
def execVaccrd (w g : Tok) (d : VR) (c : AccR) (r : Fin 128) (hi : Bool) (s : State) : Out :=
  runShort w g (vaccrdBody d c r hi none) s
def execVaccrdK (w g : Tok) (d : VR) (c : AccR) (r : Fin 128) (hi : Bool) (ken : Bool) (k : KR) (s : State) : Out :=
  runLong w g (if ken then needK (vaccrdBody d c r hi (some k)) else vaccrdBody d c r hi none) s
def vaccwrBody (a : VR) (c : AccR) (r : Fin 128) (hi : Bool) (k : Option KR) (s : State) : WordRes :=
  let (n, km) := accRow r hi k s
  let d := s.v a
  .done (s.onMat fun x =>
    let t := (x.acc[c]).live s.gen
    { x with acc := x.acc.set c { t with rows := Sparse.set 0 t.rows n d.val, mark := (t.mark.union d.mark).union km } })
def execVaccwr (w g : Tok) (a : VR) (c : AccR) (r : Fin 128) (hi : Bool) (s : State) : Out :=
  runShort w g (vaccwrBody a c r hi none) s
def execVaccwrK (w g : Tok) (a : VR) (c : AccR) (r : Fin 128) (hi : Bool) (ken : Bool) (k : KR) (s : State) : Out :=
  runLong w g (if ken then needK (vaccwrBody a c r hi (some k)) else vaccwrBody a c r hi none) s

/-! ### The shape (R207) -/

def vsetshBody (v : W32) (s : State) : WordRes :=
  if 8 ≤ fld v 0 4 ∨ 2 ≤ fld v 11 2 ∨ fld v 10 1 = 1 ∨ fld v 18 14 ≠ 0 then vIll 5 s
  else .done (s.onRegs fun r => { r with vsh := v })
def execVsetsh (w g : Tok) (v : W32) (s : State) : Out := runLong w g (vsetshBody v) s

end Sys2Proof.Machine
end

