-- ==== Sys2Proof/Machine/Dispatch.lean ====
section
/-! DEFINITION. The meaning of every instruction, arm by arm. -/

namespace Sys2Proof.Machine

/-- What a step of the device does. -/
def exec (i : Instr) (s : State) : Host.Outcome State Fault Refusal :=
  match i with
  | .loop k e => Sys2Proof.Machine.execLoop k e s
  | .loopCount e count => Sys2Proof.Machine.execLoopCount e count s
  | .brk k c l => Sys2Proof.Machine.execBrk k c l s
  | .jmp o => Sys2Proof.Machine.execJmp o s
  | .brK k c o => Sys2Proof.Machine.execBrK k c o s
  | .call o => Sys2Proof.Machine.execCall o s
  | .ppoint t g => Sys2Proof.Machine.execPpoint t g s
  | .add w g d a b => Sys2Proof.Machine.execAdd w g d a b s
  | .addImm w g d a imm => Sys2Proof.Machine.execAddImm w g d a imm s
  | .sub w g d a b => Sys2Proof.Machine.execSub w g d a b s
  | .subImm w g d a imm => Sys2Proof.Machine.execSubImm w g d a imm s
  | .and w g d a b => Sys2Proof.Machine.execAnd w g d a b s
  | .andImm w g d a imm => Sys2Proof.Machine.execAndImm w g d a imm s
  | .or w g d a b => Sys2Proof.Machine.execOr w g d a b s
  | .orImm w g d a imm => Sys2Proof.Machine.execOrImm w g d a imm s
  | .xor w g d a b => Sys2Proof.Machine.execXor w g d a b s
  | .xorImm w g d a imm => Sys2Proof.Machine.execXorImm w g d a imm s
  | .andn w g d a b => Sys2Proof.Machine.execAndn w g d a b s
  | .andnImm w g d a imm => Sys2Proof.Machine.execAndnImm w g d a imm s
  | .shl w g d a b => Sys2Proof.Machine.execShl w g d a b s
  | .shlImm w g d a imm => Sys2Proof.Machine.execShlImm w g d a imm s
  | .shr w g d a b => Sys2Proof.Machine.execShr w g d a b s
  | .shrImm w g d a imm => Sys2Proof.Machine.execShrImm w g d a imm s
  | .sra w g d a b => Sys2Proof.Machine.execSra w g d a b s
  | .sraImm w g d a imm => Sys2Proof.Machine.execSraImm w g d a imm s
  | .mul w g d a b => Sys2Proof.Machine.execMul w g d a b s
  | .mulImm w g d a imm => Sys2Proof.Machine.execMulImm w g d a imm s
  | .mulh w g d a b => Sys2Proof.Machine.execMulh w g d a b s
  | .mulhImm w g d a imm => Sys2Proof.Machine.execMulhImm w g d a imm s
  | .div w g d a b => Sys2Proof.Machine.execDiv w g d a b s
  | .divImm w g d a imm => Sys2Proof.Machine.execDivImm w g d a imm s
  | .rem w g d a b => Sys2Proof.Machine.execRem w g d a b s
  | .remImm w g d a imm => Sys2Proof.Machine.execRemImm w g d a imm s
  | .min w g d a b => Sys2Proof.Machine.execMin w g d a b s
  | .minImm w g d a imm => Sys2Proof.Machine.execMinImm w g d a imm s
  | .max w g d a b => Sys2Proof.Machine.execMax w g d a b s
  | .maxImm w g d a imm => Sys2Proof.Machine.execMaxImm w g d a imm s
  | .sel w g d a b => Sys2Proof.Machine.execSel w g d a b s
  | .selImm w g d a imm => Sys2Proof.Machine.execSelImm w g d a imm s
  | .li w g d ix => Sys2Proof.Machine.execLi w g d ix s
  | .liLong w g d imm => Sys2Proof.Machine.execLiLong w g d imm s
  | .liHi w g d imm => Sys2Proof.Machine.execLiHi w g d imm s
  | .movk w g a k => Sys2Proof.Machine.execMovk w g a k s
  | .movkImm w g k imm => Sys2Proof.Machine.execMovkImm w g k imm s
  | .movx w g d k => Sys2Proof.Machine.execMovx w g d k s
  | .clz w g d a => Sys2Proof.Machine.execClz w g d a s
  | .popc w g d a => Sys2Proof.Machine.execPopc w g d a s
  | .bfx w g d a wm1 pos => Sys2Proof.Machine.execBfx w g d a wm1 pos s
  | .bfi w g d a wm1 pos => Sys2Proof.Machine.execBfi w g d a wm1 pos s
  | .cmpEq w g d a b => Sys2Proof.Machine.execCmpEq w g d a b s
  | .cmpEqImm w g d a imm => Sys2Proof.Machine.execCmpEqImm w g d a imm s
  | .cmpNe w g d a b => Sys2Proof.Machine.execCmpNe w g d a b s
  | .cmpNeImm w g d a imm => Sys2Proof.Machine.execCmpNeImm w g d a imm s
  | .cmpLt w g d a b => Sys2Proof.Machine.execCmpLt w g d a b s
  | .cmpLtImm w g d a imm => Sys2Proof.Machine.execCmpLtImm w g d a imm s
  | .cmpGe w g d a b => Sys2Proof.Machine.execCmpGe w g d a b s
  | .cmpGeImm w g d a imm => Sys2Proof.Machine.execCmpGeImm w g d a imm s
  | .cmpLtu w g d a b => Sys2Proof.Machine.execCmpLtu w g d a b s
  | .cmpLtuImm w g d a imm => Sys2Proof.Machine.execCmpLtuImm w g d a imm s
  | .cmpGeu w g d a b => Sys2Proof.Machine.execCmpGeu w g d a b s
  | .cmpGeuImm w g d a imm => Sys2Proof.Machine.execCmpGeuImm w g d a imm s
  | .ld w g d a c z => Sys2Proof.Machine.execLd w g d a c z s
  | .ldOffset w g d a c z off => Sys2Proof.Machine.execLdOffset w g d a c z off s
  | .st w g d a c z => Sys2Proof.Machine.execSt w g d a c z s
  | .stOffset w g d a c z off => Sys2Proof.Machine.execStOffset w g d a c z off s
  | .amoAdd w g d a b w32 => Sys2Proof.Machine.execAmoAdd w g d a b w32 s
  | .amoAddClass w g d a b w32 c => Sys2Proof.Machine.execAmoAddClass w g d a b w32 c s
  | .amoFadd w g d a b => Sys2Proof.Machine.execAmoFadd w g d a b s
  | .amoFaddClass w g d a b c => Sys2Proof.Machine.execAmoFaddClass w g d a b c s
  | .amoMin w g d a b w32 => Sys2Proof.Machine.execAmoMin w g d a b w32 s
  | .amoMinClass w g d a b w32 c => Sys2Proof.Machine.execAmoMinClass w g d a b w32 c s
  | .amoMax w g d a b w32 => Sys2Proof.Machine.execAmoMax w g d a b w32 s
  | .amoMaxClass w g d a b w32 c => Sys2Proof.Machine.execAmoMaxClass w g d a b w32 c s
  | .amoFmin w g d a b => Sys2Proof.Machine.execAmoFmin w g d a b s
  | .amoFminClass w g d a b c => Sys2Proof.Machine.execAmoFminClass w g d a b c s
  | .amoFmax w g d a b => Sys2Proof.Machine.execAmoFmax w g d a b s
  | .amoFmaxClass w g d a b c => Sys2Proof.Machine.execAmoFmaxClass w g d a b c s
  | .amoAnd w g d a b w32 => Sys2Proof.Machine.execAmoAnd w g d a b w32 s
  | .amoAndClass w g d a b w32 c => Sys2Proof.Machine.execAmoAndClass w g d a b w32 c s
  | .amoOr w g d a b w32 => Sys2Proof.Machine.execAmoOr w g d a b w32 s
  | .amoOrClass w g d a b w32 c => Sys2Proof.Machine.execAmoOrClass w g d a b w32 c s
  | .amoXor w g d a b w32 => Sys2Proof.Machine.execAmoXor w g d a b w32 s
  | .amoXorClass w g d a b w32 c => Sys2Proof.Machine.execAmoXorClass w g d a b w32 c s
  | .amoSwap w g d a b w32 => Sys2Proof.Machine.execAmoSwap w g d a b w32 s
  | .amoSwapClass w g d a b w32 c => Sys2Proof.Machine.execAmoSwapClass w g d a b w32 c s
  | .amoCas w g d a b w32 => Sys2Proof.Machine.execAmoCas w g d a b w32 s
  | .amoCasClass w g d a b w32 c => Sys2Proof.Machine.execAmoCasClass w g d a b w32 c s
  | .fenceC w g mask scope => Sys2Proof.Machine.execFenceC w g mask scope s
  | .waitm w g d a b => Sys2Proof.Machine.execWaitm w g d a b s
  | .waitmLong w g d a b timeout => Sys2Proof.Machine.execWaitmLong w g d a b timeout s
  | .bar w g d a l => Sys2Proof.Machine.execBar w g d a l s
  | .barinit w g d a b => Sys2Proof.Machine.execBarinit w g d a b s
  | .barinitImm w g d a imm => Sys2Proof.Machine.execBarinitImm w g d a imm s
  | .barkill w g d a => Sys2Proof.Machine.execBarkill w g d a s
  | .curNext w g d => Sys2Proof.Machine.execCurNext w g d s
  | .tlaunch w g d a => Sys2Proof.Machine.execTlaunch w g d a s
  | .fmtw w g a => Sys2Proof.Machine.execFmtw w g a s
  | .fmtwImm w g fw => Sys2Proof.Machine.execFmtwImm w g fw s
  | .rmode w g r => Sys2Proof.Machine.execRmode w g r s
  | .trap w g c => Sys2Proof.Machine.execTrap w g c s
  | .eret w g => Sys2Proof.Machine.execEret w g s
  | .mfsr w g d n => Sys2Proof.Machine.execMfsr w g d n s
  | .mtsr w g a n => Sys2Proof.Machine.execMtsr w g a n s
  | .ttbWrite w g a => Sys2Proof.Machine.execTtbWrite w g a s
  | .nflWrite w g a => Sys2Proof.Machine.execNflWrite w g a s
  | .hvecWrite w g a => Sys2Proof.Machine.execHvecWrite w g a s
  | .bkptWrite w g a => Sys2Proof.Machine.execBkptWrite w g a s
  | .slipWrite c v => Sys2Proof.Machine.execSlipWrite c v s
  | .precfgWrite c v => Sys2Proof.Machine.execPrecfgWrite c v s
  | .mctlWrite die v => Sys2Proof.Machine.execMctlWrite die v s
  | .tld w g kc t c seg tid dst => Sys2Proof.Machine.execTld w g kc t c seg tid dst s
  | .tst w g kc t c seg tid src => Sys2Proof.Machine.execTst w g kc t c seg tid src s
  | .tcpy w g kc t c seg tid tid2 => Sys2Proof.Machine.execTcpy w g kc t c seg tid tid2 s
  | .tcpyo w g kc t c tid tid2 => Sys2Proof.Machine.execTcpyo w g kc t c tid tid2 s
  | .gath w g ka t c z irow dst => Sys2Proof.Machine.execGath w g ka t c z irow dst s
  | .scat w g ka t c z irow src => Sys2Proof.Machine.execScat w g ka t c z irow src s
  | .spld w g q r => Sys2Proof.Machine.execSpld w g q r s
  | .spldK w g q r ken k => Sys2Proof.Machine.execSpldK w g q r ken k s
  | .spst w g q r => Sys2Proof.Machine.execSpst w g q r s
  | .spstK w g q r ken k => Sys2Proof.Machine.execSpstK w g q r ken k s
  | .tref w g mb hi lo => Sys2Proof.Machine.execTref w g mb hi lo s
  | .aacc w g ka t c q => Sys2Proof.Machine.execAacc w g ka t c q s
  | .aaccOffset w g ka t c q off => Sys2Proof.Machine.execAaccOffset w g ka t c q off s
  | .flushc w g => Sys2Proof.Machine.execFlushc w g s
  | .sumst w g ka t c q => Sys2Proof.Machine.execSumst w g ka t c q s
  | .sumstOffset w g ka t c q off => Sys2Proof.Machine.execSumstOffset w g ka t c q off s
  | .waitany w g half mask => Sys2Proof.Machine.execWaitany w g half mask s
  | .waitanyK w g km => Sys2Proof.Machine.execWaitanyK w g km s
  | .waitall w g half mask => Sys2Proof.Machine.execWaitall w g half mask s
  | .waitallK w g km => Sys2Proof.Machine.execWaitallK w g km s
  | .ffr w g half q mask => Sys2Proof.Machine.execFfr w g half q mask s
  | .ffrK w g km q => Sys2Proof.Machine.execFfrK w g km q s
  | .mcast w g ka t c q => Sys2Proof.Machine.execMcast w g ka t c q s
  | .mcastOffset w g ka t c q off => Sys2Proof.Machine.execMcastOffset w g ka t c q off s
  | .pref w g ka t c z => Sys2Proof.Machine.execPref w g ka t c z s
  | .prefOffset w g ka t c z off => Sys2Proof.Machine.execPrefOffset w g ka t c z off s
  | .shpub w g tid c => Sys2Proof.Machine.execShpub w g tid c s
  | .shinv w g tid => Sys2Proof.Machine.execShinv w g tid s
  | .bind w g q plq peer => Sys2Proof.Machine.execBind w g q plq peer s
  | .bindOff w g q => Sys2Proof.Machine.execBindOff w g q s
  | .vadd w g d a b => Sys2Proof.Machine.execVadd w g d a b s
  | .vaddImm w g d a imm => Sys2Proof.Machine.execVaddImm w g d a imm s
  | .vsub w g d a b => Sys2Proof.Machine.execVsub w g d a b s
  | .vsubImm w g d a imm => Sys2Proof.Machine.execVsubImm w g d a imm s
  | .vmul w g d a b => Sys2Proof.Machine.execVmul w g d a b s
  | .vmulImm w g d a imm => Sys2Proof.Machine.execVmulImm w g d a imm s
  | .vfma w g d a b => Sys2Proof.Machine.execVfma w g d a b s
  | .vfmaImm w g d a imm => Sys2Proof.Machine.execVfmaImm w g d a imm s
  | .vmin w g d a b => Sys2Proof.Machine.execVmin w g d a b s
  | .vminImm w g d a imm => Sys2Proof.Machine.execVminImm w g d a imm s
  | .vmax w g d a b => Sys2Proof.Machine.execVmax w g d a b s
  | .vmaxImm w g d a imm => Sys2Proof.Machine.execVmaxImm w g d a imm s
  | .vabs w g d a => Sys2Proof.Machine.execVabs w g d a s
  | .vneg w g d a => Sys2Proof.Machine.execVneg w g d a s
  | .vrcp w g d a => Sys2Proof.Machine.execVrcp w g d a s
  | .vrsq w g d a => Sys2Proof.Machine.execVrsq w g d a s
  | .vexp2 w g d a => Sys2Proof.Machine.execVexp2 w g d a s
  | .vlog2 w g d a => Sys2Proof.Machine.execVlog2 w g d a s
  | .vcvt w g d a rm sat tfmt => Sys2Proof.Machine.execVcvt w g d a rm sat tfmt s
  | .vpackq w g d a rm sat tfmt => Sys2Proof.Machine.execVpackq w g d a rm sat tfmt s
  | .vfxc w g d a rm sat tfmt => Sys2Proof.Machine.execVfxc w g d a rm sat tfmt s
  | .vunpq w g d a => Sys2Proof.Machine.execVunpq w g d a s
  | .vsel w g d a b => Sys2Proof.Machine.execVsel w g d a b s
  | .vand w g d a b => Sys2Proof.Machine.execVand w g d a b s
  | .vandImm w g d a imm => Sys2Proof.Machine.execVandImm w g d a imm s
  | .vor w g d a b => Sys2Proof.Machine.execVor w g d a b s
  | .vorImm w g d a imm => Sys2Proof.Machine.execVorImm w g d a imm s
  | .vxor w g d a b => Sys2Proof.Machine.execVxor w g d a b s
  | .vxorImm w g d a imm => Sys2Proof.Machine.execVxorImm w g d a imm s
  | .vshl w g d a b => Sys2Proof.Machine.execVshl w g d a b s
  | .vshlImm w g d a imm => Sys2Proof.Machine.execVshlImm w g d a imm s
  | .vshr w g d a b => Sys2Proof.Machine.execVshr w g d a b s
  | .vshrImm w g d a imm => Sys2Proof.Machine.execVshrImm w g d a imm s
  | .viadd w g d a b => Sys2Proof.Machine.execViadd w g d a b s
  | .viaddImm w g d a imm => Sys2Proof.Machine.execViaddImm w g d a imm s
  | .vimul w g d a b => Sys2Proof.Machine.execVimul w g d a b s
  | .vimulImm w g d a imm => Sys2Proof.Machine.execVimulImm w g d a imm s
  | .vbcast w g d a n => Sys2Proof.Machine.execVbcast w g d a n s
  | .vperm w g d a b => Sys2Proof.Machine.execVperm w g d a b s
  | .vshuf w g d a b => Sys2Proof.Machine.execVshuf w g d a b s
  | .vred w g d a bc o => Sys2Proof.Machine.execVred w g d a bc o s
  | .vscan w g d a exc o => Sys2Proof.Machine.execVscan w g d a exc o s
  | .vnorm w g d a e k => Sys2Proof.Machine.execVnorm w g d a e k s
  | .vsmax w g d a => Sys2Proof.Machine.execVsmax w g d a s
  | .vcmpEq w g d a b => Sys2Proof.Machine.execVcmpEq w g d a b s
  | .vcmpEqImm w g d a imm => Sys2Proof.Machine.execVcmpEqImm w g d a imm s
  | .vcmpNe w g d a b => Sys2Proof.Machine.execVcmpNe w g d a b s
  | .vcmpNeImm w g d a imm => Sys2Proof.Machine.execVcmpNeImm w g d a imm s
  | .vcmpLt w g d a b => Sys2Proof.Machine.execVcmpLt w g d a b s
  | .vcmpLtImm w g d a imm => Sys2Proof.Machine.execVcmpLtImm w g d a imm s
  | .vcmpLe w g d a b => Sys2Proof.Machine.execVcmpLe w g d a b s
  | .vcmpLeImm w g d a imm => Sys2Proof.Machine.execVcmpLeImm w g d a imm s
  | .vcmpGt w g d a b => Sys2Proof.Machine.execVcmpGt w g d a b s
  | .vcmpGtImm w g d a imm => Sys2Proof.Machine.execVcmpGtImm w g d a imm s
  | .vcmpGe w g d a b => Sys2Proof.Machine.execVcmpGe w g d a b s
  | .vcmpGeImm w g d a imm => Sys2Proof.Machine.execVcmpGeImm w g d a imm s
  | .vcmpUn w g d a b => Sys2Proof.Machine.execVcmpUn w g d a b s
  | .vcmpUnImm w g d a imm => Sys2Proof.Machine.execVcmpUnImm w g d a imm s
  | .vpop w g d q => Sys2Proof.Machine.execVpop w g d q s
  | .vpush w g a q => Sys2Proof.Machine.execVpush w g a q s
  | .vaccrd w g d c r hi => Sys2Proof.Machine.execVaccrd w g d c r hi s
  | .vaccrdK w g d c r hi ken k => Sys2Proof.Machine.execVaccrdK w g d c r hi ken k s
  | .vaccwr w g a c r hi => Sys2Proof.Machine.execVaccwr w g a c r hi s
  | .vaccwrK w g a c r hi ken k => Sys2Proof.Machine.execVaccwrK w g a c r hi ken k s
  | .vsetsh w g v => Sys2Proof.Machine.execVsetsh w g v s
  | .vidx w g d seg => Sys2Proof.Machine.execVidx w g d seg s
  | .mma w g => Sys2Proof.Machine.execMma w g s
  | .mmaStamp w g t => Sys2Proof.Machine.execMmaStamp w g t s
  | .mmat w g => Sys2Proof.Machine.execMmat w g s
  | .mmatStamp w g t => Sys2Proof.Machine.execMmatStamp w g t s
  | .mzero w g c => Sys2Proof.Machine.execMzero w g c s
  | .mload w g c r => Sys2Proof.Machine.execMload w g c r s
  | .msave w g c r => Sys2Proof.Machine.execMsave w g c r s
  | .mprog w g c => Sys2Proof.Machine.execMprog w g c s
  | .pbuild w g ka slot => Sys2Proof.Machine.execPbuild w g ka slot s
  | .psend w g bc ben slot => Sys2Proof.Machine.execPsend w g bc ben slot s
  | .pcountWait w g ka bc => Sys2Proof.Machine.execPcountWait w g ka bc s
  | .pcountWaitImm w g bc t => Sys2Proof.Machine.execPcountWaitImm w g bc t s
  | .pcountRd w g bc clr => Sys2Proof.Machine.execPcountRd w g bc clr s
  | .precv w g ka => Sys2Proof.Machine.execPrecv w g ka s
  | .pcoll w g ka => Sys2Proof.Machine.execPcoll w g ka s
  | .pparkRd w g ka slot => Sys2Proof.Machine.execPparkRd w g ka slot s
  | .presume w g slot => Sys2Proof.Machine.execPresume w g slot s
  | .presumeOptions w g ka slot addb npc newpc loadw => Sys2Proof.Machine.execPresumeOptions w g ka slot addb npc newpc loadw s
  | .pdrop w g slot => Sys2Proof.Machine.execPdrop w g slot s
  | .errandPushi ix => Sys2Proof.Machine.execErrandPushi ix s
  | .errandPushw n => Sys2Proof.Machine.execErrandPushw n s
  | .errandPopw n => Sys2Proof.Machine.execErrandPopw n s
  | .ctrRd n => Sys2Proof.Machine.execCtrRd n s
  | .ctrAdd n => Sys2Proof.Machine.execCtrAdd n s
  | .ctrTest n => Sys2Proof.Machine.execCtrTest n s
  | .scrRd o => Sys2Proof.Machine.execScrRd o s
  | .scrAdd o => Sys2Proof.Machine.execScrAdd o s
  | .scrCas o => Sys2Proof.Machine.execScrCas o s
  | .clone k => Sys2Proof.Machine.execClone k s
  | .dir p => Sys2Proof.Machine.execDir p s
  | .jz o => Sys2Proof.Machine.execJz o s
  | .jnz o => Sys2Proof.Machine.execJnz o s
  | .park c => Sys2Proof.Machine.execPark c s
  | .illegalWord r => Sys2Proof.Machine.execIllegalWord r s
  | .poisonedRead c hpa => Sys2Proof.Machine.execPoisonedRead c hpa s
  | .breakpointHit c => Sys2Proof.Machine.execBreakpointHit c s
  | .stampIssue c => Sys2Proof.Machine.execStampIssue c s
  | .partCreate h sites colours qos quantum isSealed => Sys2Proof.Machine.execPartCreate h sites colours qos quantum isSealed s
  | .partDestroy h => Sys2Proof.Machine.execPartDestroy h s
  | .partResize h add remove colours => Sys2Proof.Machine.execPartResize h add remove colours s
  | .partLimits h l => Sys2Proof.Machine.execPartLimits h l s
  | .partGate h => Sys2Proof.Machine.execPartGate h s
  | .partGen h => Sys2Proof.Machine.execPartGen h s
  | .vfAssign h vfn part weight s2root trapBase sz => Sys2Proof.Machine.execVfAssign h vfn part weight s2root trapBase sz s
  | .vfReset h unassign => Sys2Proof.Machine.execVfReset h unassign s
  | .vfWeight h weight => Sys2Proof.Machine.execVfWeight h weight s
  | .vfS1root h v => Sys2Proof.Machine.execVfS1root h v s
  | .progLoad h gpa off img last frame => Sys2Proof.Machine.execProgLoad h gpa off img last frame s
  | .taskLaunch h addr => Sys2Proof.Machine.execTaskLaunch h addr s
  | .taskCancel h addr => Sys2Proof.Machine.execTaskCancel h addr s
  | .memRead h gpa len => Sys2Proof.Machine.execMemRead h gpa len s
  | .memWrite h gpa data => Sys2Proof.Machine.execMemWrite h gpa data s
  | .ctxResume h core => Sys2Proof.Machine.execCtxResume h core s
  | .pageReply h recs => Sys2Proof.Machine.execPageReply h recs s
  | .migStart h w0 w1 => Sys2Proof.Machine.execMigStart h w0 w1 s
  | .migStop h => Sys2Proof.Machine.execMigStop h s
  | .evidence h nonce scope => Sys2Proof.Machine.execEvidence h nonce scope s
  | .labelSet h label digest => Sys2Proof.Machine.execLabelSet h label digest s
  | .stileInstall h r => Sys2Proof.Machine.execStileInstall h r s
  | .stileRevoke h policyId => Sys2Proof.Machine.execStileRevoke h policyId s
  | .rotaSet h cores start entries => Sys2Proof.Machine.execRotaSet h cores start entries s
  | .slotReserve h group count => Sys2Proof.Machine.execSlotReserve h group count s
  | .slotRelease h group => Sys2Proof.Machine.execSlotRelease h group s
  | .replayArm h r => Sys2Proof.Machine.execReplayArm h r s
  | .replayDump h => Sys2Proof.Machine.execReplayDump h s
  | .spareSwap h r => Sys2Proof.Machine.execSpareSwap h r s
  | .telemetryRead h block first last => Sys2Proof.Machine.execTelemetryRead h block first last s
  | .trustAnchor h digests => Sys2Proof.Machine.execTrustAnchor h digests s
  | .taskRecordCheck vf => Sys2Proof.Machine.execTaskRecordCheck vf s
  | .taskStart vf => Sys2Proof.Machine.execTaskStart vf s
  | .jobHandout c => Sys2Proof.Machine.execJobHandout c s
  | .taskCompletion task => Sys2Proof.Machine.execTaskCompletion task s
  | .deficitExhausted vf => Sys2Proof.Machine.execDeficitExhausted vf s
  | .softRequestArrival c => Sys2Proof.Machine.execSoftRequestArrival c s
  | .graceExpiry c => Sys2Proof.Machine.execGraceExpiry c s
  | .killExpiry c => Sys2Proof.Machine.execKillExpiry c s
  | .contextSave c => Sys2Proof.Machine.execContextSave c s
  | .contextResume task => Sys2Proof.Machine.execContextResume task s
  | .contextStop c => Sys2Proof.Machine.execContextStop c s
  | .mutualStall c => Sys2Proof.Machine.execMutualStall c s
  | .copyCompletion c => Sys2Proof.Machine.execCopyCompletion c s
  | .homeApply c ix => Sys2Proof.Machine.execHomeApply c ix s
  | .aaccArrival ix => Sys2Proof.Machine.execAaccArrival ix s
  | .aaccApply slice => Sys2Proof.Machine.execAaccApply slice s
  | .quotaWindowStart => Sys2Proof.Machine.execQuotaWindowStart s
  | .heldPacketEntry slice => Sys2Proof.Machine.execHeldPacketEntry slice s
  | .refusalReceipt ix => Sys2Proof.Machine.execRefusalReceipt ix s
  | .carryResend c entry => Sys2Proof.Machine.execCarryResend c entry s
  | .sliceService slice => Sys2Proof.Machine.execSliceService slice s
  | .monitorEvent c e => Sys2Proof.Machine.execMonitorEvent c e s
  | .monitorTimeout c => Sys2Proof.Machine.execMonitorTimeout c s
  | .mcastTargetWrite ix => Sys2Proof.Machine.execMcastTargetWrite ix s
  | .kstep c => Sys2Proof.Machine.execKstep c s
  | .boundEntryArrival ix => Sys2Proof.Machine.execBoundEntryArrival ix s
  | .crossroadsEntry ix => Sys2Proof.Machine.execCrossroadsEntry ix s
  | .packetHop ix => Sys2Proof.Machine.execPacketHop ix s
  | .escapeTimeout ix => Sys2Proof.Machine.execEscapeTimeout ix s
  | .stuckTimeout ix => Sys2Proof.Machine.execStuckTimeout ix s
  | .packetDelivery ix => Sys2Proof.Machine.execPacketDelivery ix s
  | .parkArrival ix => Sys2Proof.Machine.execParkArrival ix s
  | .combineArrival ix => Sys2Proof.Machine.execCombineArrival ix s
  | .reservationRequest r => Sys2Proof.Machine.execReservationRequest r s
  | .slotGrant => Sys2Proof.Machine.execSlotGrant s
  | .slotFreeNotice ix => Sys2Proof.Machine.execSlotFreeNotice ix s
  | .leaseExpiry r => Sys2Proof.Machine.execLeaseExpiry r s
  | .collectivePlanning vf => Sys2Proof.Machine.execCollectivePlanning vf s
  | .collectiveStep vf => Sys2Proof.Machine.execCollectiveStep vf s
  | .collectiveEnd vf => Sys2Proof.Machine.execCollectiveEnd vf s
  | .pageRecordEnqueue vf => Sys2Proof.Machine.execPageRecordEnqueue vf s
  | .scrubComplete part => Sys2Proof.Machine.execScrubComplete part s
  | .ungate part => Sys2Proof.Machine.execUngate part s
  | .frameEdge c => Sys2Proof.Machine.execFrameEdge c s
  | .sealWindow c => Sys2Proof.Machine.execSealWindow c s
  | .linkTraining port peer => Sys2Proof.Machine.execLinkTraining port peer s
  | .flitTagFailure port => Sys2Proof.Machine.execFlitTagFailure port s
  | .flitCountKeyUpdate port => Sys2Proof.Machine.execFlitCountKeyUpdate port s
  | .heartbeatMissed port => Sys2Proof.Machine.execHeartbeatMissed port s
  | .linkRetry port peer => Sys2Proof.Machine.execLinkRetry port peer s
  | .managementWatchdog core => Sys2Proof.Machine.execManagementWatchdog core s
  | .eccCorrection u => Sys2Proof.Machine.execEccCorrection u s
  | .uncorrectableError u => Sys2Proof.Machine.execUncorrectableError u s
  | .powerStep watts => Sys2Proof.Machine.execPowerStep watts s
  | .thermalThrottle sensor temp => Sys2Proof.Machine.execThermalThrottle sensor temp s
  | .thermalShutdown sensor value => Sys2Proof.Machine.execThermalShutdown sensor value s
  | .coolantFlowLow flow => Sys2Proof.Machine.execCoolantFlowLow flow s
  | .bringUp env => Sys2Proof.Machine.execBringUp env s
  | .replayDivergence => Sys2Proof.Machine.execReplayDivergence s
  | .meshArbitration die stop port => Sys2Proof.Machine.execMeshArbitration die stop port s
  | .ringInsertion die station lane => Sys2Proof.Machine.execRingInsertion die station lane s
  | .mWordFinish c => Sys2Proof.Machine.execMWordFinish c s
  | .dispatcherRound part => Sys2Proof.Machine.execDispatcherRound part s
  | .throttleRelease sensor temp => Sys2Proof.Machine.execThrottleRelease sensor temp s
  | .bankGroupMapChange c perm => Sys2Proof.Machine.execBankGroupMapChange c perm s
  | .endl => Sys2Proof.Machine.execEndl s
  | .ret => Sys2Proof.Machine.execRet s
  | .nopa => Sys2Proof.Machine.execNopa s
  | .halt => Sys2Proof.Machine.execHalt s
  | .jobnext => Sys2Proof.Machine.execJobnext s
  | .errandDup => Sys2Proof.Machine.execErrandDup s
  | .errandSwap => Sys2Proof.Machine.execErrandSwap s
  | .errandDrop => Sys2Proof.Machine.execErrandDrop s
  | .errandAdd => Sys2Proof.Machine.execErrandAdd s
  | .errandSub => Sys2Proof.Machine.execErrandSub s
  | .errandAnd => Sys2Proof.Machine.execErrandAnd s
  | .errandOr => Sys2Proof.Machine.execErrandOr s
  | .errandXor => Sys2Proof.Machine.execErrandXor s
  | .errandShl => Sys2Proof.Machine.execErrandShl s
  | .errandShr => Sys2Proof.Machine.execErrandShr s
  | .errandCmpeq => Sys2Proof.Machine.execErrandCmpeq s
  | .errandCmplt => Sys2Proof.Machine.execErrandCmplt s
  | .dirPop => Sys2Proof.Machine.execDirPop s
  | .dirmin => Sys2Proof.Machine.execDirmin s
  | .dirload => Sys2Proof.Machine.execDirload s
  | .bud => Sys2Proof.Machine.execBud s
  | .deliv => Sys2Proof.Machine.execDeliv s
  | .dropk => Sys2Proof.Machine.execDropk s
  | .fwd => Sys2Proof.Machine.execFwd s

end Sys2Proof.Machine
end

