-- ==== Sys2Proof/Machine/Message.lean ====
section
/-! DEFINITION. Command messages as bytes: the header, the payloads whose layout the spec gives, responses and notices (R6, R8, R344,
R346, R368, R371, R377 to R379, R411, R415, R418, R419; log entry 86). -/

namespace Sys2Proof.Machine

/-! ### The header (R378) -/

/-- A field out of range, a reserved field that is not zero, or a length that is not the message's. -/
def Message.bad (m : Message) : Bool :=
  let place (n most : Nat) : Bool := decide (n < most) || n == 0xFF
  decide (m.bytes.length < 32) || decide (2 ^ 20 < m.bytes.length) || leAt m.bytes 2 2 != 0 || leAt m.bytes 11 1 != 0
    || leAt m.bytes 12 4 != m.bytes.length - 32 || leAt m.bytes 16 16 != 0 || !place (leAt m.bytes 8 1) 192
    || !place (leAt m.bytes 9 1) 48 || !place (leAt m.bytes 10 1) 192
/-- A header's bytes. -/
def hdrBytes (opc flags : Nat) (reqid : W32) (issuer part vfn status plen : Nat) : List Byte :=
  natLe opc 2 ++ natLe flags 2 ++ natLe reqid.toNat 4 ++ natLe issuer 1 ++ natLe part 1 ++ natLe vfn 1 ++ natLe status 1 ++ natLe plen 4
    ++ natLe 0 16
def issuerCode : Issuer → Nat
  | .hyp => 0xFF
  | .vf n => n

/-! ### Payloads -/

/-- SPARE.SWAP (R411): none where a reserved byte is not zero. -/
def parseSwap (p : List Byte) : Option SwapReq :=
  if p.length = 16 ∧ leAt p 1 1 = 0 ∧ leAt p 6 2 = 0 then some ⟨leAt p 0 1, leAt p 2 2, leAt p 4 2, leAt p 8 8⟩ else none
/-- REPLAY.ARM (R415). -/
def parseArm (p : List Byte) : Option ReplayArmReq :=
  if p.length = 32 ∧ leAt p 0x14 12 = 0 then
    some ⟨leAt p 0 8, leAt p 8 8, leAt p 0x10 1, leAt p 0x11 1, BitVec.ofNat 16 (leAt p 0x12 2)⟩ else none
/-- A frame rota entry (R371). -/
def parseFrame (w : Nat) : Option RotaEntry :=
  if w / 2 ^ 8 % 64 = 0 then some ⟨if w / 2 ^ 24 = 0xFF then none else some (w / 2 ^ 24), w / 2 ^ 14 % 1024, w % 256⟩ else none
/-- ROTA.SET (R371): START and the entries. -/
def parseRota (p : List Byte) : Option (W64 × List RotaEntry) :=
  let n := leAt p 8 1
  if p.length = 9 + 4 * n then
    (((List.range n).map fun i => parseFrame (leAt p (9 + 4 * i) 4)).mapM id).map fun l => (BitVec.ofNat 64 (leAt p 0 8), l)
  else none
/-- A page reply record (R346). -/
def parseReply (b : List Byte) : PageReplyRec :=
  ⟨leAt b 0 8, leAt b 8 8, leAt b 0x10 1, leAt b 0x11 1, leAt b 0x12 1, leAt b 0x13 1, leAt b 0x14 1 % 2 == 1,
   decide (2 ≤ leAt b 0x14 1) || leAt b 0x15 11 != 0⟩
/-- A policy record (R419), with whether it revokes. -/
def parsePolicy (p : List Byte) : PolicyRec × Bool :=
  let all := (List.range 4).map fun i => leAt p (0x10 + i) 1
  let labels := all.filter (· != 0)
  let n := labels.length
  let revoke := leAt p 4 4 == 1
  let body := p.take 128
  let key (i : Nat) : List Byte := (p.drop (128 + 3732 * i)).take 1312
  let sig (i : Nat) : List Byte := (p.drop (128 + 3732 * i + 1312)).take 2420
  let layout := leAt p 0 4 == 1 && decide (leAt p 4 4 < 2) && all == labels ++ List.replicate (4 - n) 0 && decide (leAt p 0x15 1 < 2)
    && leAt p 0x16 2 == 0 && leAt p 0x38 72 == 0 && (p.length == 128 + 3732 * n || (revoke && p.length == 128))
  (⟨leAt p 8 8, labels, leAt p 0x14 1, leAt p 0x15 1 == 1, leAt p 0x18 8, leAt p 0x20 8, leAt p 0x28 8, leAt p 0x30 8, layout,
    (List.range n).map (fun i => Config.sha3 (key i)), (List.range n).all fun i => Config.verifies (key i) body (sig i)⟩, revoke)

/-- What a command of a code does with its payload; none for a code whose payload layout the spec does not give: its command comes with its
operands, as its own step (log entry 86). Every code that is not of the table is BADMSG (R379). -/
def Message.body (m : Message) (s : State) : Option CmdRes :=
  let h := m.hdr
  let p := m.payload
  let empty (k : CmdRes) : Option CmdRes := some (if p.isEmpty then k else .err .badMsg)
  let word (k : Nat → CmdRes) : Option CmdRes := some (if p.length = 8 then k (leAt p 0 8) else .err .badMsg)
  match m.opc with
  | 0x0002 => empty (partDestroy h s)
  | 0x0005 => empty (partGate h s)
  | 0x0006 => empty (partGen h s)
  | 0x0013 => word fun v => vfS1root h (BitVec.ofNat 64 v) s
  | 0x0021 => word fun a => taskLaunch h a s
  | 0x0022 => word fun a => taskCancel h a s
  | 0x0030 => some (if p.length % 32 = 0 then
      pageReply h ((List.range (p.length / 32)).map fun i => parseReply ((p.drop (32 * i)).take 32)) s else .err .badMsg)
  | 0x0031 => some (if p.length = 16 then migStart h (BitVec.ofNat 64 (leAt p 0 8)) (BitVec.ofNat 64 (leAt p 8 8)) s else .err .badMsg)
  | 0x0032 => empty (migStop h s)
  | 0x0042 =>
    let (r, revoke) := parsePolicy p
    some (if !r.layoutOk || (revoke && policyOdd h r) then .err .badMsg else if revoke then stileRevoke h r.policyId s else stileInstall h r s)
  | 0x0043 => some (match parseRota p with
    | some (start, l) => rotaSet h (List.range (s.partAt h.part).sites.length) start l s
    | none => .err .badMsg)
  | 0x0045 => word fun g => slotRelease h (BitVec.ofNat 64 g) s
  | 0x0050 => some (match parseArm p with
    | some r => replayArm h r s
    | none => .err .badMsg)
  | 0x0051 => empty (replayDump h s)
  | 0x0060 => some (match parseSwap p with
    | some r => spareSwap h r s
    | none => .err .badMsg)
  | 0x0080 => some (if p.length % 32 = 0 then
      trustAnchor h ((List.range (p.length / 32)).map fun i => BitVec.ofNat 256 (leAt p (32 * i) 32)) s else .err .badMsg)
  | 0x0001 | 0x0003 | 0x0004 | 0x0010 | 0x0011 | 0x0012 | 0x0020 | 0x0023 | 0x0024 | 0x0025 | 0x0040 | 0x0041 | 0x0044 | 0x0070 => none
  | _ => some (.err .badMsg)

/-! ### Responses (R378, R418) -/

/-- The bytes of a response's payload. -/
def payloadBytes : Payload → List Byte
  | .empty => []
  | .bytes b => b
  | .words l => l.flatMap fun w => natLe w.toNat 8
  | .report nonce gcc scope meas states sig => reportBytes nonce gcc scope meas states ++ sig
  | .replay mode ovf div n a b d unit kind =>
    natLe mode 1 ++ natLe (ovf + 2 * div) 1 ++ natLe 0 6 ++ natLe n 8 ++ natLe a.toNat 8 ++ natLe b.toNat 8 ++ natLe d.toNat 8
      ++ natLe unit 2 ++ natLe kind 1 ++ natLe 0 5
/-- A response as a message. -/
def Response.message (opc : Nat) (h : CmdHdr) (r : Response) : List Byte :=
  let p := payloadBytes r.payload
  hdrBytes opc 1 r.reqid (issuerCode h.issuer) h.part h.vfn r.status p.length ++ p
/-- The responses from the n-th on, sent to a port. -/
def State.sendFrom (m : Message) (n : Nat) (s : State) : State :=
  s.onMgmt fun g => { g with outbox := g.outbox ++ (g.responses.drop n).map fun r => (m.port, r.message m.opc m.hdr) }

/-! ### Messages applied in order (R377) -/

/-- A message served. -/
def State.serveMessage (m : Message) (s : State) : State :=
  let n := s.mgmt.responses.length
  let early := m.opc == 0x0080
  if !s.inSession m.hdr then s
  else if m.bad then ((s.serveCmd (.bytes m) early fun _ => .err .badMsg)).sendFrom m n
  else match m.body s with
    | none => s
    | some r => (s.serveCmd (.bytes m) early fun _ => r).sendFrom m n
/-- What a command that comes with its operands does: whether it may come before step 6 of bring-up, and its meaning. -/
def cmdBody (h : CmdHdr) : Cmd → Bool × (State → CmdRes)
  | .partCreate sites colours qos quantum isSealed => (false, partCreate h sites colours qos quantum isSealed)
  | .partDestroy => (false, partDestroy h)
  | .partResize add remove colours => (false, partResize h add remove colours)
  | .partLimits l => (false, partLimits h l)
  | .partGate => (false, partGate h)
  | .partGen => (false, partGen h)
  | .vfAssign vfn part weight s2root trapBase sz => (false, vfAssign h vfn part weight s2root trapBase sz)
  | .vfReset unassign => (false, vfReset h unassign)
  | .vfWeight weight => (false, vfWeight h weight)
  | .vfS1root v => (false, vfS1root h v)
  | .progLoad gpa off img last frame => (false, progLoad h gpa off img last frame)
  | .taskLaunch addr => (false, taskLaunch h addr)
  | .taskCancel addr => (false, taskCancel h addr)
  | .memRead gpa len => (false, memRead h gpa len)
  | .memWrite gpa data => (false, memWrite h gpa data)
  | .ctxResume core => (false, ctxResume h core)
  | .pageReply recs => (false, pageReply h recs)
  | .migStart w0 w1 => (false, migStart h w0 w1)
  | .migStop => (false, migStop h)
  | .evidence nonce scope => (false, evidence h nonce scope)
  | .labelSet label digest => (true, labelSet h label digest)
  | .stileInstall r => (false, stileInstall h r)
  | .stileRevoke id => (false, stileRevoke h id)
  | .rotaSet cores start entries => (false, rotaSet h cores start entries)
  | .slotReserve group count => (false, slotReserve h group count)
  | .slotRelease group => (false, slotRelease h group)
  | .replayArm r => (false, replayArm h r)
  | .replayDump => (false, replayDump h)
  | .spareSwap r => (false, spareSwap h r)
  | .telemetryRead block first last => (true, telemetryRead h block first last)
  | .trustAnchor digests => (true, trustAnchor h digests)
/-- A command of the journal served from its start; it leaves the journal once it is no longer being applied. -/
def State.serveEntry (c : Command) (s : State) : State :=
  let t := match c with
    | .bytes m => s.serveMessage m
    | .typed h x => s.serveCmd c (cmdBody h x).1 (cmdBody h x).2
  if t.mgmt.waiting.contains c.hdr then t else t.onMgmt fun g => { g with journal := g.journal.erase c }
/-- The journal served in arrival order: a command that waits holds those of its issuer that came after it on its port (R377, R413). -/
def State.serveJournal (s : State) : State :=
  s.mgmt.journal.foldl (fun s c => if (s.mgmt.journal.takeWhile (· != c)).any c.ordered then s else s.serveEntry c) s

/-! ### Notices (R344, R368) -/

def NoticeKind.code : NoticeKind → Nat
  | .trap => 1 | .debug => 2 | .pageReq _ => 3 | .pageEvt _ => 4 | .sealAlarm => 5 | .lostPark => 6
/-- A page record (R344). -/
def PageRec.bytes (r : PageRec) : List Byte :=
  natLe (if r.event then 0 else r.gpa / 65536 * 65536) 8 ++ natLe r.va.toNat 8 ++ natLe (if r.event then 1 else 0) 1
    ++ natLe ((if r.write then 1 else 0) + (if r.table then 2 else 0) + (if r.tens then 4 else 0)) 1 ++ natLe r.vfn 1 ++ natLe r.gen.toNat 1
    ++ natLe r.level 1 ++ natLe r.count 1 ++ natLe r.core 2 ++ natLe r.seq.toNat 4 ++ natLe 0 4
/-- The payload of a notice, and the notice as a message: the widths of its fields after KIND are those the other records give them. -/
def Notice.payload (n : Notice) : List Byte :=
  natLe n.kind.code 1 ++ natLe n.vfn 1 ++ natLe n.core 2 ++ natLe n.textix 4 ++ natLe n.gcc.toNat 8 ++ (match n.kind with
    | .pageReq r => r.bytes
    | .pageEvt r => r.bytes
    | _ => [])
def Notice.message (n : Notice) : List Byte := hdrBytes 0x8000 0 0 0xFF 0xFF n.vfn 0 n.payload.length ++ n.payload
/-- The notices of the module as the messages it has sent, in the order of their events. -/
def State.noticesSent (s : State) : List (List Byte) := s.mgmt.notices.map Notice.message

end Sys2Proof.Machine
end

