-- ==== Sys2Proof/Machine/Inputs.lean ====
section
/-! DEFINITION. What reaches the module from outside it: packets, credits, reductions, multicasts, collectives, slot requests, requests at
slices, flits, ring messages, and interrupts (host interface). -/

namespace Sys2Proof.Machine

/-- A credit of a channel comes back, and waiting packets leave as far as credits go (R232). -/
def State.giveCredit (port : Fin 6) (vc : Fin 8) (s : State) : State :=
  if !(s.torusPort port.val).up then s
  else (s.setPort port.val fun q => { q with credits := q.credits.set vc (q.credits[vc] + 1) }).drainTx
/-- The completion notice of addends of this module (R294). -/
def State.arriveNotice (tags : List TagNote) (s : State) : State :=
  (tags.filter fun t => t.node == s.mgmt.node).foldl (fun s t => s.redDone t) s
/-- A row sent to a node has been written there: the MCAST completes once its last row is (R178). -/
def State.mcastDone (core : CoreId) (id node : Nat) (s : State) : State :=
  let mine (p : McastPkt) : Bool := p.id == id && p.src == core && p.node == node && p.fromNode == s.mgmt.node
  if s.gran.mcasts.any fun p => mine p && s.gran.mcastOut.contains p then
    (s.onGran fun g => { g with mcasts := g.mcasts.filter (fun p => !mine p), mcastOut := g.mcastOut.filter fun p => !mine p }).mcastEnd id core
  else s
/-- The answer of another Crossroads to a request of this module's engine (R295, R296). -/
def State.slotAnswered (id node a : Nat) (s : State) : State :=
  if s.coll.bookings.any fun b => b.id == id && b.waitAt == some node then s.heedAnswer id node a else s
/-- What another member tells of a collective: it is heeded, or kept until the block is posted here, or comes too late. -/
def State.heedColl (k : CollKey) (n : Note) (s : State) : State :=
  if s.collGone k then s
  else if (s.collAt k).isNone then s.onColl fun c => { c with early := c.early ++ [n] }
  else match n with
    | .replan _ => if ((s.collAt k).map Coll.fellBack).getD true then s else s.replanHere k
    | .alive _ _ => (s.onCollKey k (Coll.heed n)).stepped k
    | n => s.onCollKey k (Coll.heed n)
/-- A chunk of another member's step, which restarts the lease of the collective (R299, R303). -/
def State.arriveChunk (c : Chunk) (s : State) : State :=
  if s.collGone c.key then s else (s.onColl fun k => { k with chunks := k.chunks ++ [c] }).stepped c.key
/-- A note for this module. -/
def State.heedNote (n : Note) (s : State) : State :=
  match n with
  | .row p => s.rowsIn p
  | .chunk c => s.arriveChunk c
  | .done tags => s.arriveNotice tags
  | .written core id node => s.mcastDone core id node
  | .ask q => s.request q
  | .drop id => s.releaseResv id
  | .answer id node a => s.slotAnswered id node a
  | .posted b => if s.collGone b.key then s else s.onColl fun c => { c with blocks := c.blocks ++ [b] }
  | .slotFree => s.moveGrants
  | .failed k _ | .booked k _ _ | .replan k | .finished k _ | .alive k _ => s.heedColl k n
/-- Flits of what arrives over a link. -/
def LinkItem.flits : LinkItem → Nat
  | .packet p => p.flits
  | .parkReturn p => p.pkt.flits
  | .reduction p => p.flits
  | .note p => p.note.flits
/-- What arrives over a port: a packet waits for its event, and came in the direction of the port across; a park's return, a reduction packet, which stands in no
carry entry here, and a note go on or are for this module. -/
def State.takeLink (port : Nat) (x : LinkItem) (s : State) : State :=
  match x with
  | .packet p => s.onXr fun x => { x with arrived := x.arrived ++ [{ p with came := inputBeyond port }] }
  | .parkReturn p => s.returnPark p
  | .reduction p => s.onXr fun x => { x with redIn := x.redIn ++ [{ p with carryIx := none }] }
  | .note p => if p.dst = s.mgmt.node then s.heedNote p.note else s.emit p

/-- An interrupt delivered to the context on a core ends its WAITM with WAKE, unless an event has ended it before (R134). -/
def State.interrupt (c : CoreId) (s : State) : State := monitorEvent c .wake (s.endMonitor c)

/-- What an input does. Nothing is taken from a link before its session is up (R380), and what comes under an old key of its direction is discarded; the
flits of the rest are counted, and whole flits end a row of tag failures (R381). -/
def State.receive (x : Input) (s : State) : State :=
  match x with
  | .link port epoch x =>
    if !s.portUp port.val || (s.torusPort port.val).inDir.epoch != epoch then s
    else (s.setPort port.val fun q => { q with inDir := q.inDir.count x.flits, tagFails := 0 }).takeLink port.val x
  | .keyUpdate port => if (s.torusPort port.val).up then s.setPort port.val fun q => { q with inDir := q.inDir.update } else s
  | .linkNews a b up => s.onMgmt fun m => { m with links := m.links.filter (fun x => x != (a, b)) ++ if up then [(a, b)] else [] }
  | .credit port vc => s.giveCredit port vc
  | .sliceReq r => s.onGran fun g => { g with reqs := g.reqs ++ [r] }
  | .flit a => s.onFab fun x => { x with air := x.air ++ [a] }
  | .ringMsg die m => s.onFab fun f => { f with waiting := f.waiting ++ [(die, m)] }
  | .interrupt c => s.interrupt c
  | .uarov port owner p key => s.openSession port owner p key
  | .message port key bs => (s.onMgmt fun m => { m with journal := m.journal ++ [.bytes ⟨port, key, bs⟩] }).serveJournal
  | .tamperImage b => s.alterImage b
  | .tamper b => s.onMem fun m => { m with badBlocks := if m.badBlocks.contains b then m.badBlocks else b :: m.badBlocks }

end Sys2Proof.Machine
end

