-- ==== Sys2Proof/Machine/Turns.lean ====
section
/-! DEFINITION. Who moves next, and what an agent's move comes to. -/

namespace Sys2Proof.Machine

/-- Whether a step of the operation table is an event or a command: it stands in no text, in no code block, and nothing else turns to
it by itself. -/
def isEvent (i : Instr) : Bool :=
  match i with
  | .illegalWord _ | .poisonedRead _ _ | .breakpointHit _ => false
  | i => (encodeText i).isNone && (encodeErrand i).isNone

/-- Who moves: the first of the agenda, or where it names nobody, whoever the free choice names (log entry 1). -/
def State.mover (s : State) : Agent × State :=
  match s.agenda with
  | a :: l => (a, { s with agenda := l, ticks := s.ticks + 1 })
  | [] =>
    let a := match Config.nextAgent s.ticks with
      | .poison _ _ => Agent.cycle
      | a => a
    (a, { s with ticks := s.ticks + 1 })

/-- Whether an agent may move: once power is cut only the bring-up may (R423). -/
def Agent.powered (off : Bool) (a : Agent) : Bool :=
  !off || (match a with
    | .event (.bringUp _) => true
    | _ => false)

/-- What M does in this cycle: it reads for the K-steps whose interval ends, results come, a word finishes, and an MMA or MMAT that waits for
earlier words alone issues or looks at its stamp (R212, R215, R218). -/
def Core.mDue (gcc : W64) (c : Core) : List Agent :=
  if c.place.run != .running then []
  else
    (if c.mat.ops.any fun o => o.age gcc % o.cycles + 1 == o.cycles then [.kread c.id] else [])
      ++ (if (c.mat.ops.head?.map fun o => o.due gcc).getD false then [.kstep c.id] else [])
      ++ (if c.wordDue gcc then [.mword c.id] else [])
      ++ (if (c.mWaits && c.q.ma ≠ [] && c.q.mb ≠ []) || c.stampWaited.isSome then [.engine c.id .m] else [])
/-- What the dispatcher does where a microsecond ends, for every live partition that is not sealed: the soft requests to functions whose deficit is used up,
the visits of a round, the starts and resumes of the candidates, and the saves of contexts that have stopped. So the charges of two functions keep to
the bound of R39, which leaves the dispatcher 20 microseconds (log entry 120). -/
def State.dispatchDue (s : State) : List Agent :=
  if !s.microsecondEnds then []
  else
    ((s.cores.filter fun c => c.maySave && !(s.partAt c.place.part).isSealed).map fun c => Agent.save c.id)
      ++ ((List.range 48).filter fun p => (s.partAt p).st == .live && !(s.partAt p).isSealed).flatMap fun p =>
        let l := s.vfsOf p
        ((l.filter fun v => s.vfRuns v && decide ((s.vfAt v).deficit ≤ 0)).map fun v => Agent.exhausted v)
          ++ List.replicate (l.length + 1) (Agent.visit p) ++ ((s.partAt p).turns ++ l).map Agent.serve
/-- The events that a new cycle brings with it: what M does in it, the stamped words due in it (R218), the rows of multicasts on this module (R178), the grace
and kill timers that run out (R49), re-sends (R174), timeouts of WAITM (R134), leases (R299), mutual stalls (R45), the packets that park as stuck (R232), frame edges, seal windows and first words of frames (R372), the outputs of
the meshes (R405) and the messages that wait at the rings' stations (R399); what the dispatcher does (R37 to R39), and the end of a replay whose log has ended or whose next event has
not come (R417). -/
def State.dueNow (s : State) : List Agent :=
  let carries := s.cores.flatMap fun c => (c.port.carry.filter fun kv => kv.2.valid && !kv.2.busy && !kv.2.pair2
    && (kv.2.timer.map s.reached).getD false).map fun kv => Agent.carry c.id kv.1
  let timeouts := (s.cores.filter fun c => ((c.waits.waitm.bind WaitmState.deadline).map s.reached).getD false).map fun c => Agent.timeout c.id
  let leases := (s.coll.bookings.filter fun b => b.leased && decide (b.deadline ≤ s.mgmt.power.time)).map fun b => Agent.lease b.id
  let stalls := (s.cores.filter fun c => decide (Config.stallLimit ≤ c.walk.stall)).flatMap fun c =>
    engines.map (.engine c.id) ++ [Agent.mstall c.id]
  let stamps := (s.cores.filter fun c => c.stampWaited == some (s.gcc.setWidth 32)).map fun c => Agent.event (.stampIssue c.id)
  let casts := (s.gran.mcasts.zipIdx.filter fun (p, _) => p.node == s.mgmt.node && p.fromNode == s.mgmt.node && p.due == some s.gcc).zipIdx.map
    fun ((_, i), k) => Agent.rows (i - k)
  let timers := (s.cores.filter fun c => (c.walk.grace || c.walk.kill) && decide (c.walk.timer ≤ s.mgmt.power.time)).map
    fun c => Agent.timer c.id
  let stuck := (s.xr.tx.zipIdx.filter fun (t, _) => t.back.isNone && t.since + 65536 == s.gcc && s.dimOrder t.pkt.dst != some t.port).zipIdx.map
    fun ((_, i), k) => Agent.stuck (i - k)
  let frame (r : Rota) (a : CoreId → Agent) : List Agent := a ⟨r.part, r.core⟩ :: engines.map (.engine ⟨r.part, r.core⟩)
  let frames := s.disp.rotas.flatMap fun r =>
    (if s.windowDue r then [.seal ⟨r.part, r.core⟩] else []) ++ (if s.reached r.edge then frame r .edge else [])
      ++ (if (r.opens.map s.reached).getD false then frame r .world else [])
  s.cores.flatMap (Core.mDue s.gcc) ++ stamps ++ casts ++ carries ++ timeouts ++ leases ++ stalls ++ timers ++ stuck ++ frames ++ s.meshDue ++ s.ringDue
    ++ s.dispatchDue ++ (if s.replayLost then [.event .replayDivergence] else [])
/-- A cycle of the clock: the slots asked for in the cycle that ends are granted (R296), commands that wait are served
again, and what is due in the next one comes first. -/
def State.cycleTurn (s : State) : State :=
  let s := (State.grantTurn s.xr.requests.length s).tick.serveJournal
  { s with agenda := s.dueNow ++ s.agenda }

/-- What GRACE_EXPIRY and KILL_EXPIRY do where a timer of a core has run out. -/
def State.timerOut (c : CoreId) (s : State) : State :=
  if ((s.coreAt c).map fun k => k.walk.grace).getD false then graceExpiry c s else killExpiry c s
/-- The candidate of a function starts, or resumes (R38). -/
def State.serveCandidate (vf : Nat) (s : State) : State :=
  match s.candidate vf with
  | some (.fresh ..) => taskStart vf s
  | some (.resume k) => contextResume k.id s
  | none => s
/-- What an agent turns to. -/
def State.turn (a : Agent) (s : State) : Turn :=
  match a with
  | .engine c e => s.engineTurn c e
  | .lane n => s.laneTurn n
  | .event i => if isEvent i && i.wellFormed then .run i s else .over s
  | .cycle => .over s.cycleTurn
  | .input x => .over (s.receive x)
  | .poison c h => .run (.poisonedRead c h) s
  | .kread c => .over (kread c s)
  | .kstep c => .over (kstep c s)
  | .mword c => .over (mWordFinish c s)
  | .lanes => .over s.giveLanes
  | .mesh die stop port => .over (meshArbitration die stop port s)
  | .ring die station lane => .over (ringInsertion die station lane s)
  | .stuck i => .over (stuckTimeout i s)
  | .rows i => .over (mcastTargetWrite i s)
  | .timer c => .over (s.timerOut c)
  | .send c i => .over (s.portSends c i)
  | .edge c => .over (frameEdge c s)
  | .seal c => .over (sealWindow c s)
  | .world c => .over (worldIn c s)
  | .early c h => .over (s.readEarly c h)
  | .ahead c tid => .over (s.readAhead c tid)
  | .carry c n => .over (carryResend c n s)
  | .timeout c => .over (monitorTimeout c s)
  | .lease id => .over (leaseExpiry (s.coll.bookings.findIdx fun b => b.id == id) s)
  | .mstall c => .over (mutualStall c s)
  | .save c => .over (contextSave c s)
  | .exhausted v => .over (deficitExhausted v s)
  | .visit p => .over (dispatcherRound p s)
  | .serve v => .over (s.serveCandidate v)

/-! ### Programs of the host's question -/

/-- The engine that executes a text word; S for words of all engines. -/
def wordEngine (w : Nat) : Engine := match w / 2 ^ 29 % 8 with
  | 1 => .a
  | 2 => .v
  | 3 => .m
  | 4 => .p
  | _ => .s
/-- A text word and its extension at text word 0 of the core that moves, whose turn it is. -/
def State.placeWord (w : Nat) (s : State) : State :=
  let c := s.core.withWord w
  { s with core := c, agenda := [.engine c.id (wordEngine w)] }
/-- An errand instruction as the first of a packet on lane 0, whose turn it is, in a partition that permits every class. -/
def State.placeErrand (w : Nat) (s : State) : State :=
  let p := errandPacket s w
  let s := s.setPart p.part fun q => { q with st := .live, emask := 0x7FFF }
  { s.setLane 0 (some ⟨p, [], none⟩) with agenda := [.lane 0] }

end Sys2Proof.Machine
end

