-- ==== Sys2Proof/Machine/Step.lean ====
section
/-! DEFINITION. One step of the module: somebody moves, and the instruction it turns to is executed. -/

namespace Sys2Proof.Machine

/-- One step. -/
def step (s : State) : Host.Outcome State Fault Refusal :=
  let m := s.mover
  if Agent.powered (s.mgmt.pins == .off) m.1 then
    match m.2.turn m.1 with
    | .run i t => exec i t
    | .over t => .next t
  else .fault .noPower

/-- The instruction whose table bits are w, placed where the next step finds it: in text for the words of 32 and 64 bits, on a lane for
the errand instructions of 16. -/
def State.withFetchWord (s : State) (nbits w : Nat) : State :=
  if nbits ≤ 16 then s.placeErrand w else s.placeWord w

end Sys2Proof.Machine
end

