-- ==== Sys2Proof/Safety.lean ====
section
/-! DEFINITION. The terms claims are stated in: a well-formed memory, a run the model can follow, a word that is ready to be executed
and one that has been passed, an access that reaches its place. -/

namespace Sys2Proof.Machine

/-- The canonical form of memory: addresses strictly rising, no byte listed that an unlisted address reads as, and the same of the lines,
of the earmark table and of the ciphers. -/
abbrev Memory.wf (m : Memory) : Bool :=
  Sparse.wf 0 m.bytes && Sparse.wf LineMeta.init m.lines && Sparse.wf Mark.empty m.marks && Sparse.wf 0 m.worlds

/-- A step that neither faults nor is refused. -/
def Steps (s t : State) : Prop := step s = .next t

/-- A word of engine e, with a wait w and a signal g, is executed in full at s, and u is s with its wait token taken: the engine that
moves is e; in the in-core handler the word may stand there and has no token field (R144); its effects are not complete already; the slip
allows it (R14); its wait token is there and its signal has room, the place of a token taken by a word still unfinished counted (R19, R53). -/
structure Ready (e : Engine) (w g : Tok) (len : Nat) (inHandler : Bool) (s u : State) : Prop where
  act : s.act = e
  handler : s.core.regs.hmode = true → e = .s → inHandler = true ∧ w = none ∧ g = none
  fresh : s.me.done = false
  slip : s.core.slips e len = false ∨ (s.core.regs.hmode = true ∧ e = .s)
  take : s.takeWait w = some u
  room : ∀ d, g = some d → u.core.tokRoom e d = true

/-- A control word is executed at s by engine e: it may stand in the handler, the slip allows it, and M has finished its earlier words (R14, R144,
R215). -/
structure ReadyControl (e : Engine) (len : Nat) (inHandler : Bool) (s : State) : Prop where
  act : s.act = e
  handler : s.core.regs.hmode = true → e = .s → inHandler = true
  slip : s.core.slips e len = false ∨ (s.core.regs.hmode = true ∧ e = .s)
  idle : e = .m → s.core.mat.ops = [] ∧ s.core.mat.word = none

/-- The state t is v with engine e moved on to text index pc, its stream index by len words, its signal pushed, and the journal entries it
has passed freed (R14, R17, R19). Everything else of v stands: every register but the K view of e and the TTB A sees, every queue, all of
memory, every other unit. -/
structure Passed (e : Engine) (g : Tok) (pc len : Nat) (v t : State) : Prop where
  /-- Nothing changes but the walk of this core, the K views and their journals, TTB as A sees it, and the shapes A keeps of it. -/
  frame : t = { v with core := { v.core with
    walk := t.core.walk
    regs := { v.core.regs with k := t.core.regs.k, jour := t.core.regs.jour, ttbA := t.core.regs.ttbA }
    port := { v.core.port with shapes := t.core.port.shapes } } }
  /-- Of the walk: the text, the requests, the faults stand. -/
  walk : t.core.walk = { v.core.walk with
    engs := t.core.walk.engs
    toks := t.core.walk.toks
    points := t.core.walk.points
    pointBase := t.core.walk.pointBase
    decisions := t.core.walk.decisions
    jobGives := t.core.walk.jobGives
    stall := 0 }
  /-- The engine stands at the next word; S in the handler keeps its stream index (R143). -/
  here : t.core.eng e = { v.core.eng e with
    pc := pc
    six := if v.core.regs.hmode = true ∧ e = .s then (v.core.eng e).six else (v.core.eng e).six + BitVec.ofNat 32 len
    blk := .running
    popped := false
    done := false
    seen := false
    look := false }
  /-- The other engines stand where they stood, and look again. -/
  others : ∀ f, f ≠ e → t.core.eng f = (v.core.eng f).wake
  /-- One token more in the queue the signal names. -/
  toks : ∀ a b, t.core.tok a b = v.core.tok a b + (if a = e ∧ g = some b then 1 else 0)
  /-- No other engine's K view or journal changes. -/
  kOthers : ∀ f, f ≠ e → t.core.kView f = v.core.kView f ∧ t.core.journal f = v.core.journal f
  /-- An engine with an empty journal keeps its view. -/
  kHere : v.core.journal e = [] →
    t.core.kView e = v.core.kView e ∧ t.core.journal e = [] ∧ t.core.regs.ttbA = v.core.regs.ttbA ∧ t.core.port.shapes = v.core.port.shapes

/-- v is u after S wrote a K register at its stream index (R16, R17): S's view has the value; another engine has it in its journal, or in its view
when it has come further than S; nothing else changes. -/
structure Wrote (k : KR) (x : Tagged W32) (u v : State) : Prop where
  frame : v = { u with core := { u.core with regs := { u.core.regs with k := v.core.regs.k, jour := v.core.regs.jour } } }
  mine : v.core.kView .s = (u.core.kView .s).set k x
  journal : ∀ e, e ≠ .s → v.core.journal e =
    (if after (u.core.eng e).six (u.core.eng .s).six then u.core.journal e else u.core.journal e ++ [⟨(u.core.eng .s).six, .k k x⟩])
  view : ∀ e, e ≠ .s → v.core.kView e =
    (if after (u.core.eng e).six (u.core.eng .s).six then (u.core.kView e).set k x else u.core.kView e)

/-- v is u after V wrote the active lanes of VD (R183 to R185): lane i takes f i, a lane that is not active is kept, and VD's earmark then counts;
VINV and VSAT of NFL take the lanes' flags, which this cycle has set (R89). -/
structure VWrote (d : VR) (m : Mark) (f : Nat → LaneRes) (u v : State) : Prop where
  frame : v = { u with core := { u.core with regs := { u.core.regs with v := u.core.regs.v.set d v.core.regs.v[d], nfl := v.core.regs.nfl, nflNew := v.core.regs.nflNew } } }
  lanes : ∀ i, i < 64 → Row.lane v.core.regs.v[d].val i = (if i < u.vActive then (f i).val else Row.lane (u.v d).val i)
  mark : v.core.regs.v[d].mark = (if u.vActive < 64 then m.union (u.v d).mark else m)
  gen : v.core.regs.v[d].gen = u.gen
  flags : v.core.regs.nfl = u.core.regs.nfl ||| NumFlags.bits { NumFlags.zero with
    vinv := (List.range u.vActive).any fun i => (f i).inv
    vsat := (List.range u.vActive).any fun i => (f i).sat }

/-- v is u after V wrote all 64 lanes of VD; of the flags, only VINV and VSAT may rise. -/
structure VRowWrote (d : VR) (m : Mark) (f : Nat → W32) (u v : State) : Prop where
  frame : v = { u with core := { u.core with regs := { u.core.regs with v := u.core.regs.v.set d v.core.regs.v[d], nfl := v.core.regs.nfl, nflNew := v.core.regs.nflNew } } }
  lanes : ∀ i, i < 64 → Row.lane v.core.regs.v[d].val i = f i
  mark : v.core.regs.v[d].mark = m
  gen : v.core.regs.v[d].gen = u.gen
  flags : ∀ j, 2 ≤ j → v.core.regs.nfl.getLsbD j = u.core.regs.nfl.getLsbD j

/-- The checks of R129 pass for 2^lg bytes at ea, and the access lands at l; v is the state after the translation, in which a line read
early no longer serves what comes after this access (R130, R258). -/
structure Reaches (cls : AClass) (wr rd sync : Bool) (align lg : Nat) (ocl : Ocl) (ea : W64) (t : Target) (l : Loc) (s v : State) : Prop where
  aligned : ea.toNat < 2 ^ 57 → ea.toNat % align = 0
  place : t.loc = some l
  found : ∃ r, s.translate s.who cls wr ea = (.ok t, r) ∧ v = r.noteAccess ocl (l.keys (2 ^ lg)) ∧ r.locBad l (2 ^ lg) = false ∧
    (sync = true → r.mustWait ocl (l.keys (2 ^ lg)) = false) ∧ (rd = true → r.locPoison l (2 ^ lg) = none)

/-- An access of P to n bytes takes its turn at the home's slice, where no replay holds it back, and its request leaves on the ring with the bytes
it brings (R235, R396, R397, R415). -/
def AsksHome (hpa frame n : Nat) (s v : State) (bs : List Byte := []) : Prop :=
  ∃ r, s.turnAt s.core.place.part (s.accessWho 0) (.mem hpa frame) = some r ∧ v = r.ringAsk r.core.id hpa n bs

/-- n beats of 64 bytes from an address on, each found by P at a host-physical address and its frame (R235). -/
inductive Beats : Nat → W64 → State → List (Nat × Nat) → State → Prop
  | done (ea : W64) (s : State) : Beats 0 ea s [] s
  | more {n : Nat} {ea : W64} {s v r : State} {tg : Target} {hpa frame : Nat} {l : List (Nat × Nat)}
      (found : Reaches .home false false false 64 6 0 ea tg (.mem hpa frame) s v) (rest : Beats n (ea + 64) v l r) :
      Beats (n + 1) ea s ((hpa, frame) :: l) r

/-- A command of A takes its tag, unless the same command was counted when it faulted: the tag's count rises and its CTAGS bit clears, and every other tag
stands (R148). -/
def TakesTag (t : Ctag) (s r : State) : Prop :=
  s.abuf.counted = false → r.core.regs.counts[t] = s.core.regs.counts[t] + 1 ∧ r.core.regs.ctags.getLsbD t.val = false ∧
    ∀ i, i ≠ t.val → r.core.regs.ctags.getLsbD i = s.core.regs.ctags.getLsbD i

/-- The value of x is below that of y: of two finite values by the integers they are at the lower of their exponents, −∞ below every other value and
+∞ above (R55, R76). -/
def FV.below (x y : FV) : Prop :=
  match x, y with
  | .fin p m e, .fin q n f =>
    (if p then -(m : Int) else m) * 2 ^ (e - min e f).toNat < (if q then -(n : Int) else n) * 2 ^ (f - min e f).toNat
  | .inf p, .inf q => p = true ∧ q = false
  | .inf p, .fin .. => p = true
  | .fin .., .inf q => q = false
  | .nan .., _ => False
  | _, .nan .. => False

/-- A finite value of a format of R55, whose exponent reaches no lower than that of the least FP32 value. -/
def FV.isFin : FV → Bool
  | .fin _ _ e => decide (-149 ≤ e)
  | _ => false
/-- A finite value in units of 2^-149, the least positive FP32 value (R55). -/
def FV.num : FV → Int
  | .fin n m e => (if n then -(m : Int) else m) * 2 ^ (e + 149).toNat
  | _ => 0
/-- The integer k is the rounding of p / q in a mode (R67, R72). -/
def RoundsInt (mode : RMode) (p : Int) (q : Nat) (k : Int) : Prop :=
  match mode with
  | .rne => 2 * (k * q - p).natAbs ≤ q ∧ (2 * (k * q - p).natAbs = q → k % 2 = 0)
  | .rna => 2 * (k * q - p).natAbs ≤ q ∧ (2 * (k * q - p).natAbs = q → p.natAbs < k.natAbs * q)
  | .rtz => k.natAbs * q ≤ p.natAbs ∧ p.natAbs < (k.natAbs + 1) * q ∧ 0 ≤ k * p
  | .rup => p ≤ k * q ∧ k * q < p + q
  | .rdn => k * q ≤ p ∧ p < k * q + q
/-- The code c of a format is the rounding in a mode of p / q units of 2^-149, a value within the format's range: no code of the format is the better one in
that mode, and a value that is not zero keeps its sign (R67 to R69). -/
def Rounds (F : Fmt) (mode : RMode) (p : Int) (q : Nat) (c : Nat) : Prop :=
  let v := (F.decode c).num
  (F.decode c).isFin = true ∧ c < 2 ^ (1 + F.ew + F.fw) ∧ (p ≠ 0 → (F.decode c).neg = decide (p < 0)) ∧
  ∀ d, d < 2 ^ (1 + F.ew + F.fw) → (F.decode d).isFin = true →
    let w := (F.decode d).num
    match mode with
    | .rne => (v * q - p).natAbs ≤ (w * q - p).natAbs ∧ ((v * q - p).natAbs = (w * q - p).natAbs → w ≠ v → c % 2 = 0)
    | .rna => (v * q - p).natAbs ≤ (w * q - p).natAbs ∧ ((v * q - p).natAbs = (w * q - p).natAbs → w ≠ v → w.natAbs < v.natAbs)
    | .rtz => v.natAbs * q ≤ p.natAbs ∧ (w.natAbs * q ≤ p.natAbs → w.natAbs ≤ v.natAbs)
    | .rup => p ≤ v * q ∧ (p ≤ w * q → v ≤ w)
    | .rdn => v * q ≤ p ∧ (w * q ≤ p → w ≤ v)
/-- The greatest finite value of a format, in units of 2^-149. -/
def Fmt.maxNum (F : Fmt) : Nat := (F.decode (F.maxCode false)).num.toNat
/-- An FP32 result of p / q units of 2^-149 rounded once with RNE, with no invalid operation: an exact zero has the sign given, and from halfway past the
greatest finite value on it is an infinity (R68, R69). -/
def Rounded32 (p : Int) (q : Nat) (zneg : Bool) (r : W32 × Bool) : Prop :=
  r.2 = false ∧ (p = 0 → r.1 = if zneg then 0x80000000 else 0) ∧
  (p ≠ 0 → p.natAbs < (2 ^ 25 - 1) * 2 ^ 252 * q → Rounds f32 .rne p q r.1.toNat) ∧
  ((2 ^ 25 - 1) * 2 ^ 252 * q ≤ p.natAbs → r.1 = inf32 (decide (p < 0)))
/-- Element (i, j) of a tile of accumulators. -/
def AccTile.elem (t : AccTile) (i j : Nat) : W32 := Row.lane (Sparse.get 0 t.rows (2 * i + j / 64)) (j % 64)

/-- A packet's stack, bottom first. -/
def StackIs (p : Packet) (l : List W32) : Prop := p.sp = l.length ∧ ∀ i, i < l.length → p.places[i]? = l[i]?

/-- The access takes its turn at the home's slice: no replay holds it back (R415, R417); its request leaves on the ring or the mesh, with the bytes
it brings (R396, R397). -/
def Turns (l : Loc) (s v : State) (bs : List Byte := []) : Prop :=
  ∃ r, s.turnAt s.core.place.part (s.accessWho 0) l = some r ∧ v = r.accessOut r.core.id l 1 bs false true

/-- A command gets its answer: the module does not show FATAL, and it is ready, or the command is an early one; a session of its
issuer is open for it, and no earlier command of its issuer on its port has still to answer (R377, R378, R413, R424). -/
def Accepts (h : CmdHdr) (early : Bool) (s : State) : Prop :=
  s.mgmt.pins ≠ .fatal ∧ (early = false → 6 ≤ s.mgmt.step) ∧ s.inSession h = true ∧
    ∀ c ∈ s.mgmt.journal, ¬(c.hdr.port = h.port ∧ c.hdr.issuer = h.issuer)
/-- The command names a partition that exists and is not draining (R379). -/
def NamesPart (part : Nat) (s : State) : Prop := part < 48 ∧ (s.partAt part).st ≠ .free ∧ (s.partAt part).st ≠ .draining
/-- The command names an assigned function, of that partition, which is not draining (R379). -/
def NamesVf (h : CmdHdr) (part : Nat) (s : State) : Prop := h.vfn < 192 ∧ (s.vfAt h.vfn).part = some part ∧ (s.partAt part).st ≠ .draining
/-- The command comes from the function itself, or from the hypervisor while the function's partition is not sealed (R370). -/
def Entitled (h : CmdHdr) (part : Nat) (s : State) : Prop := h.issuer = .vf h.vfn ∨ (h.issuer = .hyp ∧ (s.partAt part).isSealed = false)

end Sys2Proof.Machine
end

