-- ==== Sys2Proof/Certificates/Slice0/Obligations.lean ====
section
/-! DEFINITION. The statements about the module, for the provers: what its steps do, in the terms of Sys2Proof/Safety.lean. -/

open Sys2Proof Sys2Proof.Machine

/-! ### Reset, steps, encodings -/

/-- R15, R49, R24, R354, R357: what reset leaves. No context runs, SLIP and PRECFG hold their reset values, the flag registers are clear,
every partition is free, no function is assigned, no launch queue holds anything; every byte of memory reads as 0 (log entry 3). -/
def Obligations.ResetLeaves : Prop :=
  let s := State.reset
  s.core.place.run = .idle ∧ s.others = [] ∧ s.core.regs.slip = 256 ∧ s.core.regs.precfg = 0x00640064 ∧ s.core.regs.nfl = 0 ∧
  s.core.regs.hmode = false ∧ s.core.regs.mmode = .rne ∧ (∀ r : XR, (s.x r).val = 0 ∧ (s.x r).mark = Mark.empty) ∧
  (∀ p, (s.partAt p).st = .free) ∧ (∀ v, (s.vfAt v).part = none ∧ (s.vfAt v).launch = []) ∧ (∀ a, s.readByte a = 0)

/-- A step runs the decoded word: when the engine the agenda names may move, its core is the one that moves, and the word at its text
index is one of its own, decodes, does not run off the end of the text, and is no breakpoint it has yet to take, and M has no signal left to push, the step is
exec of the instruction, after the agenda has moved on.
A step of an errand lane runs the instruction its packet stands at.
An event or command of the operation table that the agenda names is executed as it stands, when it is one and well-formed. -/
def Obligations.StepRuns : Prop :=
  (∀ (s : State) (e : Engine) (l : List Agent) (i : Instr),
    s.agenda = .engine s.core.id e :: l → s.mgmt.pins ≠ .off →
    let v := { s with agenda := l, ticks := s.ticks + 1, act := e }
    v.mayMove e = true → (e = .m → v.core.mat.sigs = []) → offEnd e v.core.regs.hmode v.me.pc v.curWord = false → ownsWord e v.curWord = true → v.atBreakpoint = false →
    decodeWord v.curWord (v.core.wordAt (v.me.pc + 1)) = .ok i → step s = exec i v) ∧
  (∀ (s : State) (n : Nat) (l : List Agent) (j : LaneJob) (i : Instr),
    s.agenda = .lane n :: l → s.mgmt.pins ≠ .off →
    let v := { s with agenda := l, ticks := s.ticks + 1, lane := n }
    v.laneJob n = some j → decodeErrand ((j.pkt.code.getD []).getD j.pkt.pc 0) = .ok i → step s = exec i v) ∧
  (∀ (s : State) (l : List Agent) (i : Instr),
    s.agenda = .event i :: l → s.mgmt.pins ≠ .off → isEvent i = true → i.wellFormed = true →
    step s = exec i { s with agenda := l, ticks := s.ticks + 1 })

/-- Words written out from the spec's encodings decode to the instructions they stand for: one of each engine, and errand instructions. -/
def Obligations.WordsDecode : Prop :=
  (decodeTableWord 32 0x00010004 = some (.add none none 0 0 2)) ∧
  (decodeTableWord 32 0xE0090000 = some .halt) ∧
  (decodeTableWord 32 0x00133000 = some (.movx none none 6 0)) ∧
  (decodeTableWord 32 0x2007A040 = some (.spld none none 1 64)) ∧
  (decodeTableWord 32 0x40282000 = some (.vpop none none 4 0)) ∧
  (decodeTableWord 32 0x60032000 = some (.mzero none none 1)) ∧
  (decodeTableWord 32 0x80066000 = some (.pcoll none none 6)) ∧
  (decodeTableWord 16 0x0001 = some (.errandPushi 1)) ∧
  (decodeTableWord 16 0x3000 = some .errandAdd) ∧
  (decodeTableWord 16 0xE000 = some .deliv)

/-- Decoding gives back every well-formed text instruction from the words its encoding gives, the long bit as its length says: every operand at
every value. The same of every well-formed errand instruction. -/
def Obligations.EncodingRoundTrip : Prop :=
  (∀ (i : Instr) (w : W32) (x : Option W32), i.wellFormed = true → encodeText i = some (w, x) →
    bit w 22 = x.isSome ∧ decodeWord w (x.getD 0) = .ok i) ∧
  (∀ (i : Instr) (h : W16), i.wellFormed = true → encodeErrand i = some h → decodeErrand h = .ok i)

/-- Memory keeps its canonical form in every step, from every state that has it. -/
def Obligations.MemoryFormKept : Prop :=
  ∀ s t : State, Memory.wf s.mem = true → step s = .next t → Memory.wf t.mem = true

/-- Reset memory has it. -/
def Obligations.MemoryFormAtReset : Prop := Memory.wf State.reset.mem = true

/-! ### Passing a word -/

/-- R19: a word whose wait queue is empty leaves everything as it was but the blocking reason of its engine; a word whose effects are
complete and whose signal queue is full waits with them done. A signal has room while fewer than 15 tokens stand in its queue, and a token taken by a
word still unfinished counts among them, which is log entry 92's reading. R19, R260: what a wait takes. A word without a wait takes nothing; a wait
takes one token of its queue, once, and changes no register, no queue of data, no memory; of the port, a line S read early may be given up, which is
log entry 31's. -/
def Obligations.WordTokens : Prop :=
  ((∀ (w g : Tok) (len : Nat) (h : Bool) (body : State → WordRes) (s : State),
    s.takeWait w = none → s.core.regs.hmode = false → s.me.done = false → s.core.slips s.act len = false →
    runWord w g len h body s = .next (s.onEng s.act (Eng.wait .tokenWait))) ∧
  (∀ (d : Engine) (pc len : Nat) (v : State), v.core.tokRoom v.act d = false →
    let t := finishWord (some d) pc len v
    (∀ a b, t.core.tok a b = v.core.tok a b) ∧ (t.core.eng v.act).done = true ∧ (t.core.eng v.act).blk = .tokenFull ∧
    (t.core.eng v.act).pc = (v.core.eng v.act).pc ∧ t.core.regs = v.core.regs ∧ t.mem = v.mem)) ∧
  (∀ (w : Tok) (s u : State), s.takeWait w = some u →
    u = { s with core := { s.core with walk := u.core.walk, port := { s.core.port with early := u.core.port.early } } } ∧
    (∀ a b, u.core.tok a b + (if w = some a ∧ b = s.act ∧ s.me.popped = false then 1 else 0) = s.core.tok a b) ∧
    u.core.walk.text = s.core.walk.text ∧ u.core.walk.faults = s.core.walk.faults ∧
    (∀ e, (u.core.eng e).pc = (s.core.eng e).pc ∧ (u.core.eng e).six = (s.core.eng e).six ∧ (u.core.eng e).stack = (s.core.eng e).stack))

/-- R41, R42: an engine that raises a fault halts at its word: its index and stream index stand, the fault is kept with its cause, engine, text
index and address, and every register, queue of data and byte of memory is as it was. -/
def Obligations.FaultHaltsEngine : Prop :=
  ∀ (c : Cause) (ist addr : W64) (pages : List PageMiss) (s : State),
    let t := raiseFault c ist addr pages s
    (t.core.eng s.act).blk = .faulted ∧ (t.core.eng s.act).pc = s.me.pc ∧ (t.core.eng s.act).six = s.me.six ∧
    t.core.walk.faults = s.core.walk.faults ++
      [⟨c, s.act, s.me.pc, s.me.six, ist, addr, s.core.regs.hmode && s.act == .s, pages⟩] ∧
    t.core.regs = s.core.regs ∧ t.core.q = s.core.q ∧ t.core.port = s.core.port ∧ t.mem = s.mem ∧ t.others = s.others

/-! ### Control words -/

/-- R119 to R122: the words that jump. JMP goes to its index plus OFF, BR.K goes there when its condition holds and on otherwise; a branch that is
taken to a target outside the text raises ILLEGAL. CALL pushes the index after it, or raises ILLEGAL at depth 8; RET pops its entry and returns, or raises
ILLEGAL when the top is no call entry. LOOP pushes an entry with its count, or goes past the ENDL it names when the count is 0; it raises
ILLEGAL when END names no ENDL or, with a count, at depth 8. ENDL goes back while passes are left and goes on after the last, and raises ILLEGAL when the top is
no loop entry of its own. BRK leaves L + 1 loops when its condition holds, or raises ILLEGAL when there are not so many or a call entry stands among them.
Each engine does so with its own loop stack; nothing else changes. NOPA goes on. -/
def Obligations.JumpsCallsLoops : Prop :=
  (∀ (e : Engine) (s : State),
    (∀ o : BitVec 15, ReadyControl e 1 true s →
      let dest : Int := (s.me.pc : Int) + o.toInt
      (0 ≤ dest → dest < 16384 → ∃ t, exec (.jmp o) s = .next t ∧ Passed e none dest.toNat 1 s t) ∧
      (dest < 0 ∨ 16384 ≤ dest → exec (.jmp o) s = .next (illegalControl s))) ∧
    (∀ (k : KR) (c : Kcc) (o : BitVec 9), ReadyControl e 1 true s → c = .always ∨ s.kAhead = false →
      let dest : Int := (s.me.pc : Int) + o.toInt
      (kccHolds c (s.k k).val = true → 0 ≤ dest → dest < 16384 → ∃ t, exec (.brK k c o) s = .next t ∧ Passed e none dest.toNat 1 s t) ∧
      (kccHolds c (s.k k).val = true → dest < 0 ∨ 16384 ≤ dest → exec (.brK k c o) s = .next (illegalControl s)) ∧
      (kccHolds c (s.k k).val = false → s.me.pc + 1 < 16384 →
        ∃ t, exec (.brK k c o) s = .next t ∧ Passed e none (s.me.pc + 1) 1 s t)) ∧
    (∀ o : BitVec 15, ReadyControl e 1 false s →
      let dest : Int := (s.me.pc : Int) + o.toInt
      (s.me.stack.length < 8 → 0 ≤ dest → dest < 16384 →
        ∃ t, exec (.call o) s = .next t ∧ Passed e none dest.toNat 1 (s.setStack (.call (s.me.pc + 1) :: s.me.stack)) t) ∧
      (8 ≤ s.me.stack.length ∨ dest < 0 ∨ 16384 ≤ dest → exec (.call o) s = .next (illegalControl s))) ∧
    (ReadyControl e 1 false s →
      (∀ (back : Nat) (rest : List Frame), s.me.stack = .call back :: rest → back < 16384 →
        ∃ t, exec .ret s = .next t ∧ Passed e none back 1 (s.setStack rest) t) ∧
      ((∀ back rest, s.me.stack ≠ .call back :: rest) → exec .ret s = .next (illegalControl s))) ∧
    (ReadyControl e 1 true s → s.me.pc + 1 < 16384 → ∃ t, exec .nopa s = .next t ∧ Passed e none (s.me.pc + 1) 1 s t)) ∧
  (∀ (e : Engine) (s : State),
    (∀ (k : KR) (o : Fin 2048), ReadyControl e 1 false s → s.kAhead = false →
      (1 ≤ o.val → s.me.pc + o.val + 1 < 16384 → s.core.wordAt (s.me.pc + o.val) = 0xE0020000 →
        ((s.k k).val = 0 → ∃ t, exec (.loop k o) s = .next t ∧ Passed e none (s.me.pc + o.val + 1) 1 s t) ∧
        ((s.k k).val ≠ 0 → s.me.stack.length < 8 → ∃ t, exec (.loop k o) s = .next t ∧
          Passed e none (s.me.pc + 1) 1 (s.setStack (.loop (s.me.pc + 1) (s.me.pc + o.val) (s.k k).val :: s.me.stack)) t) ∧
        ((s.k k).val ≠ 0 → 8 ≤ s.me.stack.length → exec (.loop k o) s = .next (illegalControl s))) ∧
      (o.val = 0 ∨ 16384 ≤ s.me.pc + o.val ∨ s.core.wordAt (s.me.pc + o.val) ≠ 0xE0020000 → exec (.loop k o) s = .next (illegalControl s))) ∧
    (∀ (o : Fin 2048) (c : W32), ReadyControl e 2 false s →
      (2 ≤ o.val → s.me.pc + o.val + 1 < 16384 → s.core.wordAt (s.me.pc + o.val) = 0xE0020000 →
        (c = 0 → ∃ t, exec (.loopCount o c) s = .next t ∧ Passed e none (s.me.pc + o.val + 1) 2 s t) ∧
        (c ≠ 0 → s.me.stack.length < 8 → ∃ t, exec (.loopCount o c) s = .next t ∧
          Passed e none (s.me.pc + 2) 2 (s.setStack (.loop (s.me.pc + 2) (s.me.pc + o.val) c :: s.me.stack)) t) ∧
        (c ≠ 0 → 8 ≤ s.me.stack.length → exec (.loopCount o c) s = .next (illegalControl s))) ∧
      (o.val < 2 ∨ 16384 ≤ s.me.pc + o.val ∨ s.core.wordAt (s.me.pc + o.val) ≠ 0xE0020000 → exec (.loopCount o c) s = .next (illegalControl s))) ∧
    (ReadyControl e 1 false s →
      (∀ (body : Nat) (left : W32) (rest : List Frame), s.me.stack = .loop body s.me.pc left :: rest →
        (left ≠ 1 → body < 16384 → ∃ t, exec .endl s = .next t ∧ Passed e none body 1 (s.setStack (.loop body s.me.pc (left - 1) :: rest)) t) ∧
        (left = 1 → s.me.pc + 1 < 16384 → ∃ t, exec .endl s = .next t ∧ Passed e none (s.me.pc + 1) 1 (s.setStack rest) t)) ∧
      ((∀ body left rest, s.me.stack ≠ .loop body s.me.pc left :: rest) → exec .endl s = .next (illegalControl s))) ∧
    (∀ (k : KR) (c : Kcc) (l : Fin 8), ReadyControl e 1 false s → c = .always ∨ s.kAhead = false →
      (∀ fin : Nat, kccHolds c (s.k k).val = true → (∀ i, i ≤ l.val → ∃ b f n, s.me.stack[i]? = some (.loop b f n)) →
        (∃ b n, s.me.stack[l.val]? = some (.loop b fin n)) → fin + 1 < 16384 →
        ∃ t, exec (.brk k c l) s = .next t ∧ Passed e none (fin + 1) 1 (s.setStack (s.me.stack.drop (l.val + 1))) t) ∧
      (kccHolds c (s.k k).val = true → s.me.stack.length ≤ l.val ∨ (∃ i b, i ≤ l.val ∧ s.me.stack[i]? = some (.call b)) →
        exec (.brk k c l) s = .next (illegalControl s)) ∧
      (kccHolds c (s.k k).val = false → s.me.pc + 1 < 16384 →
        ∃ t, exec (.brk k c l) s = .next t ∧ Passed e none (s.me.pc + 1) 1 s t)))

/-- R46, R47, R123, R31, R125: an engine stops at HALT with its loop stack empty; at a PPOINT it goes on, its masks recorded, when the
instance was decided against a stop, and stops there when it was decided for one; at a JOBNEXT that has its job, S takes the indices
into K0 to K3 and every engine goes on with an empty loop stack. -/
def Obligations.HaltPointJobnext : Prop :=
  ∀ (e : Engine) (s : State), ReadyControl e 1 false s →
    ((∃ f, f ≠ e ∧ (s.core.eng f).blk ≠ .atHalt) → ∃ t, exec .halt s = .next t ∧ (t.core.eng e).blk = .atHalt ∧
      (t.core.eng e).stack = [] ∧ (∀ f, f ≠ e → t.core.eng f = s.core.eng f) ∧ t.core.regs = s.core.regs ∧ t.core.q = s.core.q ∧
      t.core.port = s.core.port ∧ t.mem = s.mem ∧ t.others = s.others ∧ t.disp = s.disp) ∧
    (∀ (m : BitVec 8) (g : BitVec 4) (d : W32 × Bool), s.core.walk.decisions.find? (fun d => d.1 == s.me.six) = some d →
      (d.2 = false → s.me.pc + 1 < 16384 → ∃ t v, exec (.ppoint m g) s = .next t ∧ Passed e none (s.me.pc + 1) 1 v t ∧
        v = (s.onWalk fun w => { w with points := v.core.walk.points }) ∧
        (∃ p ∈ v.core.walk.points, p.pos = s.me.six) ∧
        ((∀ p ∈ s.core.walk.points, p.pos ≠ s.me.six) → v.core.walk.points = ⟨s.me.six, m, g⟩ :: s.core.walk.points)) ∧
      (d.2 = true → exec (.ppoint m g) s = .next (s.onEng e fun x => { x with atPoint := true }))) ∧
    (∀ (k : Task) (j : Nat) (give : JobGive), s.curTask = some k →
      s.core.walk.jobGives.find? (fun d => d.pos == s.me.six) = some give → give.job = some j → s.me.pc + 1 < 16384 →
      (e ≠ .s → ∃ t, exec .jobnext s = .next t ∧ Passed e none (s.me.pc + 1) 1 (s.setStack []) t) ∧
      (e = .s → s.core.journalRoom 4 = true → ∃ t, exec .jobnext s = .next t ∧
        Passed e none (s.me.pc + 1) 1 ((s.onCore (Core.writeIndices (k.r.indices j))).setStack []) t))

/-! ### S: registers -/

/-- R127: the 64-bit result of every two-operand form, of registers and of an immediate, which is sign-extended; XD's earmark is the union of the operands', an
immediate's being empty, and XD has the context's generation; nothing else changes but the walk, and no form raises a cause. -/
def Obligations.STwoOperandForms : Prop :=
  ∀ (w g : Tok) (d a b : XR) (i : W32) (s u : State),
    let x : W64 := (u.x a).val
    let result (y : W64) : List W64 := [x + y, x - y, x &&& y, x ||| y, x ^^^ y, x &&& ~~~y, x <<< (y.toNat % 64), x >>> (y.toNat % 64),
      x.sshiftRight (y.toNat % 64), x * y, (x.signExtend 128 * y.signExtend 128).extractLsb' 64 64, if y = 0 then -1 else x.sdiv y,
      if y = 0 then x else x.srem y, if x.sle y then x else y, if x.sle y then y else x, if x = y then 1 else 0, if x = y then 0 else 1,
      if x.toInt < y.toInt then 1 else 0, if y.toInt ≤ x.toInt then 1 else 0, if x.toNat < y.toNat then 1 else 0,
      if y.toNat ≤ x.toNat then 1 else 0]
    (Ready .s w g 1 true s u → ∀ p ∈ ([.add w g d a b, .sub w g d a b, .and w g d a b, .or w g d a b, .xor w g d a b, .andn w g d a b, .shl w g d a b,
        .shr w g d a b, .sra w g d a b, .mul w g d a b, .mulh w g d a b, .div w g d a b, .rem w g d a b, .min w g d a b, .max w g d a b, .cmpEq w g d a b,
        .cmpNe w g d a b, .cmpLt w g d a b, .cmpGe w g d a b, .cmpLtu w g d a b, .cmpGeu w g d a b] : List Instr).zip (result (u.x b).val),
      ∃ t, exec p.1 s = .next t ∧ Passed .s g (s.me.pc + 1) 1 (u.setX d p.2 ((u.x a).mark.union (u.x b).mark)) t) ∧
    (Ready .s w g 2 true s u → ∀ p ∈ ([.addImm w g d a i, .subImm w g d a i, .andImm w g d a i, .orImm w g d a i, .xorImm w g d a i, .andnImm w g d a i,
        .shlImm w g d a i, .shrImm w g d a i, .sraImm w g d a i, .mulImm w g d a i, .mulhImm w g d a i, .divImm w g d a i, .remImm w g d a i, .minImm w g d a i,
        .maxImm w g d a i, .cmpEqImm w g d a i, .cmpNeImm w g d a i, .cmpLtImm w g d a i, .cmpGeImm w g d a i, .cmpLtuImm w g d a i, .cmpGeuImm w g d a i]
        : List Instr).zip (result (i.signExtend 64)),
      ∃ t, exec p.1 s = .next t ∧ Passed .s g (s.me.pc + 2) 2 (u.setX d p.2 ((u.x a).mark.union Mark.empty)) t)

/-- R128: SEL, LI, MOVX, CLZ, POPC, BFX and BFI. The field of BFX and BFI is said bit by bit, for the fields R99 admits. -/
def Obligations.SRemainingForms : Prop :=
  ∀ (w g : Tok) (s u : State),
    (Ready .s w g 1 true s u →
      (∀ d a b : XR, ∃ t, exec (.sel w g d a b) s = .next t ∧ Passed .s g (s.me.pc + 1) 1
        (u.setX d (if (u.x d).val ≠ 0 then (u.x a).val else (u.x b).val) (((u.x d).mark.union (u.x a).mark).union (u.x b).mark)) t) ∧
      (∀ (d : XR) (i : BitVec 11), ∃ t, exec (.li w g d i) s = .next t ∧
        Passed .s g (s.me.pc + 1) 1 (u.setX d (i.signExtend 64) Mark.empty) t) ∧
      (∀ (d : XR) (k : KR), ∃ t, exec (.movx w g d k) s = .next t ∧
        Passed .s g (s.me.pc + 1) 1 (u.setX d ((u.k k).val.signExtend 64) (u.k k).mark) t) ∧
      (∀ d a : XR, ∃ (t : State) (n : Nat), exec (.clz w g d a) s = .next t ∧
        Passed .s g (s.me.pc + 1) 1 (u.setX d (BitVec.ofNat 64 n) (u.x a).mark) t ∧ n ≤ 64 ∧
        (u.x a).val.toNat < 2 ^ (64 - n) ∧ (n < 64 → 2 ^ (63 - n) ≤ (u.x a).val.toNat)) ∧
      (∀ d a : XR, ∃ t, exec (.popc w g d a) s = .next t ∧ Passed .s g (s.me.pc + 1) 1
        (u.setX d (BitVec.ofNat 64 (((List.range 64).filter fun i => (u.x a).val.getLsbD i).length)) (u.x a).mark) t)) ∧
    (Ready .s w g 2 true s u →
      (∀ (d a : XR) (i : W32), ∃ t, exec (.selImm w g d a i) s = .next t ∧ Passed .s g (s.me.pc + 2) 2
        (u.setX d (if (u.x d).val ≠ 0 then (u.x a).val else i.signExtend 64)
          (((u.x d).mark.union (u.x a).mark).union Mark.empty)) t) ∧
      (∀ (d : XR) (i : W32), ∃ t, exec (.liLong w g d i) s = .next t ∧
        Passed .s g (s.me.pc + 2) 2 (u.setX d (i.signExtend 64) Mark.empty) t) ∧
      (∀ (d : XR) (i : W32), ∃ (t : State) (v : W64), exec (.liHi w g d i) s = .next t ∧
        Passed .s g (s.me.pc + 2) 2 (u.setX d v (u.x d).mark) t ∧ v.extractLsb' 32 32 = i ∧
        v.extractLsb' 0 32 = (u.x d).val.extractLsb' 0 32) ∧
      (∀ (d a : XR) (wm1 pos : Fin 64), pos.val + wm1.val < 64 →
        (∃ (t : State) (v : W64), exec (.bfx w g d a wm1 pos) s = .next t ∧ Passed .s g (s.me.pc + 2) 2 (u.setX d v (u.x a).mark) t ∧
          ∀ j, v.getLsbD j = (decide (j ≤ wm1.val) && (u.x a).val.getLsbD (pos.val + j))) ∧
        (∃ (t : State) (v : W64), exec (.bfi w g d a wm1 pos) s = .next t ∧
          Passed .s g (s.me.pc + 2) 2 (u.setX d v ((u.x d).mark.union (u.x a).mark)) t ∧
          ∀ j, j < 64 → v.getLsbD j = (if pos.val ≤ j ∧ j ≤ pos.val + wm1.val then (u.x a).val.getLsbD (j - pos.val) else (u.x d).val.getLsbD j))))

/-- R16, R17, R128: MOVK writes K at S's stream index: S sees it at once; every other engine takes it into its journal, or at once when it has
come further than S. -/
def Obligations.KWrites : Prop :=
  ∀ (w g : Tok) (k : KR) (s u : State), u.core.journalRoom 1 = true →
    (∀ a : XR, Ready .s w g 1 false s u → ∃ t v, exec (.movk w g a k) s = .next t ∧ Passed .s g (s.me.pc + 1) 1 v t ∧
      Wrote k ⟨(u.x a).val.extractLsb' 0 32, u.gen, (u.x a).mark⟩ u v) ∧
    (∀ i : W32, Ready .s w g 2 false s u → ∃ t v, exec (.movkImm w g k i) s = .next t ∧ Passed .s g (s.me.pc + 2) 2 v t ∧
      Wrote k ⟨i, u.gen, Mark.empty⟩ u v)

/-! ### S: memory -/

/-- R129: a load leaves the bytes of its address, zero-extended, in XD, with the earmark of the address unioned with that of the data's page; it
changes no other register and no byte of memory. Where a store of S to its bytes has not performed yet, or a line was read early, the load may take
them there (R130, as log entry 31 lets it): it then asks no home. A store is accepted by the port with the low bytes of XD; it changes no
register and, until it is applied, no byte of memory. -/
def Obligations.LoadsAndStores : Prop :=
  ∀ (w g : Tok) (d a : XR) (c : Ocl) (z : Sz) (off : W32) (s u : State) (tg : Target) (l : Loc) (v : State),
    ∀ p ∈ ([(1, 0, .ld w g d a c z, .st w g d a c z), (2, off.signExtend 64, .ldOffset w g d a c z off, .stOffset w g d a c z off)]
      : List (Nat × W64 × Instr × Instr)), Ready .s w g p.1 true s u →
      (∀ r, Reaches .ls false true false z.bytes z.code c ((u.x a).val + p.2.1) tg l u v → u.loadLocal l z.bytes c = none →
        v.mustWait c (l.keys z.bytes) = false → Turns l v r →
        ∃ t, exec p.2.2.1 s = .next t ∧ Passed .s g (s.me.pc + p.1) p.1
          ((r.readDone l z.bytes).setX d (BitVec.ofNat 64 (leNat (r.readLoc l z.bytes).1)) ((r.x a).mark.union (r.readLoc l z.bytes).2)) t) ∧
      (∀ bs m, Reaches .ls false true false z.bytes z.code c ((u.x a).val + p.2.1) tg l u v → u.loadLocal l z.bytes c = some (bs, m) →
        ∃ t, exec p.2.2.1 s = .next t ∧ Passed .s g (s.me.pc + p.1) p.1
          ((v.readDone l z.bytes).setX d (BitVec.ofNat 64 (leNat bs)) ((v.x a).mark.union m)) t) ∧
      (Reaches .ls true false false z.bytes z.code c ((u.x a).val + p.2.1) tg l u v →
        ∃ t, exec p.2.2.2 s = .next t ∧ Passed .s g (s.me.pc + p.1) p.1 (v.onPort fun q => { q with
          pend := q.pend ++ [⟨.s, c, v.gen, none, [.store l (natLe (v.x d).val.toNat z.bytes) ((v.x d).mark.union (v.x a).mark)], 0, Mark.empty, false⟩] }) t)

/-- R131, R132: every integer AMO reads the word at its address into XD and stores its result there, in one action, with AMOST left 0 but
for the CMPF bit of a compare that failed.
R131, R132, R77, R78: the floating AMOs of a 4-byte word of a page that is no sum region. -/
def Obligations.Atomics : Prop :=
  (∀ (w g : Tok) (d a b : XR) (w32 : Bool) (c : Ocl) (s u v r : State) (hpa frame : Nat) (sum : Bool) (e : Int),
    let n := if w32 then 4 else 8
    ∀ p ∈ ([(.amoAdd w g d a b w32, .amoAddClass w g d a b w32 c, false, fun m x _ => (m + x) % 2 ^ (8 * n)),
        (.amoMin w g d a b w32, .amoMinClass w g d a b w32 c, false, fun m x _ => if sextNat (8 * n) m ≤ sextNat (8 * n) x then m else x),
        (.amoMax w g d a b w32, .amoMaxClass w g d a b w32 c, false, fun m x _ => if sextNat (8 * n) x ≤ sextNat (8 * n) m then m else x),
        (.amoAnd w g d a b w32, .amoAndClass w g d a b w32 c, false, fun m x _ => m &&& x),
        (.amoOr w g d a b w32, .amoOrClass w g d a b w32 c, false, fun m x _ => m ||| x),
        (.amoXor w g d a b w32, .amoXorClass w g d a b w32 c, false, fun m x _ => m ^^^ x),
        (.amoSwap w g d a b w32, .amoSwapClass w g d a b w32 c, false, fun _ x _ => x),
        (.amoCas w g d a b w32, .amoCasClass w g d a b w32 c, true, fun m x k => if m = k then x else m)]
        : List (Instr × Instr × Bool × (Nat → Nat → Nat → Nat))),
      ∀ q ∈ ([(1, 0, p.1), (2, c, p.2.1)] : List (Nat × Ocl × Instr)), Ready .s w g q.1 true s u →
        Reaches .home true true true n (if w32 then 2 else 3) q.2.1 (u.x a).val (.mem hpa frame sum e) (.mem hpa frame) u v →
        Turns (.mem hpa frame) v r (natLe ((v.x b).val.toNat % 2 ^ (8 * n)) n ++ if p.2.2.1 then natLe ((v.x d).val.toNat % 2 ^ (8 * n)) n else []) →
        let old := leNat (r.seen r.core.place.part hpa n)
        let cmp := (r.x d).val.toNat % 2 ^ (8 * n)
        let ops := (r.x a).mark.union (r.x b).mark
        ∃ t, exec q.2.2 s = .next t ∧ Passed .s g (s.me.pc + q.1) q.1
          (((r.writeData r.core.place.part r.gen .plain hpa frame
            (natLe (p.2.2.2 old ((r.x b).val.toNat % 2 ^ (8 * n)) cmp) n) ops).setX d (BitVec.ofNat 64 old)
            (((r.pageMark frame).union ops).union (if p.2.2.1 then (r.x d).mark else Mark.empty))).writeAmost false
            (p.2.2.1 && decide (old ≠ cmp))) t) ∧
  (∀ (w g : Tok) (d a b : XR) (c : Ocl) (s u v r : State) (hpa frame : Nat) (e : Int),
    ∀ p ∈ ([(.amoFadd w g d a b, .amoFaddClass w g d a b c, fadd), (.amoFmin w g d a b, .amoFminClass w g d a b c, fminmax false),
        (.amoFmax w g d a b, .amoFmaxClass w g d a b c, fminmax true)] : List (Instr × Instr × (W32 → W32 → W32 × Bool))),
      ∀ q ∈ ([(1, 0, p.1), (2, c, p.2.1)] : List (Nat × Ocl × Instr)), Ready .s w g q.1 true s u →
        Reaches .home true true true 4 2 q.2.1 (u.x a).val (.mem hpa frame false e) (.mem hpa frame) u v →
        Turns (.mem hpa frame) v r (natLe ((v.x b).val.toNat % 2 ^ 32) 4) →
        let old := leNat (r.seen r.core.place.part hpa 4)
        let res := p.2.2 (BitVec.ofNat 32 old) ((r.x b).val.extractLsb' 0 32)
        let ops := (r.x a).mark.union (r.x b).mark
        ∃ t, exec q.2.2 s = .next t ∧ Passed .s g (s.me.pc + q.1) q.1
          (((r.writeData r.core.place.part r.gen .plain hpa frame (natLe res.1.toNat 4) ops).setX d (BitVec.ofNat 64 old)
            (((r.pageMark frame).union ops).union Mark.empty)).writeAmost res.2 false) t)

/-- R133: FENCE.C ends when every accepted store of S in a class of its mask has performed, at once at scope core; it changes nothing but that a line
read early no longer serves the classes of its mask, which is log entry 31's.
R134: WAITM ends at once with status 1 when the doubleword differs from XB; otherwise it arms a monitor on the line, woken already when a stop is asked for, and waits, with its
deadline; and once its wait has a status it ends with it, XD's earmark the one its read gave. -/
def Obligations.FencesAndWaits : Prop :=
  (∀ (w g : Tok) (m : W16) (sc : Lvl) (s u : State), Ready .s w g 2 false s u → m ≠ 0 →
    (sc = .core ∨ ∀ p ∈ u.core.port.pend, p.eng = .s → m.toNat / 2 ^ p.cls.val % 2 = 0) →
    ∃ t, exec (.fenceC w g m sc) s = .next t ∧ Passed .s g (s.me.pc + 2) 2 (u.onCore (Core.dropEarly m.toNat)) t) ∧
  (∀ (w g : Tok) (d a b : XR) (n : W32) (s u : State),
    ∀ p ∈ ([(1, 0, .waitm w g d a b), (2, n, .waitmLong w g d a b n)] : List (Nat × W32 × Instr)), Ready .s w g p.1 true s u →
      (∀ (tg : Target) (l : Loc) (v r : State), u.core.waits.waitm = none → Reaches .home false true true 8 3 0 (u.x a).val tg l u v → Turns l v r →
        let m := ((r.readLoc l 8).2.union (r.x a).mark).union (r.x b).mark
        (BitVec.ofNat 64 (leNat (r.readLoc l 8).1) ≠ (r.x b).val → ∃ t, exec p.2.2 s = .next t ∧ Passed .s g (s.me.pc + p.1) p.1
          (((r.readDone l 8).onWaits fun x => { x with waitm := none }).setX d 1 m) t) ∧
        (∀ hpa frame, l = .mem hpa frame → BitVec.ofNat 64 (leNat (r.readLoc l 8).1) = (r.x b).val → ∃ t, exec p.2.2 s = .next t ∧
          t.core.waits.waitm = some ⟨hpa, if p.2.1 = 0 then none else some (r.gcc + p.2.1.setWidth 64), m, none⟩ ∧
          ⟨lineOf hpa, r.core.id, if r.core.walk.softReq || r.core.walk.hardStop then some .wake else none⟩ ∈ t.gran.monitors ∧
          (t.core.eng .s).blk = .monitor ∧ t.core.regs = r.core.regs ∧ (Memory.wf r.mem = true → ∀ x, t.readByte x = r.readByte x))) ∧
      (∀ x st, u.core.waits.waitm = some x → x.status = some st → ∃ t, exec p.2.2 s = .next t ∧ Passed .s g (s.me.pc + p.1) p.1
        ((u.onWaits fun y => { y with waitm := none }).setX d (BitVec.ofNat 64 st) x.mark) t))

/-- R136 to R138: BAR that finds the object killed gives GONE, one whose level counts another number than the round's gives MISMATCH, the last
to arrive opens the next generation and releases the others with status 0, any earlier one is counted and waits; a waiter that has its status ends
with it, and one that a stop found waiting reads the object again where its arrival found it (log entry 76) and ends with GONE, OK, RESET or TORN, or waits on. BARINIT and BARKILL write the object, release its waiters with RESET or GONE, and give their number. That the object's page takes XA's
earmark, and XB's too at BARINIT, is log entry 33's reading. -/
def Obligations.Barriers : Prop :=
  ∀ (w g : Tok) (d a b : XR) (lv : Lvl) (i : W32) (s u v r : State) (hpa frame : Nat) (sum : Bool) (e : Int),
    (Ready .s w g 1 false s u →
      (u.core.waits.bar = none → u.domCount lv ≠ 0 → (lv = .core ∨ u.core.storesIn 0xFFFF = false) →
        Reaches .home true true true 16 4 0 (u.x a).val (.mem hpa frame sum e) (.mem hpa frame) u v → Turns (.mem hpa frame) v r →
        let o := r.barObj hpa
        let m := (v.x a).mark.union (r.pageMark frame)
        (o.state = 1 → ∃ t, exec (.bar w g d a lv) s = .next t ∧ Passed .s g (s.me.pc + 1) 1 (r.setX d (barX 2 o.gen) m) t) ∧
        (o.state ≠ 1 → o.arrived ≠ 0 → o.expect ≠ u.domCount lv →
          ∃ t, exec (.bar w g d a lv) s = .next t ∧ Passed .s g (s.me.pc + 1) 1 (r.setX d (barX 4 o.gen) m) t) ∧
        (o.state ≠ 1 → (o.arrived = 0 ∨ o.expect = u.domCount lv) → o.arrived + 1 = u.domCount lv →
          ∃ t, exec (.bar w g d a lv) s = .next t ∧ Passed .s g (s.me.pc + 1) 1
            (((r.writeBar hpa frame { o with arrived := 0, expect := 0, gen := o.gen + 1, lastrel := 0 } (v.x a).mark).releaseBar
              (fun h => h == hpa) 0).setX d (barX 0 (o.gen + 1)) m) t) ∧
        (o.state ≠ 1 → (o.arrived = 0 ∨ o.expect = u.domCount lv) → o.arrived + 1 ≠ u.domCount lv →
          ∃ t, exec (.bar w g d a lv) s = .next t ∧ t.core.waits.bar = some ⟨hpa, frame, o.gen, m, none, false⟩ ∧ (t.core.eng .s).blk = .barrier ∧
            (t.core.eng .s).pc = s.me.pc ∧ t.core.regs = r.core.regs ∧
            t.mem = (r.writeBar hpa frame { o with expect := u.domCount lv, arrived := (o.arrived + 1) % 2 ^ 32 } (v.x a).mark).mem)) ∧
      (∀ x st gen, u.core.waits.bar = some x → x.status = some (st, gen) → ∃ t, exec (.bar w g d a lv) s = .next t ∧
        Passed .s g (s.me.pc + 1) 1 ((u.onWaits fun y => { y with bar := none }).setX d (barX st gen) x.mark) t) ∧
      (∀ (x : BarState) (z : State), u.core.waits.bar = some x → x.status = none → x.again = true → u.poisoned x.hpa 16 = false →
        Turns (.mem x.hpa x.frame) u z →
        let o := z.barObj x.hpa
        let y := z.readDone (.mem x.hpa x.frame) 16
        let ends (st : Nat) : State := (y.onWaits fun w => { w with bar := none }).setX d (barX st o.gen) (x.mark.union (z.pageMark x.frame))
        (o.state = 1 → ∃ t, exec (.bar w g d a lv) s = .next t ∧ Passed .s g (s.me.pc + 1) 1 (ends 2) t) ∧
        (o.state ≠ 1 → o.gen ≠ x.gen → ∃ t, exec (.bar w g d a lv) s = .next t ∧
          Passed .s g (s.me.pc + 1) 1 (ends (if o.lastrel = 0 then 0 else if o.lastrel = 1 then 1 else 3)) t) ∧
        (o.state ≠ 1 → o.gen = x.gen → ∃ t, exec (.bar w g d a lv) s = .next t ∧ t.core.waits.bar = some { x with again := false } ∧
          (t.core.eng .s).blk = .barrier ∧ (t.core.eng .s).pc = s.me.pc ∧ t.core.regs = z.core.regs ∧ t.mem = y.mem))) ∧
    (∀ p ∈ ([(1, .barinit w g d a b, 1, (r.x a).mark.union (r.x b).mark,
          { r.barObj hpa with arrived := 0, expect := 0, state := 0, lastrel := 1, gen := (r.x b).val.extractLsb' 0 32 }),
        (2, .barinitImm w g d a i, 1, (r.x a).mark, { r.barObj hpa with arrived := 0, expect := 0, state := 0, lastrel := 1, gen := i }),
        (1, .barkill w g d a, 2, (r.x a).mark, { r.barObj hpa with state := 1 })] : List (Nat × Instr × Nat × Mark × BarObj)),
      Ready .s w g p.1 false s u →
      Reaches .home true true true 16 4 0 (u.x a).val (.mem hpa frame sum e) (.mem hpa frame) u v → Turns (.mem hpa frame) v r →
      ∃ t, exec p.2.1 s = .next t ∧ Passed .s g (s.me.pc + p.1) p.1
        (((r.writeBar hpa frame p.2.2.2.2 p.2.2.2.1).releaseBar (fun h => h == hpa) p.2.2.1).setX d (BitVec.ofNat 64 (r.barWaiters hpa))
          ((r.pageMark frame).union p.2.2.2.1)) t)

/-! ### S: scheduling, feeding M, traps, system registers -/

/-- R139, R140: in static mode CUR.NEXT advances the cursor, writes the next job's indices and 1, or 0 when the schedule is at its end; TLAUNCH
appends its address, with the function's count of launches, to the function's launch queue, whose function is then no longer idle, and gives 0, or 1
when that is full; no line read early serves S after it (log entry 31).
R141, R142: FMTW pushes a format word that R107 admits, RMODE a mode-change entry, while FQ has room. -/
def Obligations.SchedulingAndFeeding : Prop :=
  (∀ (w g : Tok) (d a : XR) (s u : State),
    (Ready .s w g 1 false s u → ∀ k, u.curTask = some k → k.r.static = true → u.core.journalRoom 4 = true →
      let cur := min (u.core.place.cursor + 1) u.core.place.count
      (cur < u.core.place.count →
        let j := u.core.place.first + cur * u.core.place.stride
        ∃ t, exec (.curNext w g d) s = .next t ∧ Passed .s g (s.me.pc + 1) 1
          (((u.onPlace fun p => { p with cursor := cur, job := j }).onCore (Core.writeIndices (k.r.indices j))).setX d 1 Mark.empty) t) ∧
      (u.core.place.count ≤ cur → ∃ t, exec (.curNext w g d) s = .next t ∧
        Passed .s g (s.me.pc + 1) 1 ((u.onPlace fun p => { p with cursor := cur }).setX d 0 Mark.empty) t)) ∧
    (Ready .s w g 1 true s u → (u.x a).val.toNat % 128 = 0 → u.core.storesIn 0xFFFF = false →
      let q := (u.vfAt u.core.place.vf).launch
      (q.length < 256 → ∃ t, exec (.tlaunch w g d a) s = .next t ∧ Passed .s g (s.me.pc + 1) 1
        (((u.setVf u.core.place.vf fun v => { v with launch := v.launch ++ [⟨(u.x a).val.toNat, none, v.launched⟩], launched := v.launched + 1, idle := false }).setX d 0
          (u.x a).mark).onCore (Core.dropEarly 0xFFFF)) t) ∧
      (256 ≤ q.length → ∃ t, exec (.tlaunch w g d a) s = .next t ∧ Passed .s g (s.me.pc + 1) 1 ((u.setX d 1 (u.x a).mark).onCore (Core.dropEarly 0xFFFF)) t))) ∧
  (∀ (w g : Tok) (a : XR) (fw : W32) (r : RMode) (s u : State), u.core.q.fq.length < 8 →
    let push (v : W32) (m : Mark) : State := u.onQ fun q => { q with fq := q.fq ++ [⟨v, u.gen, m⟩] }
    (Ready .s w g 1 false s u → fmtwOk ((u.x a).val.extractLsb' 0 32) = true →
      ∃ t, exec (.fmtw w g a) s = .next t ∧ Passed .s g (s.me.pc + 1) 1 (push ((u.x a).val.extractLsb' 0 32) (u.x a).mark) t) ∧
    (Ready .s w g 2 false s u → fmtwOk fw = true → ∃ t, exec (.fmtwImm w g fw) s = .next t ∧ Passed .s g (s.me.pc + 2) 2 (push fw Mark.empty) t) ∧
    (Ready .s w g 1 false s u → ∃ t, exec (.rmode w g r) s = .next t ∧
      Passed .s g (s.me.pc + 1) 1 (push (BitVec.ofNat 32 (2 ^ 31 + r.code)) Mark.empty) t))

/-- R143, R144: TRAP with the handler enabled takes S into it: HINFO holds the code and the index after the TRAP, S's stream index passes the TRAP
and S goes on at HVEC.ENTRY in the handler; the other engines stand where they stood. ERET brings S back to RETIX with its stream
index as it was. -/
def Obligations.InCoreHandler : Prop :=
  (∀ (w g : Tok) (c : BitVec 8) (s u : State), Ready .s w g 1 false s u → s.core.regs.hmode = false → bit u.core.regs.hvec 31 = true →
    ∃ t, exec (.trap w g c) s = .next t ∧ t.core.regs.hmode = true ∧
      t.core.regs.hinfo = BitVec.ofNat 32 (c.toNat * 2 ^ 16 + (s.me.pc + 1) % 2 ^ 14) ∧
      (t.core.eng .s).pc = fld s.core.regs.hvec 0 14 ∧ (t.core.eng .s).six = s.me.six + 1 ∧ (t.core.eng .s).stack = s.me.stack ∧
      (∀ f, f ≠ .s → (t.core.eng f).pc = (s.core.eng f).pc ∧ (t.core.eng f).six = (s.core.eng f).six) ∧
      t.core.regs.x = s.core.regs.x ∧ t.mem = s.mem ∧ t.core.walk.faults = s.core.walk.faults) ∧
  (∀ s : State, s.act = .s → s.core.regs.hmode = true →
    ∃ t, exec (.eret none none) s = .next t ∧ t.core.regs = { s.core.regs with hmode := false } ∧
      (t.core.eng .s).pc = fld s.core.regs.hinfo 0 14 ∧ (t.core.eng .s).six = (s.core.eng .s).six ∧
      (t.core.eng .s).stack = (s.core.eng .s).stack ∧ t.core.q = s.core.q ∧ t.core.port = s.core.port ∧ t.mem = s.mem)

/-- R109, R145: MFSR reads every unprivileged register by its number into XD with an empty earmark, and changes nothing else; a number from
0x100 raises PRIVILEGE, any other unassigned number raises ILLEGAL, in MTSR too.
R89, R144, R369, R270, R109: what a write of NFL, HVEC, BKPT and TTB leaves; MTSR of their numbers does the same. A 1 clears a flag of NFL that has not been set in the same cycle, HVEC
keeps EN and ENTRY, BKPT is ignored while BPEND is 1, and TTB reaches A through its journal. -/
def Obligations.SystemRegisters : Prop :=
  (∀ (w g : Tok) (d a : XR) (s u : State), Ready .s w g 1 true s u →
    (∀ p ∈ ([(0x000, u.gcc), (0x001, u.core.regs.nfl.setWidth 64), (0x002, u.core.regs.ctags), (0x003, u.core.regs.amost.setWidth 64),
        (0x004, u.core.regs.mps), (0x005, u.core.regs.pst), (0x006, u.core.regs.ttb), (0x007, u.core.regs.s1tb),
        (0x008, u.core.regs.dom[0]), (0x009, u.core.regs.dom[1]), (0x00A, u.core.regs.dom[2]), (0x00B, u.core.regs.dom[3]),
        (0x00C, u.core.regs.dom[4]), (0x010, u.core.regs.hvec.setWidth 64), (0x011, u.core.regs.hinfo.setWidth 64),
        (0x012, u.core.regs.bkpt.setWidth 64)] : List (BitVec 11 × W64)),
      ∃ t, exec (.mfsr w g d p.1) s = .next t ∧ Passed .s g (s.me.pc + 1) 1 (u.setX d p.2 Mark.empty) t) ∧
    (∀ n : BitVec 11, 0x100 ≤ n.toNat →
      (∃ ist, exec (.mfsr w g d n) s = .next (raiseFault .privilege ist 0 [] u)) ∧
      (∃ ist, exec (.mtsr w g a n) s = .next (raiseFault .privilege ist 0 [] u))) ∧
    (∀ n : BitVec 11, n.toNat < 0x100 → u.sysReg n.toNat = none → ∃ ist, exec (.mfsr w g d n) s = .next (raiseFault .illegal ist 0 [] u)) ∧
    (∀ n : BitVec 11, n.toNat < 0x100 → n ∉ ([0x001, 0x006, 0x010, 0x012] : List (BitVec 11)) →
      ∃ ist, exec (.mtsr w g a n) s = .next (raiseFault .illegal ist 0 [] u))) ∧
  (∀ (w g : Tok) (a : XR) (s u : State), Ready .s w g 1 true s u →
    let x : W32 := (u.x a).val.extractLsb' 0 32
    (∀ i ∈ ([.nflWrite w g a, .mtsr w g a 0x001] : List Instr), ∃ (t : State) (f : W32), exec i s = .next t ∧
      Passed .s g (s.me.pc + 1) 1 (u.onRegs fun r => { r with nfl := f }) t ∧
      ∀ j, f.getLsbD j = (u.core.regs.nfl.getLsbD j && !(decide (j < 6) && x.getLsbD j && !(u.core.flagsNow u.gcc).getLsbD j))) ∧
    (∀ i ∈ ([.hvecWrite w g a, .mtsr w g a 0x010] : List Instr), ∃ (t : State) (f : W32), exec i s = .next t ∧
      Passed .s g (s.me.pc + 1) 1 (u.onRegs fun r => { r with hvec := f }) t ∧
      ∀ j, f.getLsbD j = (x.getLsbD j && (j == 31 || decide (j < 14)))) ∧
    (∀ i ∈ ([.bkptWrite w g a, .mtsr w g a 0x012] : List Instr),
      (u.core.regs.bkpt.getLsbD 27 = true → ∃ t, exec i s = .next t ∧ Passed .s g (s.me.pc + 1) 1 u t) ∧
      (u.core.regs.bkpt.getLsbD 27 = false → ∃ (t : State) (f : W32), exec i s = .next t ∧
        Passed .s g (s.me.pc + 1) 1 (u.onRegs fun r => { r with bkpt := f }) t ∧
        ∀ j, f.getLsbD j = (x.getLsbD j && (decide (j < 15) || (decide (28 ≤ j) && decide (j < 32)))))) ∧
    (u.core.journalRoom 1 = true → ∀ i ∈ ([.ttbWrite w g a, .mtsr w g a 0x006] : List Instr), ∃ t v, exec i s = .next t ∧
      Passed .s g (s.me.pc + 1) 1 v t ∧ v.core.regs.ttb = (u.x a).val &&& 0x01FFFFFFFFFFE001 ∧ v.core.port = { u.core.port with shapes := [] } ∧
      (after (u.core.eng .a).six (u.core.eng .s).six = false → v.core.regs.ttbA = u.core.regs.ttbA ∧
        v.core.journal .a = u.core.journal .a ++ [⟨(u.core.eng .s).six, .ttb ((u.x a).val &&& 0x01FFFFFFFFFFE001)⟩]) ∧
      v.core.regs.k = u.core.regs.k ∧ v.core.regs.x = u.core.regs.x ∧ v.mem = u.mem ∧ v.core.q = u.core.q))

/-- R15, R49, R403: the firmware's writes of SLIP, clamped to 16 to 256, of PRECFG, and of MCTL, at least 8: each changes its one register. -/
def Obligations.FirmwareRegisters : Prop :=
  (∀ (v : W32) (s : State),
    ∃ t, exec (.slipWrite s.core.id v) s = .next t ∧ t.core.regs = { s.core.regs with slip := BitVec.ofNat 32 (min 256 (max 16 (fld v 0 9))) } ∧
      t.core.q = s.core.q ∧ t.core.port = s.core.port ∧ t.others = s.others ∧ t.mem = s.mem) ∧
  (∀ (v : W32) (s : State),
    exec (.precfgWrite s.core.id v) s = .next { s with core := { s.core with regs := { s.core.regs with precfg := v } } }) ∧
  (∀ (die : Fin 4) (v : W32) (s : State),
    exec (.mctlWrite die v) s = .next { s with fab := { s.fab with mctl := s.fab.mctl.set die (BitVec.ofNat 32 (max 8 (fld v 0 10))) } })

/-! ### A: copies -/

/-- R147, R148: the port accepts a command: its tag's CTAGS bit clears and its count rises, unless the same command was counted when it faulted; a
command with accesses joins the accepted ones with its class, tag and generation; a command with none is complete at once. -/
def Obligations.PortAccepts : Prop :=
  ∀ (t : Ctag) (c : Ocl) (ops : List Micro) (buf : Row) (m : Mark) (s : State),
    let r := s.acceptCmd t c ops buf m
    TakesTag t s r ∧
    (s.abuf.counted = true → r.core.regs = s.core.regs) ∧
    (ops = [] → r.core.port.compl = s.core.port.compl ++ [t] ∧ r.core.port.pend = s.core.port.pend) ∧
    (ops ≠ [] → r.core.port.pend = s.core.port.pend ++ [⟨.a, c, s.gen, some t, ops, buf, m, false⟩] ∧ r.core.port.compl = s.core.port.compl) ∧
    r.mem = s.mem ∧ r.core.q = s.core.q ∧ r.core.walk = s.core.walk ∧ r.core.port.spad = s.core.port.spad ∧ r.core.regs.x = s.core.regs.x

/-- R157 to R160: the tensor copies, once their tensors, coordinates and rows are known, or kept from before a fault, and every row is reached: TLD's command reads every row
inside the block and zeroes every other, TST's writes every row inside, TCPY's copies the rows inside both, TCPYO's the 512 lines of
the tile, each with the union of the earmarks that led to it. That all rows are translated before the first moves, and the plan kept over a fault, is log
entry 36's; TCPYO's replace flag on its last line is log entry 38's. -/
def Obligations.TensorCopies : Prop :=
  ∀ (w g : Tok) (kc : KR) (t : Ctag) (c : Ocl) (seg : Seg) (tid tid2 : Fin 256) (s u : State),
    Ready .a w g 2 false s u → u.kAhead = false → u.core.portFull = false →
    (∀ (dst : DstSel) (p : Plan) (l : List (Option Landed)) (v r : State),
      (∀ x, dst = .rows x → x.val + max 1 p.t.brows ≤ 8128) → (∀ q, dst = .lq q → u.lqBound q = false) →
      issued (planCopy kc tid.val seg) u = (.ok p, v) → landRows p.t false p.rowsA v = (.ok l, r) →
      ∃ z, exec (.tld w g kc t c seg tid dst) s = .next z ∧ Passed .a g (s.me.pc + 2) 2
        (r.acceptCmd t c (l.zipIdx.map fun (x, j) => match x with
          | some x => .load x.hpa x.frame (DstSel.place dst j) (p.mark.union (rowMarks l))
          | none => .zero (DstSel.place dst j) (p.mark.union (rowMarks l))) 0 Mark.empty) z) ∧
    (∀ (x : RowIx) (p : Plan) (l : List (Option Landed)) (v r : State), x.val + max 1 p.t.brows ≤ 8128 →
      issued (planCopy kc tid.val seg) u = (.ok p, v) → landRows p.t true p.rowsB v = (.ok l, r) →
      ∃ z, exec (.tst w g kc t c seg tid (.rows x)) s = .next z ∧ Passed .a g (s.me.pc + 2) 2
        (r.acceptCmd t c (l.zipIdx.filterMap fun (y, j) => y.map fun y => .storeRow (x.val + j) y.hpa y.frame (p.mark.union (rowMarks l)))
          0 Mark.empty) z) ∧
    (∀ (q : Fin 2) (p : Plan) (l : List (Option Landed)) (v r : State), u.sqBound q = false →
      issued (planCopy kc tid.val seg) u = (.ok p, v) → p.t.brows ≤ (v.popInto q p.t.brows).abuf.popped.length →
      landRows p.t true p.rowsB (v.popInto q p.t.brows) = (.ok l, r) →
      ∃ z, exec (.tst w g kc t c seg tid (.sq q)) s = .next z ∧ Passed .a g (s.me.pc + 2) 2
        (r.acceptCmd t c (l.zipIdx.filterMap fun (y, j) => y.map fun y =>
          .storeData ((v.popInto q p.t.brows).abuf.popped.getD j ⟨0, 0, Mark.empty⟩) y.hpa y.frame (p.mark.union (rowMarks l))) 0 Mark.empty) z) ∧
    (∀ (a b : Tensor) (cs : List Int) (km ma mb : Mark) (ra rb : List (Option Int)) (la lb : List (Option Landed)) (v2 v3 v4 v5 v6 r : State),
      u.core.port.abuf.bind ABuf.plan = none → getTensors tid.val tid2.val u = (.ok (a, b), v2) →
      a.fmt = b.fmt ∧ a.rank = b.rank ∧ a.brows = b.brows ∧ a.ragged = b.ragged → coords kc a.rank v2 = (.ok (cs, km), v3) →
      classify a cs seg v3 = (.ok (ra, ma), v4) → classify b cs seg v4 = (.ok (rb, mb), v5) →
      landRows a false ((bothRows ra rb).map fun x => x.map Prod.fst) v5 = (.ok la, v6) →
      landRows b true ((bothRows ra rb).map fun x => x.map Prod.snd) v6 = (.ok lb, r) →
      let m := ((Mark.unions [km, a.mark, b.mark, ma, mb]).union (rowMarks la)).union (rowMarks lb)
      ∃ z, exec (.tcpy w g kc t c seg tid tid2) s = .next z ∧ Passed .a g (s.me.pc + 2) 2
        (r.acceptCmd t c ((la.zip lb).filterMap fun (x, y) => match x, y with
          | some x, some y => some (.copy x.hpa x.frame y.hpa y.frame 256 m false)
          | _, _ => none) 0 Mark.empty) z) ∧
    (∀ (p : Plan) (la lb : List (Option Landed)) (v r : State), u.core.port.abuf.bind ABuf.plan = some p →
      landRows p.t false p.rowsA u = (.ok la, v) → landRows p.u true p.rowsB v = (.ok lb, r) →
      ∃ z, exec (.tcpy w g kc t c seg tid tid2) s = .next z ∧ Passed .a g (s.me.pc + 2) 2
        (r.acceptCmd t c ((la.zip lb).filterMap fun (x, y) => match x, y with
          | some x, some y => some (.copy x.hpa x.frame y.hpa y.frame 256 ((p.mark.union (rowMarks la)).union (rowMarks lb)) false)
          | _, _ => none) 0 Mark.empty) z) ∧
    (∀ (a b : Tensor) (cs : List Int) (km me : Mark) (e0 : Nat) (x y : Landed) (v2 v3 v4 v5 r : State),
      u.core.port.abuf.bind ABuf.plan = none → getTensors tid.val tid2.val u = (.ok (a, b), v2) → coords kc a.rank v2 = (.ok (cs, km), v3) →
      (if a.pitch0 = 0 then extent0 a else tryRet (0, Mark.empty)) v3 = (.ok (e0, me), v4) →
      landRow a 65536 false (linearRow a cs e0 (cs.getD 0 0) / 256 * 256) v4 = (.ok x, v5) →
      landRow b 65536 true (linearRow a cs e0 (cs.getD 0 0) / 256 * 256) v5 = (.ok y, r) →
      let m := ((Mark.unions [km, a.mark, b.mark, me]).union x.mark).union y.mark
      ∃ z, exec (.tcpyo w g kc t c tid tid2) s = .next z ∧ Passed .a g (s.me.pc + 2) 2
        (r.acceptCmd t c ((List.range 512).map fun i =>
          .copy (x.hpa + 128 * i) x.frame (y.hpa + 128 * i) y.frame 128 m (i == 511 && y.size == 65536)) 0 Mark.empty) z) ∧
    (∀ (p : Plan) (lin k : Int) (rest : List (Option (Int × Int))) (x y : Landed) (v r : State), u.core.port.abuf.bind ABuf.plan = some p →
      p.rows = some (lin, k) :: rest → landRow p.t 65536 false lin u = (.ok x, v) → landRow p.u 65536 true lin v = (.ok y, r) →
      ∃ z, exec (.tcpyo w g kc t c tid tid2) s = .next z ∧ Passed .a g (s.me.pc + 2) 2
        (r.acceptCmd t c ((List.range 512).map fun i => .copy (x.hpa + 128 * i) x.frame (y.hpa + 128 * i) y.frame 128
          ((p.mark.union x.mark).union y.mark) (i == 511 && y.size == 65536)) 0 Mark.empty) z)

/-- R165, R167: GATH and SCAT with every element reached: one access for each element that is neither disabled nor done, and the buffer that GATH
writes once. A word that had faulted goes on with the done mask, the buffer and the earmark it had then, and SCAT pops no second entry. -/
def Obligations.GatherScatter : Prop :=
  ∀ (w g : Tok) (ka : KR) (t : Ctag) (c : Ocl) (z : Sz) (irow : RowIx) (s u : State),
    Ready .a w g 2 false s u → u.kAhead = false → u.core.portFull = false → irow.val < 8128 → u.rowBusy irow.val = false →
    let base := u.kp ka
    let ix := u.core.row irow.val
    (∀ (dst : DstSel) (l : List Elem) (r : State), (∀ x, dst = .rows x → x.val < 8128) → (∀ q, dst = .lq q → u.lqBound q = false) →
      let b := u.core.port.abuf.getD ⟨false, [], 0, base.mark.union ix.mark, 0, none⟩
      checkElems false z.bytes base.val ix.val b.done (elemCount z.bytes) 0 u = (l, r) → chosen l = none →
      ∃ y, exec (.gath w g ka t c z irow dst) s = .next y ∧ Passed .a g (s.me.pc + 2) 2
        (r.acceptCmd t c (((landedOf l).map fun e => .elemLoad e.1 z.bytes e.2) ++ [.gathEnd (DstSel.place dst 0)]) b.buf b.mark) y) ∧
    (∀ (src : SrcSel) (b : ABuf) (l : List Elem) (r : State), u.core.port.abuf = some b →
      checkElems true z.bytes base.val ix.val b.done (elemCount z.bytes) 0 u = (l, r) → chosen l = none →
      ∃ y, exec (.scat w g ka t c z irow src) s = .next y ∧ Passed .a g (s.me.pc + 2) 2
        (r.acceptCmd t c ((landedOf l).map fun e => .elemStore e.1 z.bytes e.2) b.buf b.mark) y) ∧
    (∀ (x : RowIx) (l : List Elem) (r : State), u.core.port.abuf = none → x.val < 8128 → u.rowBusy x.val = false →
      checkElems true z.bytes base.val ix.val 0 (elemCount z.bytes) 0 u = (l, r) → chosen l = none →
      ∃ y, exec (.scat w g ka t c z irow (.rows x)) s = .next y ∧ Passed .a g (s.me.pc + 2) 2
        (r.acceptCmd t c ((landedOf l).map fun e => .elemStore e.1 z.bytes e.2) (u.core.row x.val).val
          ((base.mark.union ix.mark).union (u.core.row x.val).mark)) y) ∧
    (∀ (q : Fin 2) (d : QEntry) (rest : List QEntry) (l : List Elem) (r : State), u.core.port.abuf = none → u.sqBound q = false → u.core.q.sq[q] = d :: rest →
      let e := Tagged.live 0 u.gen d
      checkElems true z.bytes base.val ix.val 0 (elemCount z.bytes) 0 (u.onCore (Core.setSq q rest)) = (l, r) → chosen l = none →
      ∃ y, exec (.scat w g ka t c z irow (.sq q)) s = .next y ∧ Passed .a g (s.me.pc + 2) 2
        (r.acceptCmd t c ((landedOf l).map fun e => .elemStore e.1 z.bytes e.2) e.val ((base.mark.union ix.mark).union e.mark)) y)

/-- R168, R169: SPLD pushes the row it names, SPST writes the entry it pops into the row, TREF pushes a tile reference into MA or MB. That TREF looks at no
AUXROW that its mode does not use is log entry 41's reading of R153. -/
def Obligations.RowsAndReferences : Prop :=
  ∀ (w g : Tok) (r : RowIx) (k : KR) (ken : Bool) (s u : State),
    (∀ (q : Fin 4) (p : Nat × Option KR × Instr), p ∈ ([(1, none, .spld w g q r), (2, if ken then some k else none, .spldK w g q r ken k)]
        : List (Nat × Option KR × Instr)) → Ready .a w g p.1 false s u → (p.2.1.isSome = true → u.kAhead = false) →
      namedRow r p.2.1 u < 8128 → u.lqBound q = false → u.rowBusy (namedRow r p.2.1 u) = false → u.core.rowsPending = false →
      u.core.pushesPending q = false → (u.core.q.lq[q]).length < 16 →
      ∃ t v, exec p.2.2 s = .next t ∧ Passed .a g (s.me.pc + p.1) p.1 v t ∧ v = (u.onQ fun x => { x with lq := v.core.q.lq }) ∧
        v.core.q.lq[q] = u.core.q.lq[q] ++ [⟨(u.core.row (namedRow r p.2.1 u)).val, u.gen, (u.core.row (namedRow r p.2.1 u)).mark⟩] ∧
        ∀ x, x ≠ q → v.core.q.lq[x] = u.core.q.lq[x]) ∧
    (∀ (q : Fin 2) (d : QEntry) (rest : List QEntry) (p : Nat × Option KR × Instr),
        p ∈ ([(1, none, .spst w g q r), (2, if ken then some k else none, .spstK w g q r ken k)] : List (Nat × Option KR × Instr)) →
      Ready .a w g p.1 false s u → (p.2.1.isSome = true → u.kAhead = false) → namedRow r p.2.1 u < 8128 → u.sqBound q = false →
      u.rowBusy (namedRow r p.2.1 u) = false → u.core.q.sq[q] = d :: rest →
      ∃ t, exec p.2.2 s = .next t ∧ Passed .a g (s.me.pc + p.1) p.1 (u.onCore fun c =>
        (c.setSq q rest).setRow (namedRow r p.2.1 u) (Tagged.live 0 u.gen d).val (Tagged.live 0 u.gen d).mark) t) ∧
    (∀ (mb : Bool) (hi : BitVec 13) (lo : W32), Ready .a w g 2 false s u →
      let ref : W64 := (hi ++ lo).setWidth 64
      fld ref 0 4 = 0 → (∀ x ∈ refRows ref, x < 8128) → u.groupBusy (refGroup ref) = false → u.core.rowsPending = false →
      (if mb then u.core.q.mb else u.core.q.ma).length < 8 →
      ∃ t, exec (.tref w g mb hi lo) s = .next t ∧ Passed .a g (s.me.pc + 2) 2 (u.onQ fun q =>
        if mb then { q with mb := q.mb ++ [⟨ref, u.gen, Mark.empty⟩] } else { q with ma := q.ma ++ [⟨ref, u.gen, Mark.empty⟩] }) t)

/-- R156: WAITANY ends once a tag of its mask is complete, WAITALL once all are; neither changes a tag. FFR takes the lowest complete one, clears
it, and pushes its number and the tags as they stood; one that found its queue full has done so already and pushes what it formed. The mask is a literal half or a K pair.
A has then waited on tags in this job, which log entry 31 keeps. -/
def Obligations.TagWaits : Prop :=
  ∀ (w g : Tok) (half : Bool) (mask : W32) (km : KR) (q : Fin 4) (s u : State),
    let lit : W64 := if half then mask ++ (0 : W32) else mask.setWidth 64
    ∀ p ∈ ([(2, false, lit, .waitany w g half mask, .waitall w g half mask, .ffr w g half q mask),
        (1, true, (u.kp km).val, .waitanyK w g km, .waitallK w g km, .ffrK w g km q)] : List (Nat × Bool × W64 × Instr × Instr × Instr)),
      Ready .a w g p.1 false s u → (p.2.1 = true → u.kAhead = false) →
      (p.2.2.1 ≠ 0 → u.core.regs.ctags &&& p.2.2.1 ≠ 0 →
        ∃ t, exec p.2.2.2.1 s = .next t ∧ Passed .a g (s.me.pc + p.1) p.1 u.tagsSeen t) ∧
      (u.core.regs.ctags &&& p.2.2.1 = p.2.2.1 → ∃ t, exec p.2.2.2.2.1 s = .next t ∧ Passed .a g (s.me.pc + p.1) p.1 u.tagsSeen t) ∧
      (∀ e : Row, u.ffrHeld = some e → u.core.rowsPending = false → u.core.pushesPending q = false → (u.core.q.lq[q]).length < 16 →
        ∃ t, exec p.2.2.2.2.2 s = .next t ∧ Passed .a g (s.me.pc + p.1) p.1
          ((u.onPort fun x => { x with abuf := none }).onCore (Core.pushLq q e Mark.empty)).tagsSeen t) ∧
      (∀ n, n < 64 → u.ffrHeld = none → (u.core.regs.ctags &&& p.2.2.1).getLsbD n = true →
        (∀ j, j < n → (u.core.regs.ctags &&& p.2.2.1).getLsbD j = false) → u.lqBound q = false → u.core.rowsPending = false → u.core.pushesPending q = false → (u.core.q.lq[q]).length < 16 →
        ∃ t v e, exec p.2.2.2.2.2 s = .next t ∧ Passed .a g (s.me.pc + p.1) p.1 v t ∧
          v = (((u.onRegs fun r => { r with ctags := v.core.regs.ctags }).onPort fun x => { x with abuf := none }).onCore (Core.pushLq q e Mark.empty)).tagsSeen ∧
          (∀ j, v.core.regs.ctags.getLsbD j = (u.core.regs.ctags.getLsbD j && j != n)) ∧
          Row.lane e 0 = BitVec.ofNat 32 n ∧ Row.lane e 1 = u.core.regs.ctags.extractLsb' 0 32 ∧
          Row.lane e 2 = u.core.regs.ctags.extractLsb' 32 32 ∧ ∀ i, 3 ≤ i → i < 64 → Row.lane e i = 0)

/-- R148, R170, R173, R174: an AACC to memory pops its entry, takes its tag, whose count rises and whose CTAGS bit clears, and leaves for its slice: with
carry space of its own when it meets no carried addend, and added to the one it meets otherwise, whose TRIES and class the merged packet has and whose
saturation flags it unites with the sum's. Its packet names its lanes, its tags, and the entry that keeps it. Which space, and which of two carried addends, is
log entry 117's choice. An AACC to a reduction window (R290, R297) leaves
for its Crossroads; while a reservation of its group is held it spends a credit of the first that has one for it, and otherwise it combines nowhere.
The group as the set of its members, and the credits per reservation and core, are log entry 40's choice; the passing everywhere is log entry 48's. -/
def Obligations.Accumulates : Prop :=
  ∀ (w g : Tok) (ka : KR) (t : Ctag) (c : Ocl) (q : Fin 2) (off : W32) (s u v : State) (d : QEntry) (rest : List QEntry) (ix : Nat),
    ∀ p ∈ ([(1, 0, .aacc w g ka t c q), (2, off.signExtend 64, .aaccOffset w g ka t c q off)] : List (Nat × W64 × Instr)),
      Ready .a w g p.1 false s u → u.kAhead = false → u.sqBound q = false → u.core.portFull = false →
      let ea := (u.kp ka).val + p.2.1
      let x := Tagged.live 0 u.gen d
      let m := x.mark.union (u.kp ka).mark
      let c0 := v.core.setSq q rest
      (ea.toNat < 2 ^ 57 → ea.toNat % 256 = 0) → v.core.q.sq[q] = d :: rest →
      (∀ (hpa frame : Nat) (sum : Bool) (e : Int),
        let lanes := (sendLanes x.val (if sum then some e else none)).1
        (sum = true → ea.toNat % 512 = 0) → u.translate u.who .aacc true ea = (.ok (.mem hpa frame sum e), v) →
        v.locBad (.mem hpa frame) (if sum then 512 else 256) = false →
        (c0.mergeWith hpa sum c = none → c0.carrySpace (if sum then 2 else 1) = some ix →
          ∃ z r, exec p.2.2 s = .next z ∧ Passed .a g (s.me.pc + p.1) p.1 r z ∧
            r.core.q = c0.q ∧ r.core.regs.x = u.core.regs.x ∧ (∀ a, r.readByte a = v.readByte a) ∧ TakesTag t v r ∧
            (∃ pkt, r.gran.air = v.gran.air ++ [pkt] ∧ pkt.hpa = hpa ∧ pkt.cls = c ∧ pkt.gen = u.gen ∧ pkt.fx = sum ∧
              pkt.lanes = lanes ∧ pkt.tags = [⟨v.mgmt.node, v.core.id, t, v.ticks⟩] ∧ pkt.mark = m ∧ pkt.carryIx = some ix ∧ pkt.tries = 0)) ∧
        (c0.mergeWith hpa sum c = some ix →
          ∃ z r, exec p.2.2 s = .next z ∧ Passed .a g (s.me.pc + p.1) p.1 r z ∧
            r.core.q = c0.q ∧ r.core.regs.x = u.core.regs.x ∧ (∀ a, r.readByte a = v.readByte a) ∧ TakesTag t v r ∧
            (∃ pkt, r.gran.air = v.gran.air ++ [pkt] ∧ pkt.hpa = (c0.carry ix).hpa ∧ pkt.gen = (c0.carry ix).gen ∧
              pkt.tries = (c0.carry ix).tries ∧ pkt.cls = (c0.carry ix).cls ∧
              ((c0.carry ix).fx = sum → pkt.lanes = (addLanes sum (c0.carryLanes ix) lanes).1 ∧
                pkt.satf = orFlags (c0.carrySatf ix) (addLanes sum (c0.carryLanes ix) lanes).2) ∧
              pkt.tags = ((c0.carry ix).tags ++ [t]).map (fun y => ⟨v.mgmt.node, v.core.id, y, (c0.carry ix).id⟩) ∧
              pkt.mark = (c0.carry ix).mark.union m ∧ pkt.carryIx = some ix))) ∧
      (∀ (y : Desc) (nodes : List Nat) (gpa : Nat),
        let scale : Option Int := if y.sum then some y.scale else none
        let held := v.groupResv v.core.place.part (groupKey nodes) ≠ []
        let payer := v.payer v.core.place.part (groupKey nodes)
        (y.sum = true → ea.toNat % 512 = 0) → u.translate u.who .aacc true ea = (.ok (.red y nodes gpa), v) →
        (held → payer.isSome = true) → c0.carrySpace (if y.sum then 2 else 1) = some ix →
          ∃ z r, exec p.2.2 s = .next z ∧ Passed .a g (s.me.pc + p.1) p.1 r z ∧
            r.core.q = c0.q ∧ r.core.regs.x = u.core.regs.x ∧ (∀ a, r.readByte a = v.readByte a) ∧ TakesTag t v r ∧
            (∀ k, payer = some k → r.core.port.redCredits = Sparse.set 0 v.core.port.redCredits k (v.core.redCredit k - 1)) ∧
            (¬held → r.core.port.redCredits = v.core.port.redCredits) ∧
            (∃ pkt, r.xr.redIn = v.xr.redIn ++ [pkt] ∧ pkt.red = some ⟨v.core.place.part, groupKey nodes, y.home, y.hvf, gpa, scale, none⟩ ∧
              pkt.lanes = (sendLanes x.val scale).1 ∧ pkt.tags = [⟨v.mgmt.node, v.core.id, t, v.ticks⟩] ∧ pkt.mark = m ∧
              pkt.cls = c ∧ pkt.gen = u.gen ∧ pkt.carryIx = some ix ∧ pkt.resv = payer))

/-- R176, R177: FLUSHC sends again every addend that waits for a re-send, each with its lanes, its tags and its earmark, and passes; SUMST is accepted
with the 4 KiB pieces of its range.
R178, R179: MCAST pops one entry and sends its row toward every member die; PREF is accepted with the pieces that translate. That SUMST and PREF move
in pieces of 4 KiB is log entry 41's. -/
def Obligations.FlushSumMulticast : Prop :=
  ((∀ (w g : Tok) (s u : State), Ready .a w g 1 false s u → (∀ i ∈ u.core.carriedIx, i < 64) →
    ∃ t v, exec (.flushc w g) s = .next t ∧ Passed .a g (s.me.pc + 1) 1 v t ∧ v.mem = u.mem ∧ v.core.regs = u.core.regs ∧ v.core.q = u.core.q ∧
      v.gran.air.length = u.gran.air.length + u.core.carriedIx.length ∧
      ∀ i ∈ u.core.carriedIx, let e := u.core.carry i
        ∃ pkt ∈ v.gran.air.drop u.gran.air.length, pkt.core = u.core.id ∧ pkt.carryIx = some i ∧ pkt.hpa = e.hpa ∧ pkt.cls = e.cls ∧ pkt.gen = e.gen ∧
          pkt.fx = e.fx ∧ pkt.lanes = u.core.carryLanes i ∧ pkt.tags = e.tags.map (fun y => ⟨u.mgmt.node, u.core.id, y, e.id⟩) ∧ pkt.mark = e.mark) ∧
  (∀ (w g : Tok) (ka : KR) (t : Ctag) (c : Ocl) (q : Fin 4) (off : W32) (s u v : State) (l : List (Nat × Nat × Bool)),
    ∀ p ∈ ([(1, 0, .sumst w g ka t c q), (2, off.signExtend 64, .sumstOffset w g ka t c q off)] : List (Nat × W64 × Instr)),
      Ready .a w g p.1 false s u → u.kAhead = false → u.lqBound q = false → u.core.portFull = false →
      ((u.kp ka).val + p.2.1).toNat % 262144 = 0 → sumPieces 64 ((u.kp ka).val + p.2.1) u = (.ok l, v) →
      ∃ z, exec p.2.2 s = .next z ∧ Passed .a g (s.me.pc + p.1) p.1 (v.acceptCmd t c [.sumFlags l q] 0 Mark.empty) z)) ∧
  (∀ (w g : Tok) (ka : KR) (t : Ctag) (c : Ocl) (off : W32) (s u v : State),
    (∀ (q : Fin 2) (row : Nat) (cores nodes : List Nat) (d : QEntry) (rest : List QEntry),
      ∀ p ∈ ([(1, 0, .mcast w g ka t c q), (2, off.signExtend 64, .mcastOffset w g ka t c q off)] : List (Nat × W64 × Instr)),
        Ready .a w g p.1 false s u → u.kAhead = false → u.sqBound q = false → u.core.portFull = false →
        ((u.kp ka).val + p.2.1).toNat % 256 = 0 → u.translate u.who .mcast true ((u.kp ka).val + p.2.1) = (.ok (.rows row cores nodes true), v) →
        v.core.q.sq[q] = d :: rest →
        let pkts := v.mcastPkts (64 + v.ticks) row c cores nodes (Tagged.live 0 v.gen d)
        ∃ z, exec p.2.2 s = .next z ∧ Passed .a g (s.me.pc + p.1) p.1
          (((v.onCore (Core.setSq q rest)).acceptCmd t c (if pkts = [] then []
            else [.cast (64 + v.ticks) row (if nodes.contains v.mgmt.node then cores else [])]) 0 Mark.empty).onGran
            fun x => { x with mcasts := x.mcasts ++ pkts }) z) ∧
    (∀ z : Fin 3, ∀ p ∈ ([(1, 0, .pref w g ka t c z), (2, off.signExtend 64, .prefOffset w g ka t c z off)] : List (Nat × W64 × Instr)),
      Ready .a w g p.1 false s u → u.kAhead = false → u.core.portFull = false →
      let size := if z = 0 then 256 else if z = 1 then 4096 else 65536
      let r := prefPieces (min size 4096) (if z = 2 then 16 else 1) (BitVec.ofNat 64 (((u.kp ka).val + p.2.1).toNat / size * size)) u
      ∃ y, exec p.2.2 s = .next y ∧ Passed .a g (s.me.pc + p.1) p.1 (r.2.acceptCmd t c r.1 0 Mark.empty) y))

/-- R163, R164: SHPUB raises VERSION in memory by one and every core of the partition drops the tensor's record; SHINV drops it here.
R23, R180: BIND binds the store queue with 16 credits, and the peer's load queue to it, when the peer runs its job; BIND off ends a binding whose
credits are all back. -/
def Obligations.PublishAndBind : Prop :=
  ((∀ (w g : Tok) (tid : Fin 256) (c : Ocl) (s u v x i : State) (b : List Byte) (m : Mark) (hpa frame : Nat) (sum : Bool) (e : Int),
    Ready .a w g 1 false s u → u.core.storesLeft = false → getEntry tid.val u = (.ok (b, m), v) → entryBad b = false →
    v.translate v.who .home true (BitVec.ofNat 64 (leAt b 0 8)) = (.ok (.mem hpa frame sum e), x) → x.mustWait c (linesOf hpa 4) = false →
    x.turnAt x.core.place.part (x.accessWho 0) (.mem hpa frame) = some i →
    let r := i.noteAccess c (linesOf hpa 4)
    ∃ z y, exec (.shpub w g tid c) s = .next z ∧ Passed .a g (s.me.pc + 1) 1 y z ∧
      y.mem = (r.writeData r.core.place.part r.gen .plain hpa frame (natLe ((leNat (r.seen r.core.place.part hpa 4) + 1) % 2 ^ 32) 4) Mark.empty).mem ∧
      (∀ k ∈ y.core.port.shapes, k.tid ≠ tid.val) ∧
      (∀ k ∈ y.others, k.place.part = y.core.place.part → ∀ n ∈ k.port.shapes, n.tid ≠ tid.val) ∧ y.core.regs = r.core.regs) ∧
  (∀ (w g : Tok) (tid : Fin 256) (s u : State), Ready .a w g 1 false s u →
    ∃ t, exec (.shinv w g tid) s = .next t ∧
      Passed .a g (s.me.pc + 1) 1 (u.onPort fun p => { p with shapes := p.shapes.filter fun k => k.tid != tid.val }) t)) ∧
  (∀ (w g : Tok) (q : Fin 2) (s u : State), Ready .a w g 1 false s u → u.vPassed = true →
    (∀ (plq : Fin 4) (peer : Fin 128) (k : Core), u.peerState peer.val = .runs → u.sqBound q = false → u.core.q.sq[q] = [] →
      peer.val ≠ u.core.place.num → u.coreAt ⟨u.core.place.part, peer.val⟩ = some k → k.q.boundFrom[plq] = none →
      ∃ t v, exec (.bind w g q plq peer) s = .next t ∧ Passed .a g (s.me.pc + 1) 1 v t ∧
        v.core.q.bound[q] = some ⟨peer.val, plq, 16⟩ ∧
        (∀ c ∈ v.others, c.id = ⟨u.core.place.part, peer.val⟩ → c.q.boundFrom[plq] = some ⟨u.core.place.num, q⟩) ∧
        v.core.regs = u.core.regs ∧ v.mem = u.mem) ∧
    (∀ (plq : Fin 4) (peer : Fin 128), u.core.q.bound[q] = none → ∃ t, exec (.bindOff w g ⟨q, plq, peer⟩) s = .next t ∧ Passed .a g (s.me.pc + 1) 1 u.bindDone t) ∧
    (∀ (plq : Fin 4) (peer : Fin 128) b, u.core.q.bound[q] = some b → 16 ≤ b.credits → ∃ t v, exec (.bindOff w g ⟨q, plq, peer⟩) s = .next t ∧ Passed .a g (s.me.pc + 1) 1 v t ∧
      v.core.q.bound[q] = none ∧ v.core.regs = u.core.regs ∧ v.mem = u.mem))

/-! ### V -/

/-- R187, R188, R190, R192, R193: the lane-by-lane words. Each active lane of VD takes the function of its operands' lanes, an immediate standing for every lane of b;
a lane that is not active is kept. That V(SREG)'s earmark joins none of them but VIDX with segments is log entry 90's reading, and what VEXP2 and VLOG2 come to
rests on log entry 34. -/
def Obligations.VectorLanes : Prop :=
  ∀ (w g : Tok) (d a b : VR) (i : W32) (n : Fin 64) (s u : State),
    let x := Row.lane (u.v a).val
    let yr := Row.lane (u.v b).val
    let z := Row.lane (u.v d).val
    let ma := (u.v a).mark
    let mb := (u.v b).mark
    let md := (u.v d).mark
    (Ready .v w g 1 false s u → ∀ p ∈ ([
        (.vadd w g d a b, ma.union mb, fun j => checked (fadd (x j) (yr j))), (.vsub w g d a b, ma.union mb, fun j => checked (fsub (x j) (yr j))),
        (.vmul w g d a b, ma.union mb, fun j => checked (fmul (x j) (yr j))),
        (.vfma w g d a b, (ma.union mb).union md, fun j => checked (ffma (z j) (x j) (yr j))),
        (.vabs w g d a, ma, fun j => plain (x j &&& 0x7FFFFFFF)), (.vneg w g d a, ma, fun j => plain (x j ^^^ 0x80000000)),
        (.vrcp w g d a, ma, fun j => checked (frcp (x j))), (.vrsq w g d a, ma, fun j => checked (frsq (x j))),
        (.vexp2 w g d a, ma, fun j => checked (fexp2 (x j))), (.vlog2 w g d a, ma, fun j => checked (flog2 (x j))),
        (.vand w g d a b, ma.union mb, fun j => plain (x j &&& yr j)), (.vor w g d a b, ma.union mb, fun j => plain (x j ||| yr j)),
        (.vxor w g d a b, ma.union mb, fun j => plain (x j ^^^ yr j)),
        (.vshl w g d a b, ma.union mb, fun j => plain (x j <<< ((yr j).toNat % 32))),
        (.vshr w g d a b, ma.union mb, fun j => plain (x j >>> ((yr j).toNat % 32))),
        (.viadd w g d a b, ma.union mb, fun j => plain (x j + yr j)), (.vimul w g d a b, ma.union mb, fun j => plain (x j * yr j)),
        (.vsel w g d a b, (md.union ma).union mb, fun j => plain (if z j ≠ 0 then x j else yr j)),
        (.vbcast w g d a n, ma, fun _ => plain (x n.val)),
        (.vperm w g d a b, ma.union mb, fun j => plain (if (yr j).toNat < 64 then x (yr j).toNat else 0)),
        (.vshuf w g d a b, ma.union mb, fun j =>
          let byte (k : Nat) : Byte := Row.byte (u.v a).val (Row.byte (u.v b).val (4 * j + k)).toNat
          plain (byte 3 ++ byte 2 ++ byte 1 ++ byte 0)),
        (.vidx w g d false, Mark.empty, fun j => plain (BitVec.ofNat 32 j)),
        (.vidx w g d true, u.segMark, fun j => plain (BitVec.ofNat 32 (u.segLanes j (u.seg j)).length))]
        : List (Instr × Mark × (Nat → LaneRes))),
      ∃ t v, exec p.1 s = .next t ∧ Passed .v g (s.me.pc + 1) 1 v t ∧ VWrote d p.2.1 p.2.2 u v) ∧
    (Ready .v w g 2 false s u → ∀ p ∈ ([
        (.vaddImm w g d a i, ma, fun j => checked (fadd (x j) i)), (.vsubImm w g d a i, ma, fun j => checked (fsub (x j) i)),
        (.vmulImm w g d a i, ma, fun j => checked (fmul (x j) i)),
        (.vfmaImm w g d a i, (ma.union Mark.empty).union md, fun j => checked (ffma (z j) (x j) i)),
        (.vandImm w g d a i, ma, fun j => plain (x j &&& i)), (.vorImm w g d a i, ma, fun j => plain (x j ||| i)),
        (.vxorImm w g d a i, ma, fun j => plain (x j ^^^ i)), (.vshlImm w g d a i, ma, fun j => plain (x j <<< (i.toNat % 32))),
        (.vshrImm w g d a i, ma, fun j => plain (x j >>> (i.toNat % 32))), (.viaddImm w g d a i, ma, fun j => plain (x j + i)),
        (.vimulImm w g d a i, ma, fun j => plain (x j * i))] : List (Instr × Mark × (Nat → LaneRes))),
      ∃ t v, exec p.1 s = .next t ∧ Passed .v g (s.me.pc + 2) 2 v t ∧
        VWrote d (if p.1 = .vfmaImm w g d a i then p.2.1 else p.2.1.union Mark.empty) p.2.2 u v)

/-- R191, R187: VCMP writes all ones or all zeros by its condition, and VMIN and VMAX the smaller or greater lane, on FP32 or INT32 lanes as VSH.FMT says; any other
FMT raises ILLEGAL. That V(SREG)'s earmark does not join the result is log entry 90's reading. -/
def Obligations.VectorCompares : Prop :=
  ∀ (w g : Tok) (d a b : VR) (i : W32) (s u : State),
    let x := Row.lane (u.v a).val
    ∀ q ∈ ([(1, (u.v b).mark, Row.lane (u.v b).val, [.vcmpEq w g d a b, .vcmpNe w g d a b, .vcmpLt w g d a b, .vcmpLe w g d a b, .vcmpGt w g d a b,
          .vcmpGe w g d a b, .vcmpUn w g d a b], [.vmin w g d a b, .vmax w g d a b]),
        (2, Mark.empty, fun _ => i, [.vcmpEqImm w g d a i, .vcmpNeImm w g d a i, .vcmpLtImm w g d a i, .vcmpLeImm w g d a i, .vcmpGtImm w g d a i,
          .vcmpGeImm w g d a i, .vcmpUnImm w g d a i], [.vminImm w g d a i, .vmaxImm w g d a i])]
        : List (Nat × Mark × (Nat → W32) × List Instr × List Instr)),
      Ready .v w g q.1 false s u →
      (u.vFmt = 0 ∨ u.vFmt = 7 →
        (∀ p ∈ q.2.2.2.1.zip ([.eq, .ne, .lt, .le, .gt, .ge, .un] : List VCond), ∃ t v, exec p.1 s = .next t ∧
          Passed .v g (s.me.pc + q.1) q.1 v t ∧ VWrote d ((u.v a).mark.union q.2.1) (fun j => vcmpLane (u.vFmt == 7) p.2 (x j) (q.2.2.1 j)) u v) ∧
        (∀ p ∈ q.2.2.2.2.zip [false, true], ∃ t v, exec p.1 s = .next t ∧ Passed .v g (s.me.pc + q.1) q.1 v t ∧
          VWrote d ((u.v a).mark.union q.2.1) (fun j => if u.vFmt = 7 then
              plain (if p.2 then (if (x j).toInt < (q.2.2.1 j).toInt then q.2.2.1 j else x j)
                else (if (x j).toInt < (q.2.2.1 j).toInt then x j else q.2.2.1 j))
            else checked (fminmax p.2 (x j) (q.2.2.1 j))) u v)) ∧
      (u.vFmt ≠ 0 → u.vFmt ≠ 7 → ∀ p ∈ q.2.2.2.1 ++ q.2.2.2.2, ∃ ist, exec p s = .next (raiseFault .illegal ist 0 [] u))

/-- R191, R78, R76: what VCMP's conditions come to: on INT32 lanes the signed order; on FP32 lanes that are no NaN the order of their values, lt all ones exactly when
the value of a is below that of b, and both zeros equal; every lane is all ones or zero; a NaN is unordered, equal to nothing, and sets VINV only when it
signals. -/
def Obligations.CompareConditions : Prop :=
  (∀ (c : VCond) (a b : W32), (vcmpLane true c a b).inv = false ∧ ((vcmpLane true c a b).val = 0xFFFFFFFF ↔
    match c with
    | .eq => a = b
    | .ne => a ≠ b
    | .lt => a.toInt < b.toInt
    | .le => a.toInt ≤ b.toInt
    | .gt => b.toInt < a.toInt
    | .ge => b.toInt ≤ a.toInt
    | .un => False)) ∧
  (∀ (c : VCond) (a b : W32), (val32 a).isNan = true ∨ (val32 b).isNan = true →
    ((vcmpLane false c a b).val = 0xFFFFFFFF ↔ c = .ne ∨ c = .un) ∧
    (vcmpLane false c a b).inv = ((val32 a).isSnan || (val32 b).isSnan)) ∧
  (∀ (a b : W32), (val32 a).isNan = false → (val32 b).isNan = false →
    (∀ c : VCond, ((vcmpLane false c a b).val = 0 ∨ (vcmpLane false c a b).val = 0xFFFFFFFF) ∧ (vcmpLane false c a b).inv = false ∧
      ((vcmpLane false c a b).val = 0xFFFFFFFF ↔
        match c with
        | .lt => (val32 a).below (val32 b)
        | .gt => (val32 b).below (val32 a)
        | .le => ¬(val32 b).below (val32 a)
        | .ge => ¬(val32 a).below (val32 b)
        | .eq => ¬(val32 a).below (val32 b) ∧ ¬(val32 b).below (val32 a)
        | .ne => (val32 a).below (val32 b) ∨ (val32 b).below (val32 a)
        | .un => False)) ∧
    (vcmpLane false .un a b).val = 0 ∧ ((vcmpLane false .lt a b).val = 0xFFFFFFFF ↔ (vcmpLane false .ge a b).val = 0) ∧
    ((vcmpLane false .gt a b).val = 0xFFFFFFFF ↔ (vcmpLane false .le a b).val = 0) ∧
    ((vcmpLane false .eq a b).val = 0xFFFFFFFF ↔ a = b ∨ (a &&& 0x7FFFFFFF = 0 ∧ b &&& 0x7FFFFFFF = 0)))

/-- R64 to R78, R84 to R87, R189, R194, R196: what rounding once comes to. Of finite lanes VADD, VSUB, VMUL and VFMA give the exact result rounded to nearest, ties to
even; a NaN gives the first one, quietened, and an invalid operation the default NaN. VRCP and VRSQ are correctly rounded; VEXP2 and VLOG2 are exact where the
result is, and lie within their binade elsewhere. VCVT rounds in its mode to an integer, saturating, or to a format, and every code of a narrow format comes
back unchanged from FP32. VPACKQ rounds each element over the scale, and an outlier becomes a marker between the halves of its F8E4 code. A K-step adds the exact
products of its pair and rounds once in M's mode; for BF16 and FP16 this is so where no product is truncated; a NaN among its terms gives 0x7FC00000. The sign of a zero
product is log entry 107's, the exact value of VEXP2 and VLOG2 log entry 34's. -/
def Obligations.RoundedArithmetic : Prop :=
  (∀ d a b : W32, (val32 d).isFin = true → (val32 a).isFin = true → (val32 b).isFin = true →
    let x := (val32 a).num
    let y := (val32 b).num
    let z := (val32 d).num
    Rounded32 (x + y) 1 (a.msb && b.msb) (fadd a b) ∧ Rounded32 (x - y) 1 (a.msb && !b.msb) (fsub a b) ∧
    Rounded32 (x * y) (2 ^ 149) (a.msb != b.msb) (fmul a b) ∧ Rounded32 (x * y + z * 2 ^ 149) (2 ^ 149) (d.msb && (a.msb != b.msb)) (ffma d a b)) ∧
  (∀ d a b : W32,
    let q (x : W32) : W32 × Bool := (x ||| 0x00400000, (val32 a).isSnan || (val32 b).isSnan)
    ((val32 a).isNan = true ∨ (val32 b).isNan = true → ∀ f ∈ ([fadd, fsub, fmul] : List (W32 → W32 → W32 × Bool)), f a b = q (if (val32 a).isNan then a else b)) ∧
    ((val32 d).isNan = true ∨ (val32 a).isNan = true ∨ (val32 b).isNan = true →
      ffma d a b = ((if (val32 d).isNan then d else if (val32 a).isNan then a else b) ||| 0x00400000, (val32 d).isSnan || (val32 a).isSnan || (val32 b).isSnan)) ∧
    (∀ n, val32 a = .inf n → (val32 b).isNan = false →
      fadd a b = (if val32 b = .inf (!n) then (0x7FC00000, true) else (a, false)) ∧ fsub a b = (if val32 b = .inf n then (0x7FC00000, true) else (a, false)) ∧
      ∀ p ∈ ([(a, b), (b, a)] : List (W32 × W32)), fmul p.1 p.2 = (if (val32 b).isZero then (0x7FC00000, true) else (inf32 (n != b.msb), false)))) ∧
  (∀ a : W32,
    let x := (val32 a).num
    let s : W32 := if a.msb then 0x80000000 else 0
    ((val32 a).isNan = true → ∀ f ∈ ([frcp, frsq, fexp2, flog2] : List (W32 → W32 × Bool)), f a = (a ||| 0x00400000, (val32 a).isSnan)) ∧
    ((val32 a).isZero = true → frcp a = (inf32 a.msb, false) ∧ frsq a = (inf32 a.msb, false) ∧ fexp2 a = (0x3F800000, false) ∧ flog2 a = (inf32 true, false)) ∧
    ((val32 a).isInf = true → frcp a = (s, false) ∧ frsq a = (if a.msb then (0x7FC00000, true) else (0, false)) ∧
      fexp2 a = (if a.msb then 0 else inf32 false, false) ∧ flog2 a = (if a.msb then (0x7FC00000, true) else (inf32 false, false))) ∧
    ((val32 a).isFin = true → x < 0 → frsq a = (0x7FC00000, true) ∧ flog2 a = (0x7FC00000, true)) ∧
    ((val32 a).isFin = true → x ≠ 0 → Rounded32 (if x < 0 then -2 ^ 298 else 2 ^ 298) x.natAbs false (frcp a)) ∧
    ((val32 a).isFin = true → 0 < x →
      (frsq a).2 = false ∧ (val32 (frsq a).1).isFin = true ∧ (frsq a).1.msb = false ∧
      ∀ b : W32, (val32 b).isFin = true →
        ((val32 (frsq a).1).num < (val32 b).num → 2 ^ 449 ≤ ((val32 (frsq a).1).num + (val32 b).num) ^ 2 * x) ∧
        (0 ≤ (val32 b).num → (val32 b).num < (val32 (frsq a).1).num → ((val32 (frsq a).1).num + (val32 b).num) ^ 2 * x ≤ 2 ^ 449)) ∧
    ((val32 a).isFin = true → (fexp2 a).2 = false ∧
      (128 * 2 ^ 149 ≤ x → (fexp2 a).1 = inf32 false) ∧ (x < -151 * 2 ^ 149 → (fexp2 a).1 = 0) ∧
      (∀ i : Nat, i ≤ 276 → x = ((i : Int) - 149) * 2 ^ 149 → (val32 (fexp2 a).1).isFin = true ∧ (val32 (fexp2 a).1).num = 2 ^ i) ∧
      (∀ i : Nat, i ≤ 275 → ((i : Int) - 149) * 2 ^ 149 ≤ x → x < ((i : Int) - 148) * 2 ^ 149 → 2 ^ i ≤ (val32 (fexp2 a).1).num)) ∧
    ((val32 a).isFin = true → ∀ k : Nat, 2 ^ k ≤ x → x < 2 ^ (k + 1) → (flog2 a).2 = false ∧ (val32 (flog2 a).1).isFin = true ∧
      (x = 2 ^ k → (val32 (flog2 a).1).num = ((k : Int) - 149) * 2 ^ 149) ∧
      ((k : Int) - 149) * 2 ^ 149 ≤ (val32 (flog2 a).1).num ∧ (val32 (flog2 a).1).num ≤ ((k : Int) - 148) * 2 ^ 149)) ∧
  (∀ (src : Nat) (rm : RMode) (sat : Bool) (w : W32), src < 8 →
    let v := elemFV src w.toNat
    (∀ p ∈ ([(5, -128, 127), (6, 0, 255), (7, -2 ^ 31, 2 ^ 31 - 1)] : List (Nat × Int × Int)),
      let r := cvtLane src p.1 rm sat w
      (v.isNan = true → r = ⟨0, true, false⟩) ∧ (v.isInf = true → r = ⟨BitVec.ofInt 32 (if v.neg then p.2.1 else p.2.2), false, true⟩) ∧
      (v.isFin = true → ∃ k, RoundsInt rm v.num (2 ^ 149) k ∧ r = ⟨BitVec.ofInt 32 (max p.2.1 (min p.2.2 k)), false, decide (k < p.2.1 ∨ p.2.2 < k)⟩)) ∧
    (∀ p ∈ ([(0, f32), (1, bf16), (2, fp16), (3, f8e4), (4, f8e5)] : List (Nat × Fmt)), v.isFin = true →
      let r := cvtLane src p.1 rm sat w
      (v.num.natAbs ≤ p.2.maxNum → ∃ c, r = ⟨BitVec.ofNat 32 c, false, false⟩ ∧ Rounds p.2 rm v.num 1 c ∧ (p.2.decode c).neg = v.neg) ∧
      (2 * p.2.maxNum ≤ v.num.natAbs → sat = true ∨ p.1 = 3 → r = ⟨BitVec.ofNat 32 (p.2.maxCode v.neg), false, true⟩) ∧
      (2 * p.2.maxNum ≤ v.num.natAbs → sat = false → p.1 ≠ 3 → rm = .rne → r = ⟨BitVec.ofNat 32 (p.2.infCode v.neg), false, false⟩))) ∧
  (∀ p ∈ ([(1, bf16), (2, fp16), (3, f8e4), (4, f8e5)] : List (Nat × Fmt)), ∀ (c : Nat) (m n : RMode), c < 2 ^ (1 + p.2.ew + p.2.fw) →
    let wide := cvtLane p.1 0 m false (BitVec.ofNat 32 c)
    wide.inv = false ∧ wide.sat = false ∧ cvtLane 0 p.1 n false wide.val = ⟨BitVec.ofNat 32 c, false, false⟩) ∧
  (∀ (rm : RMode) (scale : Nat) (xs : List W32),
    let s := fp16.decode scale
    let ratio (x : W32) : Int := if s.num < 0 then -(val32 x).num else (val32 x).num
    (s.isFin = false ∨ s.num = 0 → packRow rm scale xs = (List.replicate 128 0, true, false)) ∧
    (s.isFin = true → s.num ≠ 0 → xs.length = 128 → (∀ x ∈ xs, (val32 x).isFin = true ∧ (val32 x).num.natAbs ≤ 7 * s.num.natAbs) →
      ∃ ks : List Int, packRow rm scale xs = (ks.map fun k => (k % 16).toNat, false, false) ∧ ks.length = 128 ∧
        ∀ p ∈ xs.zip ks, RoundsInt rm (ratio p.1) s.num.natAbs p.2) ∧
    (∀ (i : Nat) (x : W32), s.isFin = true → s.num ≠ 0 → 1 ≤ i → i ≤ 126 → xs = (List.replicate 128 0).set i x → (val32 x).isFin = true →
      8 * s.num.natAbs ≤ (val32 x).num.natAbs → (val32 x).num.natAbs ≤ 448 * s.num.natAbs →
      ∃ c, Rounds f8e4 rm (ratio x * 2 ^ 149) s.num.natAbs c ∧
        packRow rm scale xs = ((((List.replicate 128 0).set (i - 1) (c / 16)).set i 8).set (i + 1) (c % 16), false, false))) ∧
  (∀ (rule : PairRule) (mode : RMode) (acc : W32) (as bs : List FV) (sa sb : FV),
    let c := val32 acc
    let dot : Int := ((as.zip bs).map fun x => x.1.num * x.2.num).sum
    as.length = bs.length → as.length ≤ 128 → rule ≠ .aligned true →
    (rule ≠ .q4x → c.isNan = true ∨ (∃ x ∈ as ++ bs, x.isNan = true) → (kElem rule mode acc as bs sa sb).1 = 0x7FC00000) ∧
    (c.isFin = true → (∀ x ∈ as ++ bs, x.isFin = true) → sa.isFin = true → sb.isFin = true →
      let p := match rule with
        | .q4x => dot * sa.num * sb.num + c.num * 2 ^ 447
        | _ => dot + c.num * 2 ^ 149
      let q : Nat := match rule with
        | .q4x => 2 ^ 447
        | _ => 2 ^ 149
      let terms : List Int := c.num * 2 ^ 149 :: (as.zip bs).map fun x => x.1.num * x.2.num
      (rule = .aligned false → ∀ t ∈ terms, ∀ u ∈ terms, t % 2 ^ (Nat.log2 u.natAbs - 50) = 0) →
      p ≠ 0 → p.natAbs ≤ f32.maxNum * q →
      ∃ n, kElem rule mode acc as bs sa sb = (BitVec.ofNat 32 n, false) ∧ Rounds f32 mode p q n))

/-- R194 to R197: VCVT converts every active lane from VSH.FMT to its target, VFXC 32 FX64 elements to 32 lanes, VPACKQ 128 lanes to a Q4X row, VUNPQ a Q4X row to
128 lanes in a pair of registers. The model's own reading: a zero element times a negative scale is −0 (log entry 107), when VPACKQ sets VSAT (log entry 35), and
that VCVT's result has no earmark of V(SREG) (log entry 90). -/
def Obligations.VectorConversions : Prop :=
  ∀ (w g : Tok) (d a : VR) (rm : RMode) (sat : Bool) (f : Fin 10) (s u : State),
    (f.val < 8 → Ready .v w g 2 false s u → ∃ t v, exec (.vcvt w g d a rm sat f) s = .next t ∧ Passed .v g (s.me.pc + 2) 2 v t ∧
      VWrote d (u.v a).mark (fun j => cvtLane u.vFmt f.val rm sat (Row.lane (u.v a).val j)) u v) ∧
    (Ready .v w g 2 false s u → ∃ t v, exec (.vfxc w g d a rm sat 0) s = .next t ∧ Passed .v g (s.me.pc + 2) 2 v t ∧
      VRowWrote d ((u.v a).mark.union (u.v d).mark) (fun j => if j < 32 then
        (let n := (Row.lane (u.v a).val (2 * j + 1) ++ Row.lane (u.v a).val (2 * j)).toInt
         if n = 0 then 0 else BitVec.ofNat 32 (f32.round rm sat (decide (n < 0)) n.natAbs (sextNat 8 (Row.lane (u.v d).val 0).toNat) false).1) else 0) u v) ∧
    (a.val % 2 = 0 → Ready .v w g 2 false s u → ∃ t v, exec (.vpackq w g d a rm sat 8) s = .next t ∧ Passed .v g (s.me.pc + 2) 2 v t ∧
      v.core.regs.v[d].mark = ((u.v a).mark.union (u.v (pairOf a)).mark).union (u.v d).mark ∧ v.core.regs.v[d].gen = u.gen ∧
      (let r := packRow rm ((Row.lane (u.v d).val 0).toNat % 2 ^ 16)
        ((List.range 64).map (Row.lane (u.v a).val) ++ (List.range 64).map (Row.lane (u.v (pairOf a)).val))
       (∀ j, j < 64 → Row.byte v.core.regs.v[d].val j = BitVec.ofNat 8 (r.1.getD (2 * j) 0 + 16 * r.1.getD (2 * j + 1) 0)) ∧
       v.core.regs.nfl = u.core.regs.nfl ||| NumFlags.bits { NumFlags.zero with vinv := r.2.1, vsat := r.2.2 }) ∧
      Row.byte v.core.regs.v[d].val 64 = BitVec.ofNat 8 ((Row.lane (u.v d).val 0).toNat % 2 ^ 16) ∧
      Row.byte v.core.regs.v[d].val 65 = BitVec.ofNat 8 ((Row.lane (u.v d).val 0).toNat % 2 ^ 16 / 256) ∧
      (∀ j, 66 ≤ j → j < 256 → Row.byte v.core.regs.v[d].val j = 0) ∧ v.mem = u.mem ∧ v.core.regs.x = u.core.regs.x) ∧
    (d.val % 2 = 0 → Ready .v w g 1 false s u → ∃ t v, exec (.vunpq w g d a) s = .next t ∧ Passed .v g (s.me.pc + 1) 1 v t ∧
      v.core.regs.v[d].mark = (u.v a).mark ∧ v.core.regs.v[pairOf d].mark = (u.v a).mark ∧
      (∀ k, k < 128 → Row.lane (v.core.regs.v[if k < 64 then d else pairOf d]).val (k % 64) =
        (let q := (q4xList (Row.byte (u.v a).val)).getD k (.fin false 0 0, false)
         if q.2 then 0 else (fmul (BitVec.ofNat 32 (f32.convert .rne false q.1).1) (BitVec.ofNat 32 (f32.convert .rne false
           (fp16.decode ((Row.byte (u.v a).val 64).toNat + 256 * (Row.byte (u.v a).val 65).toNat))).1)).1)) ∧
      v.mem = u.mem ∧ v.core.regs.x = u.core.regs.x)

/-- R198 to R202: VRED, VSCAN, VNORM and VSMAX over segments: each active lane takes the result of its own segment (every lane j that of segment j for a VRED
without bcast), with the earmark of the register that names the segments. -/
def Obligations.VectorSegments : Prop :=
  ∀ (w g : Tok) (d a : VR) (s u : State), Ready .v w g 1 false s u →
    let x := Row.lane (u.v a).val
    let m := (u.v a).mark.union u.segMark
    (∀ o : RedOp, u.vFmt = 0 ∨ u.vFmt = 7 →
      (∃ t v, exec (.vred w g d a true o) s = .next t ∧ Passed .v g (s.me.pc + 1) 1 v t ∧
        VWrote d m (fun j => checked (reduce (u.vFmt == 7) o ((u.segLanes u.vActive (u.seg j)).map x))) u v) ∧
      (∃ t v, exec (.vred w g d a false o) s = .next t ∧ Passed .v g (s.me.pc + 1) 1 v t ∧
        VRowWrote d m (fun j => (reduce (u.vFmt == 7) o ((u.segLanes u.vActive j).map x)).1) u v) ∧
      (∀ exc : Bool, ∃ t v, exec (.vscan w g d a exc o) s = .next t ∧ Passed .v g (s.me.pc + 1) 1 v t ∧
        VWrote d m (fun j => checked (reduce (u.vFmt == 7) o ((u.segLanes (if exc then j else j + 1) (u.seg j)).map x))) u v)) ∧
    (u.vFmt = 0 → ∀ (e : Fin 16) (k : NormKind),
      ∀ p ∈ ([(.vnorm w g d a e k, vnormSeg e.val k), (.vsmax w g d a, vsmaxSeg)] : List (Instr × (List W32 → List LaneRes))),
      ∃ t v, exec p.1 s = .next t ∧ Passed .v g (s.me.pc + 1) 1 v t ∧
        VWrote d m (fun j => (p.2 ((u.segLanes u.vActive (u.seg j)).map x)).getD (u.segLanes j (u.seg j)).length (plain 0)) u v)

/-- R204, R205, R207: VPOP takes the head of a load queue into VD, a zero row when it is stale, and gives its credit back to a peer; VPUSH appends V's row to a store queue;
VACCRD and VACCWR move one half row of an accumulator tile; VSETSH writes VSH. -/
def Obligations.VectorQueues : Prop :=
  ∀ (w g : Tok) (d : VR) (s u : State),
    (∀ (q : Fin 4) (e : QEntry) (rest : List QEntry), Ready .v w g 1 false s u → u.core.q.lq[q] = e :: rest →
      u.core.q.boundFrom[q] = none → ∃ t, exec (.vpop w g d q) s = .next t ∧ Passed .v g (s.me.pc + 1) 1
        ((u.onCore (Core.setLq q rest)).setVreg d (if e.gen = u.gen then e.val else 0) (if e.gen = u.gen then e.mark else Mark.empty)) t) ∧
    (∀ (q : Fin 4) (e : QEntry) (rest : List QEntry) (b : BoundFrom), Ready .v w g 1 false s u → u.core.q.lq[q] = e :: rest →
      u.core.q.boundFrom[q] = some b → b.peer ≠ u.core.place.num → ∃ t v, exec (.vpop w g d q) s = .next t ∧ Passed .v g (s.me.pc + 1) 1 v t ∧
        v.core.q = (u.core.setLq q rest).q ∧ v.core.regs = (u.setVreg d (if e.gen = u.gen then e.val else 0)
          (if e.gen = u.gen then e.mark else Mark.empty)).core.regs ∧ v.mem = u.mem ∧
        ∀ k0, u.coreAt ⟨u.core.place.part, b.peer⟩ = some k0 → k0.runsTask (u.core.place.task.getD 0) = true →
          ∃ k, v.coreAt ⟨u.core.place.part, b.peer⟩ = some k ∧ k.q.bound[b.sq] = (k0.q.bound[b.sq]).map fun x => { x with credits := x.credits + 1 }) ∧
    (∀ q : Fin 2, Ready .v w g 1 false s u → (∀ b ∈ u.core.q.binds, b.2 ≠ q) → u.core.q.bound[q] = none → (u.core.q.sq[q]).length < 16 →
      ∃ t, exec (.vpush w g d q) s = .next t ∧ Passed .v g (s.me.pc + 1) 1
        (u.onCore (Core.setSq q (u.core.q.sq[q] ++ [⟨(u.v d).val, u.gen, (u.v d).mark⟩]))) t) ∧
    (∀ (q : Fin 2) (b : Binding), Ready .v w g 1 false s u → (∀ x ∈ u.core.q.binds, x.2 ≠ q) → u.core.q.bound[q] = some b → 0 < b.credits →
      ∃ t v, exec (.vpush w g d q) s = .next t ∧ Passed .v g (s.me.pc + 1) 1 v t ∧
        v.core.q.bound[q] = some { b with credits := b.credits - 1 } ∧
        v.gran.boundAir = u.gran.boundAir ++ [⟨u.core.id, q, u.core.place.task.getD 0, b.peer, b.plq, ⟨(u.v d).val, u.gen, (u.v d).mark⟩⟩] ∧
        v.core.regs = u.core.regs ∧ v.mem = u.mem) ∧
    (∀ (c : AccR) (r : Fin 128) (hi ken : Bool) (k : KR),
      ∀ p ∈ ([(1, none, .vaccrd w g d c r hi, .vaccwr w g d c r hi), (2, if ken then some k else none, .vaccrdK w g d c r hi ken k, .vaccwrK w g d c r hi ken k)]
        : List (Nat × Option KR × Instr × Instr)), Ready .v w g p.1 false s u → (p.2.1.isSome = true → u.kAhead = false) →
      let row := 2 * ((r.val + (match p.2.1 with
        | some k => (u.k k).val.toNat
        | none => 0)) % 128) + (if hi then 1 else 0)
      let km := match p.2.1 with
        | some k => (u.k k).mark
        | none => Mark.empty
      let t := (u.core.mat.acc[c]).live u.gen
      (∃ y, exec p.2.2.1 s = .next y ∧ Passed .v g (s.me.pc + p.1) p.1 (u.setVreg d (Sparse.get 0 t.rows row) (t.mark.union km)) y) ∧
      (∃ y, exec p.2.2.2 s = .next y ∧ Passed .v g (s.me.pc + p.1) p.1 (u.onMat fun x => { x with acc := x.acc.set c { t with
        rows := Sparse.set 0 t.rows row (u.v d).val, mark := (t.mark.union (u.v d).mark).union km } }) y)) ∧
    (∀ v : W32, Ready .v w g 2 false s u → fld v 0 4 < 8 → fld v 11 2 < 2 → fld v 10 1 = 0 → fld v 18 14 = 0 →
      ∃ t, exec (.vsetsh w g v) s = .next t ∧ Passed .v g (s.me.pc + 2) 2 (u.onRegs fun r => { r with vsh := v }) t)

/-! ### M -/

/-- R212, R213, R218: MMA and MMAT issue once their FQ entry and references are there: the entries are popped, the operation begins at this cycle, its signal left to its
end, and M walks on. A stamped one issues in the cycle its stamp names, and waits for it before. -/
def Obligations.MatrixIssue : Prop :=
  ∀ (w g : Tok) (stamp : W32) (s u : State), u.mReady = true →
    (∀ p ∈ ([(1, none, false, .mma w g), (1, none, true, .mmat w g), (2, some stamp, false, .mmaStamp w g stamp), (2, some stamp, true, .mmatStamp w g stamp)]
        : List (Nat × Option W32 × Bool × Instr)), Ready .m w none p.1 false s u →
      (p.2.1 = none → u.core.q.ma ≠ [] ∧ u.core.q.mb ≠ []) → (∀ x, p.2.1 = some x → x = u.gcc.setWidth 32) →
      ∀ (o : MatOp) (mode : RMode) (fq : List (Tagged W32)) (ma mb : List (Tagged W64)),
        u.issue p.2.2.1 p.2.1.isSome g = .op o mode fq ma mb →
        (o.trans = p.2.2.1 ∧ o.sig = g ∧ o.issue = u.gcc ∧ o.kdone = 0 ∧ o.mode = mode) ∧
        ∃ t, exec p.2.2.2 s = .next t ∧ Passed .m none (s.me.pc + p.1) p.1
          (((u.onQ fun q => { q with fq := fq, ma := ma, mb := mb }).onRegs fun r => { r with mmode := mode }).onMat fun m =>
            { m with ops := m.ops ++ [o] }) t) ∧
    (∀ p ∈ ([.mmaStamp w g stamp, .mmatStamp w g stamp] : List Instr), Ready .m w none 2 false s u →
      stamp ≠ u.gcc.setWidth 32 → (stamp - u.gcc.setWidth 32).toNat < 2 ^ 31 →
      ∃ t, exec p s = .next t ∧ (t.core.eng .m).popped = true ∧ (t.core.eng .m).pc = s.me.pc ∧ t.core.mat = u.core.mat ∧ t.core.q = u.core.q ∧
        t.mem = u.mem)

/-- R215, R219, R220: MZERO, MLOAD, MSAVE and MPROG start when no operation is under way, and take effect their fixed cycles later: a zero tile, the 256 rows as the tile's
half rows, the tile as 256 rows, or MPS; M then goes on, and the word's signal is given where its queue has room. That all 256 rows move in the cycle the word
finishes is log entry 108 (DESIGN CHOICE). -/
def Obligations.MatrixWords : Prop :=
  (∀ (w g : Tok) (c : AccR) (r : RowIx) (s u : State), Ready .m w g 1 false s u → u.core.mat.word = none → u.core.mat.ops = [] →
    r.val % 256 = 0 → r.val ≠ 7936 →
    ∀ p ∈ ([(.mzero w g c, .zero c), (.mload w g c r, .load c r.val), (.msave w g c r, .save c r.val), (.mprog w g c, .prog c)] : List (Instr × MWord)),
      ∃ t, exec p.1 s = .next t ∧ t.core.mat = { u.core.mat with word := some (p.2, u.gcc) } ∧ (t.core.eng .m).pc = s.me.pc ∧
        t.core.regs = u.core.regs ∧ t.core.port = u.core.port ∧ t.mem = u.mem) ∧
  (∀ (s : State) (x : MWord) (start : W64) (g : Tok), s.core.mat.word = some (x, start) → s.core.place.run = .running →
    x.cycles ≤ (s.gcc - start).toNat → tokField .m (fld (s.core.wordAt (s.core.eng .m).pc) 23 3) = .ok g → (∀ d, g = some d → s.core.tokRoom .m d = true) →
    ∃ t v, exec (.mWordFinish s.core.id) s = .next t ∧ Passed .m g ((s.core.eng .m).pc + 1) 1 v t ∧ v.core.mat.word = none ∧ v.mem = s.mem ∧
      match x with
      | .zero a => v.core.mat.acc = s.core.mat.acc.set a ⟨[], s.gen, Mark.empty, 0⟩ ∧ v.core.regs = s.core.regs ∧ v.core.port = s.core.port
      | .load a r => (∀ i, i < 256 → Sparse.get 0 (v.core.mat.acc[a]).rows i = (s.core.row (r + i)).val) ∧ (v.core.mat.acc[a]).gen = s.gen ∧
          v.core.regs = s.core.regs ∧ v.core.port = s.core.port
      | .save a r => v.core.mat.acc = s.core.mat.acc ∧ v.core.regs = s.core.regs ∧
          (Sparse.wf zeroRow s.core.port.spad = true → ∀ i, i < 256 →
            (v.core.row (r + i)).val = Sparse.get 0 ((s.core.mat.acc[a]).live s.gen).rows i)
      | .prog a => v.core.mat.acc = s.core.mat.acc ∧ v.core.port = s.core.port ∧
          v.core.regs = { s.core.regs with mps := v.core.regs.mps } ∧
          v.core.regs.mps = BitVec.ofNat 64 (((s.core.mat.acc[a]).live s.gen).kcount.toNat * 2 ^ 32 + a.val * 2 ^ 8 + s.core.regs.mmode.code))

/-- R79, R82, R213, R215, R218: a K-step of the oldest operation runs once its interval and six cycles are over, on the rows read for it: every element inside the
operation's region whose segments match takes the pair's K-step of its row of A, its column of B and itself, and every other stands; the tile's earmark is
united with the format word's and those of the rows read; its K count and the operation's steps done rise by one; only the tile of the operation changes. After the
last step the operation leaves, its flags are set, and its signal is given, or kept where there is no room for it. STAMP_ISSUE in the cycle that a waiting word's stamp names issues it: its FQ entry and references are popped,
the operation begins, M walks on past the word. -/
def Obligations.KStepsAndStamps : Prop :=
  (∀ (s : State) (o : MatOp) (rest : List MatOp) (rule : PairRule) (ks : Nat), s.core.mat.ops = o :: rest → s.core.place.run = .running →
    o.kdone < o.stopAt → (o.kdone + 1) * o.cycles + 6 ≤ (s.gcc - o.issue).toNat → pairRule (fwA o.fw) (fwB o.fw) = some (rule, ks) →
    let old := (s.core.mat.acc[fwAcc o.fw]).live s.gen
    let rd (r : Nat) : QEntry := Sparse.get zeroRow (s.core.kRows o) r
    let a := stepSide rd o.ra (fwA o.fw) (o.span ks o.kdone).1 (o.span ks o.kdone).2
    let b := stepSide rd o.rb (fwB o.fw) (o.span ks o.kdone).1 (o.span ks o.kdone).2
    let takes (m n : Nat) : Bool := m < a.elems.length && n < b.elems.length && (!fwSeg o.fw || (a.ids.getD m 0 == b.ids.getD n 0 && a.ids.getD m 0 != 0xFFFF))
    let at_ (t : AccTile) (m n : Nat) : W32 := if o.trans then t.elem n m else t.elem m n
    let new (m n : Nat) : W32 × Bool := kElem rule o.mode (at_ old m n) (a.elems.getD m []) (b.elems.getD n []) (a.scales.getD m (.fin false 0 0)) (b.scales.getD n (.fin false 0 0))
    let minv := o.minv || a.qinv || b.qinv || (List.range 128).any fun m => (List.range 128).any fun n => takes m n && (new m n).2
    let qinv := o.qinv || a.qinv || b.qinv
    Sparse.wf 0 old.rows = true → a.elems.length ≤ 128 → b.elems.length ≤ 128 →
    ∃ t tile, exec (.kstep s.core.id) s = .next t ∧ t.core.mat.acc = s.core.mat.acc.set (fwAcc o.fw) tile ∧
      (∀ m n, m < 128 → n < 128 → at_ tile m n = if takes m n = true then (new m n).1 else at_ old m n) ∧
      tile.gen = s.gen ∧ tile.kcount = old.kcount + 1 ∧
      tile.mark = Mark.unions (old.mark :: o.fwMark :: (a.rows ++ b.rows).map fun r => (rd r).mark) ∧
      (o.kdone + 1 < o.steps → t.core.regs = s.core.regs ∧ (∀ e d, t.core.tok e d = s.core.tok e d) ∧ t.core.mat.sigs = s.core.mat.sigs ∧
        ∃ o', t.core.mat.ops = o' :: rest ∧ o'.kdone = o.kdone + 1 ∧ o'.steps = o.steps ∧ o'.minv = minv ∧ o'.qinv = qinv) ∧
      (o.steps ≤ o.kdone + 1 → t.core.mat.ops = rest ∧
        t.core.regs = { s.core.regs with
          nfl := s.core.regs.nfl ||| NumFlags.bits { NumFlags.zero with minv := minv, qinv := qinv }
          nflNew := t.core.regs.nflNew } ∧
        (o.sig = none → t.core.mat.sigs = s.core.mat.sigs ∧ ∀ e d, t.core.tok e d = s.core.tok e d) ∧
        (∀ d, o.sig = some d →
          (s.core.tokRoom .m d = true → s.core.mat.sigs = [] → t.core.mat.sigs = [] ∧ t.core.tok .m d = s.core.tok .m d + 1) ∧
          (s.core.tokRoom .m d = false ∨ s.core.mat.sigs ≠ [] → t.core.mat.sigs = s.core.mat.sigs ++ [d] ∧ t.core.tok .m d = s.core.tok .m d))) ∧
      t.core.q = s.core.q ∧ t.core.port = s.core.port ∧ t.mem = s.mem) ∧
  (∀ (s u : State) (w g : Tok), s.core.stampWaited = some (s.gcc.setWidth 32) →
    let v := { s with act := .m }
    v.mayMove .m = true → Ready .m w none 2 false v u → u.mReady = true →
    ∀ p ∈ ([(false, .mmaStamp w g (s.gcc.setWidth 32)), (true, .mmatStamp w g (s.gcc.setWidth 32))] : List (Bool × Instr)),
      decodeWord (s.core.wordAt (s.core.eng .m).pc) (s.core.wordAt ((s.core.eng .m).pc + 1)) = .ok p.2 →
      ∀ (o : MatOp) (mode : RMode) (fq : List (Tagged W32)) (ma mb : List (Tagged W64)), u.issue p.1 true g = .op o mode fq ma mb →
        ∃ t, exec (.stampIssue s.core.id) s = .next t ∧ Passed .m none ((s.core.eng .m).pc + 2) 2
          (((u.onQ fun q => { q with fq := fq, ma := ma, mb := mb }).onRegs fun r => { r with mmode := mode }).onMat fun m =>
            { m with ops := m.ops ++ [o] }) t)

/-! ### P -/

/-- R234, R237, R238: PBUILD reads a template that R237 admits into its staging slot, and waits while a PSEND holds the slot; PSEND finishes once the port has
accepted its send, whose beats it has found; the port then reads the beats one at a time, each with its page's earmark and each in its turn at its slice
(R415), and hands the packet over, with the bead the word names, which releases the slot. That the word finds the beats and the port reads them later is log entry
121's reading. -/
def Obligations.PacketSending : Prop :=
  ∀ (w g : Tok) (ka : KR) (bc : BcR) (ben : Bool) (slot : Fin 8) (s u : State), Ready .p w g 1 false s u →
    (∀ (tg : Target) (hpa frame : Nat) (v r : State), u.kAhead = false → u.core.holdsSlot slot = false →
      Reaches .home false true true 128 7 0 (u.kp ka).val tg (.mem hpa frame) u v → AsksHome hpa frame 128 v r →
      let b := r.seen r.core.place.part hpa 128
      templateBad b = false →
      ∃ t, exec (.pbuild w g ka slot) s = .next t ∧ Passed .p g (s.me.pc + 1) 1 ((r.afterRead r.core.place.part hpa 128).onWaits fun x =>
        { x with stage := x.stage.set slot (some (r.fromTemplate b ((r.pageMark frame).union (u.kp ka).mark))) }) t) ∧
    (∀ (x : Staged) (l : List (Nat × Nat)) (v : State), u.core.waits.stage[slot] = some x → Beats x.beats x.payaddr u l v →
      ∃ t, exec (.psend w g bc ben slot) s = .next t ∧ Passed .p g (s.me.pc + 1) 1 (v.onPort fun y => { y with
        pend := y.pend ++ [⟨.p, 0, v.gen, none, [.send slot x.pkt (if ben then some bc else none) l], 0, Mark.empty, false⟩] }) t) ∧
    (∀ (i : Nat) (p : Pend) (x : Packet) (n : Option BcR) (v : State), v.core.port.pend[i]? = some p → p.ops = [.send slot x n []] →
      (∀ j ∈ v.core.port.pend.take i, j.before p.eng p.cls [] = false) →
      let sent := (v.onXr fun y => { y with arrived := y.arrived ++ [x] }).meshOut v.core.id (.packet (x.payload.length / 64))
      exec (.homeApply v.core.id i) v = .next ((match n with
        | some n => sent.addBead sent.core.place.part sent.core.place.num n.val
        | none => sent).opDone i 0 p p.buf p.mark)) ∧
    (∀ (i : Nat) (p : Pend) (x : Packet) (n : Option BcR) (hpa frame : Nat) (l : List (Nat × Nat)) (v r : State), v.core.port.pend[i]? = some p →
      p.ops = [.send slot x n ((hpa, frame) :: l)] →
      (∀ j ∈ v.core.port.pend.take i, j.before p.eng p.cls (linesOf hpa 64 ++ l.flatMap fun y => linesOf y.1 64) = false) →
      v.turnAt v.core.place.part (v.accessWho ((p.tag.map Fin.val).getD 0)) (.mem hpa frame) = some r → r.poisoned hpa 64 = false →
      exec (.homeApply v.core.id i) v = .next ((r.afterRead r.core.place.part hpa 64).onPort fun y => { y with pend := y.pend.set i { p with
        ops := [.send slot { x with payload := x.payload ++ r.seen r.core.place.part hpa 64, mark := x.mark.union (r.pageMark frame) } n l] } }))

/-- R236, R239, R240: PCOUNT.WAIT ends once the bead counter has reached its target; PCOUNT.RD gives the counter in PST and, with CLR, leaves 0; PRECV
takes the oldest header to memory, with whether one was dropped in PST. -/
def Obligations.PacketReceiving : Prop :=
  ∀ (w g : Tok) (ka : KR) (bc : BcR) (i : W32) (s u : State),
    (Ready .p w g 1 false s u → u.kAhead = false → (u.k ka).val.toNat ≤ (u.myBead bc).toNat →
      ∃ t, exec (.pcountWait w g ka bc) s = .next t ∧ Passed .p g (s.me.pc + 1) 1 u t) ∧
    (Ready .p w g 2 false s u → i.toNat ≤ (u.myBead bc).toNat →
      ∃ t, exec (.pcountWaitImm w g bc i) s = .next t ∧ Passed .p g (s.me.pc + 2) 2 u t) ∧
    (Ready .p w g 1 false s u → ∀ clr : Bool, ∃ t v, exec (.pcountRd w g bc clr) s = .next t ∧ Passed .p g (s.me.pc + 1) 1 v t ∧
      v.core.regs = { u.core.regs with pst := pstWord (u.myBead bc).toNat 0xFF 0 u.myRx.ovf 0 } ∧ v.mem = u.mem ∧
      (Sparse.wf 0 u.xr.beads = true → v.myBead bc = (if clr then 0 else u.myBead bc))) ∧
    (∀ (h : Packet) (rest : List Packet) (tg : Target) (hpa frame : Nat) (v x : State), Ready .p w g 1 false s u → u.kAhead = false →
      u.myRx.hdrs = h :: rest → Reaches .home true false true 64 6 0 (u.kp ka).val tg (.mem hpa frame) u v → AsksHome hpa frame 64 v x h.header →
      let y := x.writeData x.core.place.part x.gen .plain hpa frame h.header h.mark
      ∃ t, exec (.precv w g ka) s = .next t ∧ Passed .p g (s.me.pc + 1) 1
        ((y.setPst 0 0xFF 0 0).setRx (y.setPst 0 0xFF 0 0).core.place.part (y.setPst 0 0xFF 0 0).core.place.num ⟨rest, false⟩) t)

/-- R241, R300, R301: PCOLL takes a block with a ticket and a number of its own in its group, once it may write the block's STATUS; it rejects one that breaks R301 or names no
group with STATUS 5, and gives STATUS 4 when the function's queue is full; a block not taken is not written to. The model's own reading: GROUP is
translated before the fields are checked (log entry 109), a block that breaks R301 is rejected whether or not the queue is full (log entry 25), and
a group is numbered by its set of members (log entry 40). -/
def Obligations.CollectiveBlocks : Prop :=
  ∀ (w g : Tok) (ka : KR) (s u v a r : State) (tg : Target) (hpa frame : Nat) (grp : Option (List Nat)),
    Ready .p w g 1 false s u → u.kAhead = false → u.allPerformed = true →
    Reaches .home false true true 128 7 0 (u.kp ka).val tg (.mem hpa frame) u v →
    AsksHome hpa frame 128 v a →
    let b := a.seen a.core.place.part hpa 128
    let z := a.afterRead a.core.place.part hpa 128
    z.groupOf z.who (BitVec.ofNat 64 (leAt b 8 8)) = (.ok grp, r) →
    (grp = none → ∃ t, exec (.pcoll w g ka) s = .next t ∧ Passed .p g (s.me.pc + 1) 1 (r.setPst 0 0xFF 0 5) t) ∧
    (∀ nodes, grp = some nodes →
      let vf := r.core.place.vf
      (blockBad b = true ∨ nodes.length ≤ leAt b 6 2 →
        ∃ t, exec (.pcoll w g ka) s = .next t ∧ Passed .p g (s.me.pc + 1) 1 (r.setPst 0 0xFF 0 5) t) ∧
      (blockBad b = false → leAt b 6 2 < nodes.length → 64 ≤ (r.vfAt vf).colls.length →
        ∃ t, exec (.pcoll w g ka) s = .next t ∧ Passed .p g (s.me.pc + 1) 1 (r.setPst 0 0xFF 0 4) t) ∧
      (∀ (tg2 : Target) (h2 f2 : Nat) (x c : State), blockBad b = false → leAt b 6 2 < nodes.length → (r.vfAt vf).colls.length < 64 → vf < 192 →
        Reaches .home true false true 8 3 0 ((u.kp ka).val + 0x28) tg2 (.mem h2 f2) r x → AsksHome h2 f2 8 x c (natLe 0xFF 8) →
        let n := Sparse.get 0 (c.vfAt vf).posted (groupKey nodes)
        ∃ t y, exec (.pcoll w g ka) s = .next t ∧ Passed .p g (s.me.pc + 1) 1 y t ∧
          (y.vfAt vf).ticket = (c.vfAt vf).ticket + 1 ∧ (y.vfAt vf).posted = Sparse.set 0 (c.vfAt vf).posted (groupKey nodes) (n + 1) ∧
          (y.vfAt vf).colls.map Coll.blk = (c.vfAt vf).colls.map Coll.blk ++
            [parseBlock b (c.vfAt vf).ticket ⟨c.core.place.part, vf, groupKey nodes, n⟩ c.core.id (u.kp ka).val nodes] ∧
          fld y.core.regs.pst 32 32 = (c.vfAt vf).ticket.toNat ∧ fld y.core.regs.pst 0 8 = 0))

/-- R249, R250: PPARK.RD writes the record of a slot of this function and marks it read by this core; PRESUME sends its packet on, with more budget, another PC or another W image;
PDROP frees the slot. Each says so in PST; a slot that holds nothing of this function gives STATUS 2, and one that is busy STATUS 3. 0xFF names the oldest slot that this
core has not read, and where there is none PPARK.RD gives STATUS 1. VALUE counts the slots before PRESUME frees its
own and after PDROP has (log entry 111, the model's choice). -/
def Obligations.ParkBay : Prop :=
  ∀ (w g : Tok) (ka : KR) (slot : BitVec 8) (s u : State), slot.toNat < 64 →
    (∀ x v, u.nameSlot slot.toNat = (some x, v) → x.busy = false →
      (∀ (named : BitVec 8) (tg : Target) (hpa frame : Nat) (r q : State), named = slot ∨ (named = 0xFF ∧ u.oldestPark = some slot.toNat) →
        Ready .p w g 1 false s u → u.kAhead = false → (u.kp ka).val.toNat < 2 ^ 57 →
        (u.kp ka).val.toNat % 128 = 0 → Reaches .home true false true 128 7 0 (v.kp ka).val tg (.mem hpa frame) v r → AsksHome hpa frame 128 r q (parkRecord x.p) →
        let a := q.writeData q.core.place.part q.gen .plain hpa frame (parkRecord x.p) x.p.pkt.mark
        let y := a.setBay slot.toNat (some { x with read := a.core.place.num :: x.read })
        ∃ t, exec (.pparkRd w g ka named) s = .next t ∧ Passed .p g (s.me.pc + 1) 1 (y.setPst a.parkCount slot.toNat x.p.reason.code 0) t) ∧
      (Ready .p w g 1 false s u → ∃ t, exec (.presume w g slot) s = .next t ∧
        let y := v.reinject slot.toNat x { x.p.pkt with budget := min 255 x.p.pkt.budget, came := 6 }
        Passed .p g (s.me.pc + 1) 1 (y.setPst v.parkCount slot.toNat x.p.reason.code 0) t) ∧
      (∀ (addb : BitVec 8) (npc : Fin 16) (newpc : Bool), Ready .p w g 2 false s u →
        let p := { x.p.pkt with budget := min 255 (x.p.pkt.budget + addb.toNat), pc := if newpc then npc.val else x.p.pkt.pc, came := 6 }
        (∃ t, exec (.presumeOptions w g ka slot addb npc newpc false) s = .next t ∧
          Passed .p g (s.me.pc + 2) 2 ((v.reinject slot.toNat x p).setPst v.parkCount slot.toNat x.p.reason.code 0) t) ∧
        (∀ (tg : Target) (hpa frame : Nat) (r z : State), u.kAhead = false →
          Reaches .home false true true 16 4 0 (v.kp ka).val tg (.mem hpa frame) v r → AsksHome hpa frame 16 r z →
          let q := { p with
            w := Vector.ofFn fun i => BitVec.ofNat 32 (leAt (z.seen z.core.place.part hpa 16) (4 * i.val) 4)
            mark := p.mark.union (z.pageMark frame) }
          let y := z.afterRead z.core.place.part hpa 16
          ∃ t, exec (.presumeOptions w g ka slot addb npc newpc true) s = .next t ∧
            Passed .p g (s.me.pc + 2) 2 ((y.reinject slot.toNat x q).setPst y.parkCount slot.toNat x.p.reason.code 0) t)) ∧
      (Ready .p w g 1 false s u → ∃ t, exec (.pdrop w g slot) s = .next t ∧
        Passed .p g (s.me.pc + 1) 1 ((v.setBay slot.toNat none).setPst (v.setBay slot.toNat none).parkCount slot.toNat x.p.reason.code 0) t)) ∧
    (∀ (x : Option ParkSlot) (v : State), u.nameSlot slot.toNat = (x, v) → (∀ y, x = some y → y.busy = true) →
      let told := match x with
        | none => v.setPst v.parkCount slot.toNat 0 2
        | some y => v.setPst v.parkCount slot.toNat y.p.reason.code 3
      (Ready .p w g 1 false s u → (∀ i ∈ ([.presume w g slot, .pdrop w g slot] : List Instr), ∃ t, exec i s = .next t ∧ Passed .p g (s.me.pc + 1) 1 told t) ∧
        (∀ named : BitVec 8, named = slot ∨ (named = 0xFF ∧ u.oldestPark = some slot.toNat) → u.kAhead = false → (u.kp ka).val.toNat < 2 ^ 57 → (u.kp ka).val.toNat % 128 = 0 →
          ∃ t, exec (.pparkRd w g ka named) s = .next t ∧ Passed .p g (s.me.pc + 1) 1 told t)) ∧
      (Ready .p w g 2 false s u → ∀ (addb : BitVec 8) (npc : Fin 16) (newpc loadw : Bool), (loadw = true → u.kAhead = false) →
        ∃ t, exec (.presumeOptions w g ka slot addb npc newpc loadw) s = .next t ∧ Passed .p g (s.me.pc + 2) 2 told t)) ∧
    (Ready .p w g 1 false s u → u.oldestPark = none → u.kAhead = false → (u.kp ka).val.toNat < 2 ^ 57 → (u.kp ka).val.toNat % 128 = 0 →
      ∃ t, exec (.pparkRd w g ka 0xFF) s = .next t ∧ Passed .p g (s.me.pc + 1) 1 (u.setPst u.parkCount 0xFF 0 1) t)

/-! ### Errands -/

/-- R242, R243, R245: the stack instructions. With the class of arithmetic permitted, operands enough and room for its results, an instruction replaces its
operands by its results and the packet stands at the next instruction; nothing else of the packet or of the module changes.
R243, R248: an errand instruction whose class the partition does not permit parks the packet with FORBID, one that lacks operands or room parks it with
STACK, before it has any effect. -/
def Obligations.ErrandStackWords : Prop :=
  (∀ (s : State) (j : LaneJob) (base : List W32) (a b : W32) (i : BitVec 11) (n : Fin 4),
    s.laneJob s.lane = some j → j.pkt.pc + 1 < 16 → s.permits j.pkt.part 0 = true →
    (∀ r ∈ ([(.errandPushi i, [], [i.signExtend 32]), (.errandPushw n, [], [j.pkt.w[n]]), (.errandDup, [a], [a, a]), (.errandSwap, [a, b], [b, a]),
        (.errandDrop, [a], []), (.errandAdd, [a, b], [a + b]), (.errandSub, [a, b], [a - b]), (.errandAnd, [a, b], [a &&& b]),
        (.errandOr, [a, b], [a ||| b]), (.errandXor, [a, b], [a ^^^ b]), (.errandShl, [a, b], [a <<< (b.toNat % 32)]),
        (.errandShr, [a, b], [a >>> (b.toNat % 32)]), (.errandCmpeq, [a, b], [if a = b then 1 else 0]),
        (.errandCmplt, [a, b], [if a.toNat < b.toNat then 1 else 0]), (.bud, [], [BitVec.ofNat 32 j.pkt.budget])]
        : List (Instr × List W32 × List W32)), StackIs j.pkt (base ++ r.2.1) → base.length + r.2.2.length ≤ 4 →
      ∃ q, exec r.1 s = .next (s.setLane s.lane (some { j with pkt := q })) ∧
        q = { j.pkt with places := q.places, sp := q.sp, pc := j.pkt.pc + 1 } ∧ StackIs q (base ++ r.2.2)) ∧
    (StackIs j.pkt (base ++ [a]) → base.length < 4 →
      (∃ q, exec (.errandPopw n) s = .next (s.setLane s.lane (some { j with pkt := q })) ∧
        q = { j.pkt with w := j.pkt.w.set n a, sp := q.sp, pc := j.pkt.pc + 1 } ∧ StackIs q base) ∧
      (∀ o : Fin 16, j.pkt.pc + o.val < 16 →
        (∃ q, exec (.jz o) s = .next (s.setLane s.lane (some { j with pkt := q })) ∧
          q = { j.pkt with sp := q.sp, pc := if a = 0 then j.pkt.pc + o.val else j.pkt.pc + 1 } ∧ StackIs q base) ∧
        (∃ q, exec (.jnz o) s = .next (s.setLane s.lane (some { j with pkt := q })) ∧
          q = { j.pkt with sp := q.sp, pc := if a = 0 then j.pkt.pc + 1 else j.pkt.pc + o.val } ∧ StackIs q base)))) ∧
  (∀ (s : State) (j : LaneJob) (cls pops pushes : Nat) (body : Packet → State → ErrRes), s.laneJob s.lane = some j →
    (s.permits j.pkt.part cls = false → runErrand cls pops pushes body s = .next (s.parkLane .forbid j.pkt)) ∧
    (s.permits j.pkt.part cls = true → j.pkt.sp < pops ∨ 4 < j.pkt.sp - pops + pushes →
      runErrand cls pops pushes body s = .next (s.parkLane .stack j.pkt)))

/-- R244, R245: the window instructions on the counters and scratch words of the packet's partition, in their turn in the recorded order
(R416, R417): the word read is pushed, a write stores the new word and unions the packet's earmark into the window's, and the packet takes
on the window's; SCR.CAS writes only where the word read is the expected one. The turn is log entry 80's. -/
def Obligations.ErrandWindows : Prop :=
  ∀ (s t : State) (j : LaneJob) (base : List W32) (n : Fin 2048) (a b c : W32),
    s.laneJob s.lane = some j → j.pkt.pc + 1 < 16 → s.choose 3 j.pkt.part s.lane (whoCode j.pkt.score j.pkt.vfn j.pkt.visits) = some t →
    let p := j.pkt
    let l := s.limits p.part
    let xb : W32 := Sparse.get 0 s.xr.xb (l.xbBase + n.val)
    (n.val < l.xbCount → ∀ r ∈ ([(.ctrRd n, 1, [], xb, none), (.ctrTest n, 1, [a], if a.toNat ≤ xb.toNat then 1 else 0, none), (.ctrAdd n, 2, [a], xb, some (xb + a))]
        : List (Instr × Nat × List W32 × W32 × Option W32)), s.permits p.part r.2.1 = true → StackIs p (base ++ r.2.2.1) → base.length < 4 →
      ∃ q v, exec r.1 s = .next (v.setLane s.lane (some { j with pkt := q })) ∧
        q = { p with places := q.places, sp := q.sp, pc := p.pc + 1, mark := p.mark.union l.xbMark } ∧ StackIs q (base ++ [r.2.2.2.1]) ∧
        v = (match r.2.2.2.2 with
          | none => t
          | some x => (t.onXr fun y => { y with xb := Sparse.set 0 y.xb (l.xbBase + n.val) x }).setPart p.part fun y => { y with xbMark := y.xbMark.union p.mark })) ∧
    (∀ r ∈ ([(.scrRd n, 3, [a], a, fun _ => none), (.scrAdd n, 4, [a, b], a, fun old => some (old + b)),
        (.scrCas n, 5, [a, b, c], a, fun old => if old = b then some c else none)] : List (Instr × Nat × List W32 × W32 × (W32 → Option W32))),
      s.permits p.part r.2.1 = true → StackIs p (base ++ r.2.2.1) → base.length < 4 →
      let ix := (r.2.2.2.1 + BitVec.ofNat 32 n.val).toNat
      ix < l.scrCount →
      let old : W32 := Sparse.get 0 s.xr.scr (l.scrBase + ix)
      ∃ q v, exec r.1 s = .next (v.setLane s.lane (some { j with pkt := q })) ∧
        q = { p with places := q.places, sp := q.sp, pc := p.pc + 1, mark := p.mark.union l.scrMark } ∧ StackIs q (base ++ [old]) ∧
        v = (match r.2.2.2.2 old with
          | none => t
          | some x => (t.onXr fun y => { y with scr := Sparse.set 0 y.scr (l.scrBase + ix) x }).setPart p.part fun y => { y with scrMark := y.scrMark.union p.mark }))

/-- R231, R245, R246: DIR names the next hop by its port or by the popped one, DIRMIN by the next hop of dimension order and DIRLOAD by the port with most credits (of the hop's own channel,
log entry 110), each saying whether there is one; CLONE splits the budget, gives the packet 0 and the clone 1, and the clone waits for the visit's end. -/
def Obligations.ErrandRoutes : Prop :=
  ∀ (s : State) (j : LaneJob) (base : List W32) (a : W32), s.laneJob s.lane = some j → j.pkt.pc + 1 < 16 → base.length < 4 →
    let p := j.pkt
    (∀ port : Fin 6, s.permits p.part 7 = true → StackIs p base →
      exec (.dir port) s = .next (s.setLane s.lane (some { j with pkt := { p with next := port.val, nv := true, pc := p.pc + 1 } }))) ∧
    (s.permits p.part 7 = true → StackIs p (base ++ [a]) → a.toNat < 6 →
      exec .dirPop s = .next (s.setLane s.lane (some { j with pkt := { p with sp := p.sp - 1, next := a.toNat, nv := true, pc := p.pc + 1 } }))) ∧
    (∀ r ∈ ([(.dirmin, 8, s.dimOrder p.dst), (.dirload, 9, if (s.dimOrder p.dst).isNone then none else bestPort p s)] : List (Instr × Nat × Option Nat)),
      s.permits p.part r.2.1 = true → StackIs p base → (r.1 = .dirload → (s.dimOrder p.dst).isSome = true → (bestPort p s).isSome = true) →
      ∃ q, exec r.1 s = .next (s.setLane s.lane (some { j with pkt := q })) ∧ StackIs q (base ++ [if r.2.2.isSome then 0 else 1]) ∧
        q = { p with places := q.places, sp := q.sp, pc := p.pc + 1, next := r.2.2.getD p.next, nv := r.2.2.isSome || p.nv }) ∧
    (∀ k : BitVec 8, s.permits p.part 6 = true → StackIs p base → p.cld < 3 →
      let n := min k.toNat p.budget
      ∃ q c, exec (.clone k) s = .next (s.setLane s.lane (some { j with pkt := q, clones := j.clones ++ [c] })) ∧
        StackIs q (base ++ [0]) ∧ StackIs c (base ++ [1]) ∧
        q = { p with places := q.places, sp := q.sp, pc := p.pc + 1, budget := p.budget - n } ∧
        c = { p with places := c.places, sp := c.sp, pc := p.pc + 1, budget := n, cld := p.cld + 1, clone := true })

/-- R228, R245, R247: what ends a visit: DELIV delivers the packet here, where no replay holds its writes back, DROPK drops it, PARK parks it at the instruction after, FWD sends it on at the cost of its hop. -/
def Obligations.ErrandEnds : Prop :=
  ∀ (s : State) (j : LaneJob), s.laneJob s.lane = some j → j.pkt.sp ≤ 4 →
    let p := j.pkt
    (s.permits p.part 11 = true → ∀ t, s.endVisit.deliver p = some t → exec .deliv s = .next t) ∧
    (s.permits p.part 12 = true → exec .dropk s = .next s.endVisit) ∧
    (∀ c : BitVec 8, s.permits p.part 13 = true → exec (.park c) s = .next (s.parkLane (.user c) { p with pc := (p.pc + 1) % 16 })) ∧
    (∀ cost, cost = (if s.minimalHop p.dst p.next then 1 else 2) → s.permits p.part 0 = true → p.nv = true → (cost = 2 → s.permits p.part 10 = true) →
      s.portUp p.next = true → cost ≤ p.budget →
      exec .fwd s = .next (s.endVisit.sendNow { p with budget := p.budget - cost, pc := 0 } p.next none))

/-! ### Stops -/

/-- R11, R93, R20, R41, R45, R369, R344, R345, R414: how contexts stop. A word that does not decode raises ILLEGAL, or ILLEGAL_TAG for a
reserved tag, in its engine; a breakpoint not to be skipped halts the engine before the word, and the hit is kept, whatever BKPT becomes; the stop for a recorded fault leaves the
context stopped when it is resumable, with a notice, and none of the registers changed; a breakpoint's stop sets SKIP; a mutual stall, the
counter at its limit and every engine still blocked, stops the context; a fault that waited for a page record is recorded; a read of a poisoned
line kills the reader. WAITM and the copies beside a stop, and a fault beside GRACE, are the model's reading (log entries 73, 74 and 94). -/
def Obligations.StopsAndTraps : Prop :=
  (∀ (r : Reject) (s : State), fld s.curWord 29 3 ≠ 7 → ∃ ist,
    exec (.illegalWord r) s = .next (raiseFault (if r = .reservedTag then .illegalTag else .illegal) ist 0 [] s)) ∧
  (∀ (r : Reject) (s : State), fld s.curWord 29 3 = 7 →
    (s.act = .s → ∃ ist, exec (.illegalWord r) s = .next (raiseFault .illegal ist 0 [] s)) ∧
    (s.act ≠ .s → exec (.illegalWord r) s = .next (s.onEng s.act fun x => { x with blk := .faulted, popped := false, done := false, look := false }))) ∧
  (∀ s : State,
    (s.core.regs.bkpt.getLsbD 14 = false → (∀ r, s.rotaOf s.core.id = some r → r.windowOpen = false) →
      exec (.breakpointHit s.core.id) s = .next ((s.onEng s.act fun x => { x with blk := .faulted, look := false }).onWalk fun w => { w with hit := some s.me.pc })) ∧
    (s.core.regs.bkpt.getLsbD 14 = true → exec (.breakpointHit s.core.id) s =
      .next ((s.onRegs fun r => { r with bkpt := r.bkpt &&& 0xFFFFBFFF }).onEng s.act fun x => { x with seen := true })) ∧
    (s.core.regs.bkpt.getLsbD 14 = false → (∃ r, s.rotaOf s.core.id = some r ∧ r.windowOpen = true) → exec (.breakpointHit s.core.id) s =
      .next ((s.onRegs fun r => { r with bkpt := r.bkpt ||| 0x08000000 }).onEng s.act fun x => { x with seen := true }))) ∧
  (∀ (s : State) (f : FaultRec), s.core.place.run = .running → s.core.quiet = true → s.core.walk.hardStop = false →
    pickFault s.core.walk.faults = some f →
    ∃ t, exec (.contextStop s.core.id) s = .next t ∧
      (⟨.trap, s.core.place.vf, s.core.place.num, f.textix, s.gcc⟩ ∈ t.mgmt.notices) ∧
      (f.cause.resumable = true → t.core.place.run = .stopped ∧ t.core.walk.faults = [] ∧ t.core.regs = s.core.regs ∧ t.core.q = s.core.q ∧
        t.core.mat = s.core.mat)) ∧
  (∀ (s : State) (ix : Nat), s.core.place.run = .running → s.core.quiet = true → s.core.walk.hardStop = false → s.core.walk.faults = [] →
    s.core.walk.hit = some ix → ∃ t, exec (.contextStop s.core.id) s = .next t ∧ t.core.place.run = .debug ∧ t.core.walk.hit = none ∧
      t.core.regs = { s.core.regs with bkpt := s.core.regs.bkpt ||| 0x4000 } ∧ t.mem = s.mem ∧
      t.mgmt.notices = s.mgmt.notices ++ [⟨.debug, s.core.place.vf, s.core.place.num, ix, s.gcc⟩]) ∧
  (∀ s : State, s.core.place.run = .running → 2 ^ 20 ≤ s.core.walk.stall → s.core.stalled = true → ∃ (t : State) (f : FaultRec),
    exec (.mutualStall s.core.id) s = .next t ∧ f.cause = .mutualStall ∧ f.six = s.core.trailing ∧ t = s.stopFor f) ∧
  (∀ (vf : Nat) (s : State) (w : PageWait) (ws : List PageWait) (v : State), vf < 192 → (s.vfAt vf).pageWait = w :: ws →
    s.addRec w.pr (some (w.pr.core, w.task)) = some v → w.pr.vfn = vf →
    ∃ t, exec (.pageRecordEnqueue vf) s = .next t ∧ (t.vfAt vf).pageWait = ws ∧ (t.vfAt vf).reqQ = (v.vfAt vf).reqQ ∧ (t.vfAt vf).evQ = (v.vfAt vf).evQ) ∧
  (∀ (vf : Nat) (s : State) (w : PageWait) (ws : List PageWait), vf < 192 → (s.vfAt vf).pageWait = w :: ws → w.pr.vfn = vf → w.pr.event = false → (s.vfAt vf).reqQ = [] →
    let r : PageRec := { w.pr with seq := (s.vfAt vf).reqSeq, gen := (s.vfAt vf).gen, waiters := [(w.pr.core, w.task)] }
    ∃ t, exec (.pageRecordEnqueue vf) s = .next t ∧ (t.vfAt vf).pageWait = ws ∧ (t.vfAt vf).reqQ = [r] ∧ (t.vfAt vf).reqSeq = (s.vfAt vf).reqSeq + 1 ∧
      t.mgmt.notices = s.mgmt.notices ++ [⟨.pageReq r, vf, w.pr.core, 0, s.gcc⟩] ∧ t.mem = s.mem ∧ t.core = s.core) ∧
  (∀ (c : CoreId) (hpa : Nat) (s : State), lineOf hpa ∈ s.mem.poison → exec (.poisonedRead c hpa) s = .next (s.killContext c))

/-! ### The dispatcher -/

/-- R29, R33, R34, R38, R354, R426: a launch record is checked and kept or leaves the queue; a gated partition with a task becomes live; a candidate whose cores are free starts as
the next task, on those cores; a job goes to the core whose turn it is; a task that is over leaves, and its outcome is counted. -/
def Obligations.TasksStartAndEnd : Prop :=
  (∀ (vf i p : Nat) (s v : State) (l : Launch) (res : Except (Nat × Option (W32 × W32)) TaskRec), vf < 192 → (s.vfAt vf).part = some p → (s.partAt p).st = .live →
    (s.vfAt vf).launch[i]? = some l → l.checked = none → (∀ j x, j < i → (s.vfAt vf).launch[j]? = some x → x.checked ≠ none) →
    s.checkRecord vf l.addr.toNat = (res, v) → (v.vfAt vf).launch = (s.vfAt vf).launch →
    ∃ t, exec (.taskRecordCheck vf) s = .next t ∧
      match res with
      | .ok r => (t.vfAt vf).launch = (s.vfAt vf).launch.set i { l with checked := some r }
      | .error _ => (t.vfAt vf).launch = (s.vfAt vf).launch.eraseIdx i) ∧
  (∀ (part : Nat) (s : State), part < 48 → (s.partAt part).st = .gated → (∃ v, v < 192 ∧ (s.vfAt v).part = some part ∧ (s.vfAt v).launch ≠ []) →
    ∃ t, exec (.ungate part) s = .next t ∧ (t.partAt part).st = .live ∧ t.mem = s.mem ∧ t.core = s.core ∧ ∀ q, q ≠ part → t.partAt q = s.partAt q) ∧
  (∀ (vf i part n : Nat) (r : TaskRec) (cores : List Nat) (s v : State) (text : Sparse W32), vf < 192 → (s.vfAt vf).part = some part → s.mayServe vf = true →
    s.candidate vf = some (.fresh i r n) → s.coresFor (s.grantFree vf) (.fresh i r n) = some cores → r.jobCount ≠ 0 →
    ((s.endTurn vf).setVf vf fun v => { v with launch := v.launch.eraseIdx i }).readText vf r.text = (some text, v) →
    ∃ t, exec (.taskStart vf) s = .next t ∧ t.disp.nextTask = v.disp.nextTask + 1 ∧
      (∃ k ∈ t.disp.tasks, k.id = v.disp.nextTask ∧ k.vf = vf ∧ k.part = part ∧ k.r = r ∧ k.jobs = r.jobCount ∧ k.nextJob = 0 ∧ k.text = text ∧
        k.cores.map Prod.fst = cores) ∧
      (∀ n ∈ cores, ∃ c, t.coreAt ⟨part, n⟩ = some c ∧ c.place.task = some v.disp.nextTask ∧ c.place.run = .running ∧ c.walk.text = text)) ∧
  (∀ (c : CoreId) (x : Core) (n : Nat) (k : Task) (s v : State), s.coreAt c = some x → x.place.task = some n → s.taskAt n = some k → k.r.static = false →
    c.num ∈ s.claims k → s.watched 2 0 c.part = false → s.nextClaim k = some c.num → k.nextJob < k.jobs → c.part = k.part →
    s.choose 0 c.part (x.place.site / 128) (whoCode c.num k.vf k.nextJob) = some v →
    ∃ t, exec (.jobHandout c) s = .next t ∧ (∃ k' ∈ t.disp.tasks, k'.id = k.id ∧ k'.nextJob = k.nextJob + 1) ∧
      (∃ y, t.coreAt c = some y ∧ y.place.job = k.nextJob ∧ ∀ pos, x.walk.jobReq = some pos → ⟨pos, some k.nextJob⟩ ∈ y.walk.jobGives)) ∧
  (∀ (n : Nat) (k : Task) (s : State), s.taskAt n = some k → k.over = true → s.taskLive n = false → (∀ c ∈ s.disp.saved, Core.runsTask n c = false) →
    ∃ t, exec (.taskCompletion n) s = .next t ∧ (∀ x ∈ t.disp.tasks, x.id ≠ n) ∧
      t = (((s.putStatus k.vf k.part k.r.addr.toNat k.status).signalTask k.r.sigCtr k.r.sigAdd).countOutcome k.vf (k.outcome.getD 0)).onDisp fun d =>
        { d with tasks := d.tasks.filter fun x => x.id != n })

/-- R37, R47 to R51, R371 to R373: a visit adds a waiting function its share and lets its candidate start while its deficit is positive, and
after the last visit a new round begins; a function out of deficit has its tasks asked to stop; the request becomes pending, then, as GRACE
and KILL run out in real time, the hard step and the kill; a context that has settled is saved and its core cleared, but in a sealed
partition; a saved task comes back; a seal window asks the frame's world to stop; an edge moves on to the next frame. What a visit, a timer
and a seal come to is the model's reading (log entries 10, 20 and 21), and so is that a saved task comes back on all its cores in one step (log
entry 13; R38 asks that all of them be free). -/
def Obligations.TasksStopAndReturn : Prop :=
  (∀ (part v : Nat) (s : State), part < 48 → (s.partAt part).st = .live → (s.partAt part).isSealed = false → v ∈ s.vfsOf part → (s.partAt part).visited ≤ v →
    (∀ w ∈ s.vfsOf part, (s.partAt part).visited ≤ w → v ≤ w) →
    ∃ t, exec (.dispatcherRound part) s = .next t ∧ t.mem = s.mem ∧ t.core = s.core ∧ (t.partAt part).visited = v + 1 ∧ (∀ w, w ≠ v → (t.vfAt w).deficit = (s.vfAt w).deficit) ∧
      (t.vfAt v).deficit = (if (s.candidate v).isSome = true then
          (if 0 < (s.vfAt v).weight then (s.vfAt v).deficit + (s.vfAt v).weight * (s.partAt part).quantum else (s.vfAt v).deficit)
        else if s.vfRuns v = true then (s.vfAt v).deficit else 0) ∧
      ((s.candidate v).isSome = true → 0 < (s.vfAt v).weight → 0 < (t.vfAt v).deficit → v ∈ (t.partAt part).turns)) ∧
  (∀ (part : Nat) (s : State), (s.partAt part).st = .live → (s.partAt part).isSealed = false → (∀ v ∈ s.vfsOf part, v < (s.partAt part).visited) →
    (∀ v ∈ (s.partAt part).turns, s.served v = false) → exec (.dispatcherRound part) s = .next (s.setPart part fun p => { p with visited := 0, turns := [] })) ∧
  (∀ (vf p w : Nat) (s : State), (s.vfAt vf).part = some p → (s.vfAt vf).deficit ≤ 0 → (s.partAt p).isSealed = false →
    w ∈ s.vfsOf p → w ≠ vf → 0 < (s.vfAt w).weight → (s.candidate w).isSome = true →
    ∃ t, exec (.deficitExhausted vf) s = .next t ∧ t.mem = s.mem ∧ t.disp = s.disp ∧
      ∀ c ∈ t.cores, c.place.vf = vf → c.place.part = p → c.place.task.isSome = true → c.walk.grace = true ∨ c.walk.softReq = true ∨ c.walk.hardStop = true ∨ c.walk.kill = true) ∧
  (∀ s : State, s.core.walk.grace = true → s.core.walk.softReq = false → (∀ n k, s.core.place.task = some n → s.taskAt n = some k → k.seat s.core.place.num ≠ some .waiting) →
    ∃ t, exec (.softRequestArrival s.core.id) s = .next t ∧ t.core.walk.softReq = true ∧ t.core.regs = s.core.regs ∧ t.core.q = s.core.q ∧ t.mem = s.mem) ∧
  (∀ s : State, s.core.walk.grace = true → s.core.walk.hardStop = false → s.core.walk.timer ≤ s.mgmt.power.time →
    ∃ t, exec (.graceExpiry s.core.id) s = .next t ∧ t.core.walk.hardStop = true ∧ t.core.walk.kill = true ∧ t.core.regs = s.core.regs ∧ t.mem = s.mem ∧
      t.core.mat.ops = s.core.mat.ops.map (MatOp.halt s.gcc)) ∧
  (∀ (c : CoreId) (k : Core) (s : State), s.coreAt c = some k → k.walk.kill = true → k.walk.hardStop = true → k.walk.timer ≤ s.mgmt.power.time →
    exec (.killExpiry c) s = .next (s.killContext c)) ∧
  (∀ s : State, s.core.maySave = true → s.core.walk.faults = [] → (s.partAt s.core.place.part).isSealed = false →
    ∃ t, exec (.contextSave s.core.id) s = .next t ∧ t.core = s.core.cleared ∧ t.disp.saved = s.disp.saved ++ [s.core.savedImage] ∧ t.mem = s.mem) ∧
  (∀ (n : Nat) (k k' : Task) (cores : List Nat) (s : State), s.taskAt n = some k → s.mayServe k.vf = true → (s.partAt k.part).isSealed = false →
    s.candidate k.vf = some (.resume k') → k'.id = n → s.coresFor (s.grantFree k.vf) (.resume k) = some cores →
    exec (.contextResume n) s = .next (cores.foldl (fun s m => s.comeBack k m) (s.endTurn k.vf))) ∧
  (∀ (s : State) (k : Task) (num : Nat) (img : Core), s.disp.saved.find? (fun c => c.id == ⟨k.part, num⟩ && c.runsTask k.id) = some img → s.core.id = ⟨k.part, num⟩ →
    bit img.regs.bkpt 27 = false →
    let t := s.comeBack k num
    t.core.walk = img.walk ∧ t.core.q = img.q ∧ t.core.regs.x = img.regs.x ∧ t.core.regs.k = img.regs.k ∧ t.core.regs.v = img.regs.v ∧
    t.core.place.site = s.core.place.site ∧ t.core.place.gen = s.core.place.gen ∧ t.mem = s.mem) ∧
  (∀ (s : State) (r : Rota) (e : RotaEntry), s.rotaOf s.core.id = some r → r.entries[r.ix]? = some e → r.windowOpen = false →
    s.reached (r.edge - BitVec.ofNat 64 (sealLen e)) = true → (∀ n k, s.core.place.task = some n → s.taskAt n = some k → k.seat s.core.place.num ≠ some .waiting) →
    ∃ t, exec (.sealWindow s.core.id) s = .next t ∧ t.core.walk.softReq = true ∧ t.core.regs = s.core.regs ∧ t.mem = s.mem) ∧
  (∀ (s : State) (r : Rota) (e : RotaEntry), s.rotaOf s.core.id = some r → s.reached r.edge = true → s.core.place.task = none →
    let ix := if r.entries.length ≤ r.ix + 1 then 0 else r.ix + 1
    r.entries[ix]? = some e → e.vfn = none →
    ∃ t, exec (.frameEdge s.core.id) s = .next t ∧ t.core = s.core ∧ t.mem = s.mem ∧
      t.rotaOf s.core.id = some { r with ix := ix, edge := r.edge + BitVec.ofNat 64 (frameLen e), windowOpen := false, opens := none })

/-! ### Homes, slices, the ring and the mesh -/

/-- R126, R255: an accepted store of S applied at its home: from a canonical memory, its bytes read as stored, and every byte outside them as before. Any access that may be applied, its turns at its homes' slices taken (R415), leaves what its
home makes of it, and its command gone or one access shorter; data read for which there is no room yet stays with its command. -/
def Obligations.AccessesApplied : Prop :=
  (∀ (s : State) (p : Pend) (rest : List Pend) (hpa frame : Nat) (bs : List Byte) (m : Mark), Memory.wf s.mem = true → s.core.port.pend = p :: rest →
    p.ops = [.store (.mem hpa frame) bs m] → p.gen = (s.partAt s.core.place.part).gen → s.watched 2 1 s.core.place.part = false → s.watched 1 1 s.core.place.part = false →
    ∃ t, exec (.homeApply s.core.id 0) s = .next t ∧ (∀ k, k < bs.length → t.readByte (hpa + k) = bs.getD k 0) ∧
      (∀ a, a < hpa ∨ hpa + bs.length ≤ a → t.readByte a = s.readByte a)) ∧
  (∀ (s v x : State) (i : Nat) (p : Pend) (op : Micro) (buf : Row) (m : Mark), s.core.port.pend[i]? = some p → p.ops[s.nextOp p.ops]? = some op →
    (op.homeSide = true → ∀ q ∈ s.core.port.pend.take i, op.heeds q = true → q.before p.eng p.cls op.keys = false) →
    s.turnsAt s.core.place.part (s.accessWho ((p.tag.map Fin.val).getD 0)) op.turns = some x →
    x.applyOp (s.core.port.pend.take i) (op.queue.isSome && (p.ops.take (s.nextOp p.ops)).any fun a => a.queue == op.queue) p op = .done buf m v →
    exec (.homeApply s.core.id i) s = .next (v.opDone i (s.nextOp p.ops) p buf m)) ∧
  (∀ (s v x : State) (i : Nat) (p : Pend) (op rest : Micro), s.core.port.pend[i]? = some p → p.ops[s.nextOp p.ops]? = some op →
    (op.homeSide = true → ∀ q ∈ s.core.port.pend.take i, op.heeds q = true → q.before p.eng p.cls op.keys = false) →
    s.turnsAt s.core.place.part (s.accessWho ((p.tag.map Fin.val).getD 0)) op.turns = some x →
    x.applyOp (s.core.port.pend.take i) (op.queue.isSome && (p.ops.take (s.nextOp p.ops)).any fun a => a.queue == op.queue) p op = .left rest v →
    exec (.homeApply s.core.id i) s = .next (v.onPort fun q => { q with pend := q.pend.set i { p with ops := p.ops.set (s.nextOp p.ops) rest } }))

/-- R134, R148, R170 to R178, R23, R288: what ports and slices do by themselves. The oldest completed tag is reported, its CTAGS bit set when its count reaches 0; a packet in the air reaches its slice and is judged; a slice
applies the head of its queue; the quota counts restart; a waiting packet enters; a refusal turns into a carried addend with a timer; the timer sends it again; a monitor's first event, or where there was none its timeout, reaches its
WAITM; a multicast's rows are written, those sent on this module in the cycle their issue slot fixed, those for another module leave toward it, and those that came from
one are answered for once they stand on every die; a bound entry reaches its queue. Which
turn each takes in the recorded order is log entry 80's, and a refused addend's command keeps its place (log entry 95). -/
def Obligations.PortAndSliceEvents : Prop :=
  (∀ (s : State) (t : Ctag) (rest : List Ctag), s.core.port.compl = t :: rest → s.core.allHalted = false →
    ∃ r, exec (.copyCompletion s.core.id) s = .next r ∧ r.core.port.compl = rest ∧ r.core.regs.counts[t] = s.core.regs.counts[t] - 1 ∧
      r.core.regs.ctags.getLsbD t.val = (s.core.regs.ctags.getLsbD t.val || decide (s.core.regs.counts[t] - 1 = 0)) ∧
      (∀ j, j ≠ t.val → r.core.regs.ctags.getLsbD j = s.core.regs.ctags.getLsbD j) ∧ r.mem = s.mem ∧ r.core.q = s.core.q ∧ r.core.regs.x = s.core.regs.x) ∧
  (∀ (s v : State) (i : Nat) (p : AaccPkt), s.gran.air[i]? = some p → s.mayArrive i p = true →
    (s.onGran fun g => { g with air := g.air.eraseIdx i }).judge (sliceOf p.hpa) p = some v → exec (.aaccArrival i) s = .next v) ∧
  (∀ (s : State) (i : Nat) (p : AaccPkt), s.gran.air[i]? = some p → p.carryIx = none → (∀ q ∈ s.gran.air.take i, q.core = p.core → q.cls = p.cls → sliceOf q.hpa ≠ sliceOf p.hpa) →
    s.watched 1 2 p.core.part = false → s.watched 2 2 p.core.part = false → Sparse.wf SliceQ.init s.gran.queues = true →
    let q := s.sliceQ (sliceOf p.hpa)
    q.waiting = [] → q.held = [] → q.occupied ≤ 192 → q.occupied + p.lines ≤ 256 →
    ∃ t, exec (.aaccArrival i) s = .next t ∧ t.sliceQ (sliceOf p.hpa) = { q with q := q.q ++ [p] } ∧ t.gran.air = s.gran.air.eraseIdx i ∧ t.mem = s.mem ∧ t.core = s.core) ∧
  (∀ (s : State) (slice : Nat) (p : AaccPkt) (rest : List AaccPkt), (s.sliceQ slice).q = p :: rest →
    exec (.aaccApply slice) s = .next (((s.setSliceQ slice { s.sliceQ slice with q := rest }).applySum p).applied p)) ∧
  (∀ s : State,
    (fld s.gcc 0 10 = 0 → s.gran.window ≠ s.gcc → exec .quotaWindowStart s = .next (s.onGran fun g => { g with quota := [], window := s.gcc })) ∧
    (fld s.gcc 0 10 ≠ 0 ∨ s.gran.window = s.gcc → exec .quotaWindowStart s = .next s)) ∧
  (∀ (s v : State) (slice : Nat) (p : AaccPkt) (rest : List AaccPkt), (s.sliceQ slice).waiting = p :: rest → (s.sliceQ slice).occupied + p.lines ≤ 256 →
    (s.setSliceQ slice { s.sliceQ slice with waiting := rest }).takeTurn slice 0 p = some v →
    exec (.heldPacketEntry slice) s = .next (v.freeHeld slice p.core)) ∧
  (∀ (s : State) (i k : Nat) (p : AaccPkt), s.gran.refusals[i]? = some p → p.carryIx = some k → p.core = s.core.id → (s.core.carry k).busy = true → Sparse.wf CarryEntry.free s.core.port.carry = true →
    ∃ t, exec (.refusalReceipt i) s = .next t ∧ t.gran.refusals = s.gran.refusals.eraseIdx i ∧ (t.core.carry k).valid = true ∧ (t.core.carry k).busy = false ∧
      (t.core.carry k).tries = (s.core.carry k).tries + 1 ∧ (t.core.carry k).timer = some (s.gcc + 1024) ∧
      t.core.port.pend = s.core.port.pend.map (Pend.markAway k true true) ∧ t.mem = s.mem ∧ t.core.regs = s.core.regs) ∧
  (∀ (s : State) (k : Nat) (x : W64), (s.core.carry k).timer = some x → s.reached x = true → (s.core.carry k).valid = true → (s.core.carry k).busy = false → (s.core.carry k).pair2 = false →
    exec (.carryResend s.core.id k) s = .next (s.resend k)) ∧
  (∀ (s v : State) (e : MonEvent) (m : Monitor) (w : WaitmState), s.gran.monitors.find? (fun m => m.core == s.core.id) = some m → m.why = some e →
    s.choose 4 s.core.id.part (s.logicalSlice s.core.id.part (sliceOf (m.line * 128))) (whoCode s.core.id.num (s.vfOn s.core.id) (monStatus e)) = some v → s.core.waits.waitm = some w → w.status = none →
    ∃ t, exec (.monitorEvent s.core.id e) s = .next t ∧ t.core.waits.waitm = some { w with status := some (monStatus e) } ∧ (∀ x ∈ t.gran.monitors, x.core ≠ s.core.id) ∧
      t.core.regs = s.core.regs) ∧
  (∀ (s v : State) (w : WaitmState) (x : W64), s.core.waits.waitm = some w → w.status = none → w.deadline = some x → s.reached x = true →
    let line := ((s.gran.monitors.find? fun m => m.core == s.core.id).map Monitor.line).getD 0
    let st := ((s.monWhy s.core.id).map monStatus).getD 3
    s.choose 4 s.core.id.part (s.logicalSlice s.core.id.part (sliceOf (line * 128))) (whoCode s.core.id.num (s.vfOn s.core.id) st) = some v →
    ∃ t, exec (.monitorTimeout s.core.id) s = .next t ∧ t.core.waits.waitm = some { w with status := some st } ∧
      t.core.regs = s.core.regs ∧ t.mem = s.mem) ∧
  (∀ (s : State) (p : McastPkt) (rest : List McastPkt), s.gran.mcasts = p :: rest → p.fromNode ≠ s.mgmt.node → p.node = s.mgmt.node →
    let v := (s.onGran fun g => { g with mcasts := rest }).mcastRows p
    ((∀ q ∈ rest, ¬(q.id = p.id ∧ q.src = p.src ∧ q.fromNode = p.fromNode)) →
      exec (.mcastTargetWrite 0) s = .next (v.tell p.fromNode (.written p.src p.id s.mgmt.node))) ∧
    ((∃ q ∈ rest, q.id = p.id ∧ q.src = p.src ∧ q.fromNode = p.fromNode) → exec (.mcastTargetWrite 0) s = .next v)) ∧
  (∀ (s : State) (p : McastPkt) (rest : List McastPkt), s.gran.mcasts = p :: rest → p.fromNode = s.mgmt.node → p.node ≠ s.mgmt.node → p.due.isSome = true →
    p ∉ s.gran.mcastOut → exec (.mcastTargetWrite 0) s = .next ((s.onGran fun g => { g with mcastOut := g.mcastOut ++ [p] }).tell p.node (.row p))) ∧
  (∀ (s : State) (p : McastPkt) (rest : List McastPkt), s.gran.mcasts = p :: rest → p.fromNode = s.mgmt.node → p.node = s.mgmt.node → p.due = some s.gcc →
    exec (.mcastTargetWrite 0) s =
      .next ((((s.onGran fun g => { g with mcasts := rest }).mcastRows p).atCore p.src (Core.castWritten p.id p.members)).mcastEnd p.id p.src)) ∧
  (∀ (s : State) (b : BoundEntry) (rest : List BoundEntry) (k : Task), s.gran.boundAir = b :: rest → s.taskAt b.task = some k → k.seat b.peer = some .running →
    s.core.id = ⟨b.src.part, b.peer⟩ → s.core.runsTask b.task = true → s.core.lqFull b.plq = false →
    ∃ t, exec (.boundEntryArrival 0) s = .next t ∧ t.core.q.lq[b.plq] = s.core.q.lq[b.plq] ++ [b.e] ∧ (∀ q, q ≠ b.plq → t.core.q.lq[q] = s.core.q.lq[q]) ∧
      t.gran.boundAir = rest ∧ t.core.regs = s.core.regs ∧ t.mem = s.mem)

/-- R395, R397, R399, R405: where all 48 partitions have weight 0, a slice serves the first request of the lowest that waits there. Where one with a weight waits,
a round goes over the partitions: one that waits is paid its weight and has its requests served in their order while its deficit is positive, each at the cost of its
lines; one that does not wait has its deficit cleared; one of weight 0 is passed over. A message takes an
empty lane of the slot that passes its station, owned by the station or free, and a station without a core inserts none (R396); a mesh output chooses once in a cycle, the flit chosen goes
on, and the ages of the other candidates' packets rise. A message or flit stands for an access beside its event (log entry 84). -/
def Obligations.FabricEvents : Prop :=
  (∀ (s v : State) (slice p : Nat) (r : SliceReq), (∀ q, q < 48 → qosGwt (s.partAt q).qos = 0) → p < 48 → (∀ q, q < p → s.firstAt slice q = none) → s.serve slice p = some (r, v) →
    exec (.sliceService slice) s = .next v ∧ v.gran.served = s.gran.served ++ [r]) ∧
  (∀ (s : State) (slice p i : Nat) (r : SliceReq), (∀ q, q < 48 → qosGwt (s.partAt q).qos = 0) → p < 48 → (∀ q, q < p → s.firstAt slice q = none) → s.firstAt slice p = some (i, r) →
    s.watched 1 6 p = false → s.watched 2 6 p = false →
    ∃ t, exec (.sliceService slice) s = .next t ∧ t.gran.served = s.gran.served ++ [r] ∧ t.gran.reqs = s.gran.reqs.eraseIdx i ∧ t.mem = s.mem ∧ t.core = s.core) ∧
  (∀ (s : State) (slice x : Nat), x < 48 → 0 < qosGwt (s.partAt x).qos → (s.firstAt slice x).isSome = true → slice < 256 →
    (∀ p, s.watched 1 6 p = false ∧ s.watched 2 6 p = false) → Sparse.wf 0 s.gran.deficits = true →
    ∃ (t : State) (done : List SliceReq), exec (.sliceService slice) s = .next t ∧ t.gran.served = s.gran.served ++ done ∧ t.mem = s.mem ∧ t.core = s.core ∧
      ∀ p, p < 48 →
        let of (l : List SliceReq) : List SliceReq := l.filter fun r => r.slice == slice && r.part == p
        let lines (l : List SliceReq) : Int := (l.map fun r => (r.lines : Int)).sum
        let mine := of s.gran.reqs
        let paid := s.sliceDeficit slice p + qosGwt (s.partAt p).qos
        (qosGwt (s.partAt p).qos = 0 → of done = [] ∧ of t.gran.reqs = mine ∧ t.sliceDeficit slice p = s.sliceDeficit slice p) ∧
        (0 < qosGwt (s.partAt p).qos → mine = [] → t.sliceDeficit slice p = 0) ∧
        (0 < qosGwt (s.partAt p).qos → mine ≠ [] → ∃ k, k ≤ mine.length ∧ of done = mine.take k ∧ of t.gran.reqs = mine.drop k ∧
          t.sliceDeficit slice p = paid - lines (mine.take k) ∧ (∀ j, j < k → 0 < paid - lines (mine.take j)) ∧
          (k = mine.length ∨ paid - lines (mine.take k) ≤ 0))) ∧
  (∀ (s : State) (die station lane i : Nat) (w : Nat × RingMsg), die < 4 → station < 103 → lane < 4 →
    let key := ringLaneKey die (slotAt (stationPos station) s.gcc) lane
    coreless station = false → Sparse.get none s.fab.slots key = none → (s.ringOwner die (slotAt (stationPos station) s.gcc) lane = stationCode station ∨ s.ringOwner die (slotAt (stationPos station) s.gcc) lane = 0xFF) →
    lowest (fun w => w.1 == die && w.2.src == station) s.fab.waiting = some i → s.fab.waiting[i]? = some w →
    exec (.ringInsertion die station lane) s = .next (s.onFab fun f => { f with slots := Sparse.set none f.slots key (some w.2), waiting := f.waiting.eraseIdx i })) ∧
  (∀ (s : State) (die station lane : Nat), coreless station = true → exec (.ringInsertion die station lane) s = .next s) ∧
  (∀ (s : State) (die stop : Nat) (port : Fin 6), die < 4 → stop < 16 →
    let m₀ := Sparse.get MeshOut.init s.fab.mesh (meshKey die stop port.val)
    let m := m₀.idle s.gcc
    let mage := s.mage die
    let cands := s.meshCands die stop port.val
    (m₀.last = some s.gcc → exec (.meshArbitration die stop port) s = .next s) ∧
    (m₀.last ≠ some s.gcc → ∃ (v : State) (m' : MeshOut), v = s.onFab (fun f => { f with mesh := Sparse.set MeshOut.init f.mesh (meshKey die stop port.val) m' }) ∧
      m'.last = some s.gcc ∧
      (∀ f, (m.choose mage cands).flit = some f → exec (.meshArbitration die stop port) s = .next (v.meshSend die stop port.val f) ∧ m'.sent = f :: m.sent ∧
        ∀ q ∈ cands, q.pkt ≠ f.pkt → m'.age q.pkt = m.age q.pkt + 1) ∧
      ((m.choose mage cands).flit = none → exec (.meshArbitration die stop port) s = .next v ∧ m'.sent = m.sent ∧
        m'.budget = (if cands.any (fun f => f.port == m.turn) then m.budget else 0) ∧ ∀ q ∈ cands, m'.age q.pkt = m.age q.pkt + 1)))

/-! ### The Crossroads and collectives -/

/-- R228, R231 to R233, R242, R248: the packets at this Crossroads. One with code starts a visit; one without hops a step of dimension
order, its budget falling by 1, or parks with BUDGET at 0; at its node it is delivered, which raises the bead it names, a message's header
joining its core's queue or, where 16 stand there, being dropped and said so, and one for no core of its partition parks with GROUP (R360). A hop with a credit leaves at once and spends it (one credit for a packet, log entry 119), if its labels may go to the next module (R286). When its channel has had no credit for 256
cycles a packet takes the escape channel of its dimension-order port; after 2^16 it parks with STUCK. A park at home takes the lowest free
slot of its partition's allotment, or is lost, counted, with a notice; the bead it names rises either way. The class of a hop over a
dateline and the order of parks are the model's reading (log entries 27 and 81). -/
def Obligations.CrossroadsEvents : Prop :=
  (∀ (s : State) (i : Nat) (p : Packet), s.entrant i = some p →
    (p.code.isSome = true → exec (.crossroadsEntry i) s =
      .next ((s.takeArrived i).queueLane ⟨{ p with visits := min 255 (p.visits + 1), nv := false }, [], none⟩)) ∧
    (p.code = none → ∀ port, s.dimOrder p.dst = some port →
      let x : TxPkt := ⟨{ p with budget := p.budget - 1 }, port, s.gcc, none⟩
      let ch := x.channel false s
      (p.budget = 0 → exec (.packetHop i) s = .next ((s.takeArrived i).park .budget p)) ∧
      let goes := s.releasesTo (some (s.neighbour port)) (fun _ => false) p.mark
      (p.budget ≠ 0 → s.portUp port = true → 0 < (s.torusPort port).credit ch → goes = true → ch < 8 →
        ∃ (t : State) (y : TxPkt), exec (.packetHop i) s = .next t ∧ t.xr.sent = s.xr.sent ++ [y] ∧ y.port = port ∧ y.pkt.budget = p.budget - 1 ∧
          y.pkt.vc = ch ∧ y.pkt.payload = p.payload ∧ t.xr.arrived = s.xr.arrived.eraseIdx i ∧
          (t.torusPort port).credit ch + 1 = (s.torusPort port).credit ch ∧
          (∀ q v, (q ≠ port ∨ v ≠ ch) → (t.torusPort q).credit v = (s.torusPort q).credit v) ∧
          t.mem = s.mem ∧ t.core = s.core) ∧
      (p.budget ≠ 0 → (s.portUp port = false ∨ (s.torusPort port).credit ch = 0 ∨ goes = false) →
        exec (.packetHop i) s = .next ((s.takeArrived i).onXr fun y => { y with tx := y.tx ++ [x] }))) ∧
    (p.code = none → s.dimOrder p.dst = none →
      exec (.packetDelivery i) s = .next (((s.takeArrived i).deliver p).getD s) ∧
      (p.gen = (s.partAt p.part).gen → (s.partAt p.part).sites.length ≤ p.dcore → exec (.packetDelivery i) s = .next ((s.takeArrived i).park .group p)) ∧
      (∀ (who : Who) (nodes : List Nat) (places : List (Nat × Nat)) (v x : State), p.gen = (s.partAt p.part).gen → p.dcore < (s.partAt p.part).sites.length →
        s.deliverWho p.part p.dcore = some who → (s.takeArrived i).groupNodes who p.daddr = some nodes → p.src ∈ nodes →
        State.landBeats who p.daddr (p.payload.length / 64) (s.takeArrived i) = (some places, v) →
        v.turnsAt p.part (whoCode p.score p.vfn p.visits) (places.map fun a => .mem a.1 a.2) = some x →
        let y := (x.writeBeats p.part p.gen p.mark places p.payload).meshDown ⟨p.part, p.dcore⟩ (.packet (p.payload.length / 64))
        let q := y.rxQueue p.part p.dcore
        (p.msg = false → exec (.packetDelivery i) s = .next (y.addBead p.part p.dcore p.dbead)) ∧
        (p.msg = true → q.hdrs.length < 16 → exec (.packetDelivery i) s =
          .next ((y.setRx p.part p.dcore { q with hdrs := q.hdrs ++ [p] }).addBead p.part p.dcore p.dbead)) ∧
        (p.msg = true → 16 ≤ q.hdrs.length → exec (.packetDelivery i) s =
          .next ((y.setRx p.part p.dcore { q with ovf := true }).addBead p.part p.dcore p.dbead))))) ∧
  (∀ (s : State) (i : Nat) (x : TxPkt), s.xr.tx[i]? = some x → x.back = none →
    (s.dryFor x.port (x.channel false s) 256 = true → s.portUp x.port = true → s.dimOrder x.pkt.dst = some x.port → 0 < (s.torusPort x.port).credit (x.channel true s) →
      s.releasesTo (some (s.neighbour x.port)) (fun _ => false) x.pkt.mark = true →
      exec (.escapeTimeout i) s = .next ((s.onXr fun y => { y with tx := y.tx.eraseIdx i }).depart x true)) ∧
    (65536 ≤ (s.gcc - x.since).toNat → s.dimOrder x.pkt.dst ≠ some x.port →
      exec (.stuckTimeout i) s = .next ((s.onXr fun y => { y with tx := y.tx.eraseIdx i }).park .stuck x.pkt))) ∧
  (∀ (s v : State) (i : Nat) (p : ParkedPkt), s.xr.parks[i]? = some p → (i = 0 ∨ s.watched 2 3 p.pkt.part = true) → Sparse.wf 0 s.xr.beads = true → Sparse.wf none s.xr.bay = true →
    s.choose 3 p.pkt.part ((s.freePark p.pkt.part).getD 64) (whoCode p.pkt.score p.pkt.vfn p.reason.code) = some v →
    ∃ t, exec (.parkArrival i) s = .next t ∧ t.xr.parks = s.xr.parks.eraseIdx i ∧
      t.bead p.pkt.part p.pkt.score p.pkt.nbead = s.bead p.pkt.part p.pkt.score p.pkt.nbead + 1 ∧
      (∀ n, s.freePark p.pkt.part = some n → t.baySlot n = some ⟨p, s.xr.parkOrder + 1, [], false⟩ ∧ ∀ m, m ≠ n → t.baySlot m = s.baySlot m) ∧
      (s.freePark p.pkt.part = none → t.xr.bay = s.xr.bay ∧ ⟨.lostPark, p.pkt.vfn, p.pkt.score, 0, s.gcc⟩ ∈ t.mgmt.notices ∧
        (p.pkt.part < 48 → (t.partAt p.pkt.part).cnt.lostParks = (s.partAt p.pkt.part).cnt.lostParks + 1)))

/-- R292 to R299: combining slots. A packet that finds no slot of its key, or whose reservation does not stand here, passes, in its turn where one is recorded; one that finds a slot
is added to it, and the packet that completes the slot's count sends the sum on and empties the slot, of which the members that contributed learn; a booking asks the next Crossroads of
its tree; the first request that fits is granted whole, in the lowest free slots, once the cycle it came in is over; an expired lease gives
the slots back and fails the collective with LEASE. What makes two packets one group, and the way of a booking along its tree, is the
model's reading (log entries 40, 47 and 48). -/
def Obligations.CombiningAndReservations : Prop :=
  (∀ (s : State) (i : Nat) (p : AaccPkt) (k : RedKey), s.xr.redIn[i]? = some p → p.red = some k → s.redSent p = true →
    let a (v : State) : State :=
      let v := v.onXr fun x => { x with redIn := x.redIn.eraseIdx i }
      match p.carryIx with
      | some id => v.atCore p.core (Core.dropAway id)
      | none => v
    (∀ v : State, (s.passes k p = true ∨ s.slotFor k p.gen = none) → s.redMay p k.home = true → s.passTurn k p = some v →
      exec (.combineArrival i) s = .next ((a v).redOn k { p with carryIx := none })) ∧
    (∀ (n : Nat) (z : Slot) (v : State), s.passes k p = false → s.slotFor k p.gen = some n → s.slot n = some z → s.choose 3 k.part n (s.aaccWho p 0) = some v →
      let z' := z.combine k p
      (z'.got < z'.expect → exec (.combineArrival i) s = .next ((a v).setSlot n (some z'))) ∧
      (z'.expect ≤ z'.got → s.redMay (z'.packet k (s.resvOf n)) k.home = true → exec (.combineArrival i) s =
        .next ((((a v).setSlot n (some z'.emptied)).redOn k (z'.packet k (s.resvOf n))).slotFreed z'.tags)))) ∧
  (∀ (s : State) (r n : Nat) (b : Booking), s.coll.bookings[r]? = some b → b.waitAt = none →
    (s.resvNodes b.group b.home b.line).find? (fun n => !b.granted.contains n) = some n →
    let q : SlotReq := ⟨b.id, s.gcc, b.part, b.vf, b.group, b.count, b.home, b.leased, b.line⟩
    let v := s.onBooking b.id fun b => { b with waitAt := some n }
    (n ≠ s.mgmt.node → exec (.reservationRequest r) s = .next (v.tell n (.ask q))) ∧
    (n = s.mgmt.node → exec (.reservationRequest r) s = .next (v.request q))) ∧
  (∀ (s v : State) (q : SlotReq), firstReq s.xr.requests = some q → q.stamp ≠ s.gcc → s.fits q = true → Sparse.wf none s.xr.slots = true → s.choose 3 q.part 256 (whoCode 0 q.vf q.count) = some v →
    ∃ t, exec .slotGrant s = .next t ∧ t.xr.requests = s.xr.requests.filter (fun y => y.id != q.id) ∧
      (∀ n ∈ s.freeSlots.take q.count, ∃ z, t.slot n = some z ∧ z.part = q.part ∧ z.group = q.group ∧ z.got = 0 ∧ z.key = none ∧
        z.expect = if q.line then (bitsSet q.group 4096).length else s.treeExpect s.mgmt.node q.group q.home) ∧
      (∀ n, n ∉ s.freeSlots.take q.count → t.slot n = s.slot n) ∧
      (∀ i z, s.slot i = some z → z.key = none → exec (.slotFreeNotice i) s = .next t)) ∧
  (∀ s : State, s.xr.requests = [] → exec .slotGrant s = .next s) ∧
  (∀ (s : State) (r : Nat) (b : Booking) (c : Coll), s.coll.bookings[r]? = some b → b.leased = true → b.deadline ≤ s.mgmt.power.time →
    s.bookedColl b.id = some c →
    exec (.leaseExpiry r) s = .next ((c.bookings.foldl (fun s x => s.dropBooking x.2) s).failColl c 1))

/-- R302 to R306: the collective at the head of a function's queue. Once every member's block is here, blocks that differ give MISMATCH and
equal ones a plan; halving-doubling among a number of members that is no power of two gives REJECT. A step that sends a piece of the partial
result sends it to its members; a piece received is combined; a piece of the result is written to RECV. A collective that has failed or has
nothing left to do leaves its STATUS, raises its bead, and makes room for the next. What an algorithm's steps carry, and what a failed
member tells, is the model's reading (log entries 49 and 83). -/
def Obligations.CollectiveEvents : Prop :=
  (∀ (s : State) (vf : Nat) (c : Coll), vf < 192 → s.headColl vf = some c → c.planned = false → c.outcome = none →
    let b := c.blk
    let others := b.members.filter (· != s.mgmt.node)
    (∀ n ∈ others, (s.peerOf b.key n).isSome = true) →
    ((∃ n ∈ others, ∃ p, s.peerOf b.key n = some p ∧ { p with node := 0 } ≠ b.posted 0) →
      ∃ t, exec (.collectivePlanning vf) s = .next t ∧ t.headColl vf = some { c with outcome := some 2 } ∧ t.mem = s.mem ∧ t.core = s.core) ∧
    (∀ algo, algo = (if c.fellBack = true then b.fallback else if b.algo = 0 then s.autoAlgo b else b.algo) →
      (∀ n ∈ others, ∀ p, s.peerOf b.key n = some p → { p with node := 0 } = b.posted 0) →
      ∃ t, exec (.collectivePlanning vf) s = .next t ∧ t.mem = s.mem ∧ t.core = s.core ∧
        t.headColl vf = some (if algo = 2 ∧ b.members.length ≠ 2 ^ Nat.log2 b.members.length then { c with algo := algo, outcome := some 5 }
          else { c with planned := true, algo := algo }))) ∧
  (∀ (s v r : State) (vf f : Nat) (c : Coll) (dsts : List Nat) (p : Piece) (w : Work), vf < 192 → s.mayStep vf = true → s.headColl vf = some c →
    s.nextAct c = some (.send f dsts p) → 0 < (s.collRound c.blk.key.part).collDeficit vf →
    (s.collRound c.blk.key.part).collPiece vf c p = (.ok w, v) → v.choose 7 c.blk.key.part 0 (whoCode c.blk.core.num vf c.step) = some r → r.headColl vf = some c →
    ∃ t, exec (.collectiveStep vf) s = .next t ∧
      t = (dsts.foldl (fun x d => x.tell d (.chunk ⟨r.mgmt.node, d, c.blk.key, f, p.off, w⟩)) r).stepDone vf c p.len ∧
      t.headColl vf = some { c with step := c.step + 1, pos := c.pos + 1, misses := [] } ∧ t.mem = r.mem ∧ t.core = r.core) ∧
  (∀ (s v : State) (vf : Nat) (c : Coll) (p : Piece) (w : Work), s.mayStep vf = true → s.headColl vf = some c → s.collPiece vf c p = (.ok w, v) →
    (∀ (f src : Nat) (mine : Bool) (k : Chunk), s.nextAct c = some (.fold f src p mine) → s.chunkFrom c f src p = some k →
      exec (.collectiveStep vf) s = .next ((v.useChunk c f src p).actDone vf
        (Coll.setWork p (if mine then combineWork c.blk.dtype c.blk.red w k.work else combineWork c.blk.dtype c.blk.red k.work w)))) ∧
    (∀ (f src : Nat) (k : Chunk), s.nextAct c = some (.take f src p) → s.chunkFrom c f src p = some k →
      exec (.collectiveStep vf) s = .next ((s.useChunk c f src p).actDone vf (Coll.setWork p k.work))) ∧
    (∀ (off : Nat) (l : List (Nat × Nat × Nat)) (r : State), s.nextAct c = some (.store p off) →
      v.collPlaces vf true (w.data.length / 4096 + 2) (c.blk.recv.toNat + off) w.data.length = (.ok l, r) →
      exec (.collectiveStep vf) s = .next ((r.collPut c.blk.key.part w.mark l w.data).actDone vf id))) ∧
  (∀ (s v : State) (vf : Nat) (c : Coll) (l : List (Nat × Nat × Nat)), s.headColl vf = some c → (∀ p ∈ c.misses, ∀ r ∈ (s.vfAt vf).reqQ, r.page ≠ p) →
    s.collPlaces vf true 2 (c.blk.addr.toNat + 0x28) 8 = (.ok l, v) →
    (∀ o, c.outcome = some o → exec (.collectiveEnd vf) s = .next ((v.collPut ((s.vfAt vf).part.getD 0) Mark.empty l (natLe (c.status o) 8)).collDone vf c)) ∧
    (c.outcome = none → c.planned = true → s.nextAct c = none →
      exec (.collectiveEnd vf) s = .next ((v.collPut ((s.vfAt vf).part.getD 0) Mark.empty l (natLe (c.status 0) 8)).collDone vf c)))

/-! ### Management -/

/-- R353 to R356, R363 to R366, R379, R392: the commands on partitions, from the hypervisor, with nothing wrong in their payload. PART.CREATE makes a free partition live with its sites in order, its next generation and no limits;
PART.DESTROY kills at once, raises the generation and leaves it draining, without limits; PART.RESIZE drops the last sites and appends the new ones; PART.LIMITS gives it its limits and its cores SLIP and PRECFG; PART.GATE gates an idle one and answers STATE
for a busy one; PART.GEN raises the generation; a bump whose value is not free waits, and the command with it, in the journal from which it is served again (log entries 54 and 62).
A scrub pass ends the draining partition, or clears every X register of a stale generation and frees the old values. -/
def Obligations.PartitionCommands : Prop :=
  (∀ (h : CmdHdr) (sites : List Nat) (colours : List GrantReq) (qos : W32) (quantum : Nat) (isSealed : Bool) (s : State), Accepts h false s → h.issuer = .hyp → h.part < 48 →
    (s.partAt h.part).st = .free → s.sitesOdd sites = false → 0 < quantum → quantum ≤ 65535 → grantsOdd colours = false → s.grantsFit h.part colours = true → qosOdd qos = false →
    (∀ n ∈ sites, s.siteUsed n = false) →
    let g : Gen := if (s.partAt h.part).used then (s.partAt h.part).gen + 1 else 0
    let world := if isSealed then s.ticks * 64 + h.part + 1 else 0
    let new : Part := { Part.init with st := .live, gen := g, used := true, qos := qos, quantum := quantum, isSealed := isSealed, world := world, cnt := (s.partAt h.part).cnt }
    (((s.setPart h.part fun _ => new).addSites h.part sites).setGrants h.part colours).ringFits = true →
    ∃ t : State, exec (.partCreate h sites colours qos quantum isSealed) s = .next (t.respond h .ok .empty) ∧
      t.partAt h.part = { new with sites := ascending sites, meas := (t.partAt h.part).meas, leaving := (t.partAt h.part).leaving } ∧
      (∀ q, q ≠ h.part → t.partAt q = s.partAt q) ∧
      (∀ c ∈ t.cores, c.place.part = h.part → c.place.num < sites.length → (ascending sites)[c.place.num]? = some c.place.site ∧ c.place.task = none)) ∧
  (∀ (h : CmdHdr) (s : State), Accepts h false s → h.issuer = .hyp → NamesPart h.part s →
    (s.bumpFree h.part = false → exec (.partGen h) s = .next (s.holdCmd (.typed h .partGen)) ∧
      exec (.partDestroy h) s =
        .next (((s.killPart h.part).setPart h.part fun p => { p with st := .draining, doomed := some h.reqid }).holdCmd (.typed h .partDestroy))) ∧
    (s.bumpFree h.part = true →
      (∃ (t : State) (n : W64), exec (.partDestroy h) s = .next (t.respond h .ok (.words [n])) ∧ (t.partAt h.part).st = .draining ∧ (t.partAt h.part).gen = (s.partAt h.part).gen + 1 ∧
        (t.partAt h.part).emask = 0 ∧ (t.partAt h.part).xbCount = 0 ∧ (t.partAt h.part).scrCount = 0 ∧ (t.partAt h.part).parkCount = 0 ∧ (t.partAt h.part).slots = 0 ∧
        (t.partAt h.part).doomed = none) ∧
      (∃ (t : State) (n : W64), exec (.partGen h) s = .next (t.respond h .ok (.words [n])) ∧ (t.partAt h.part).st = (s.partAt h.part).st ∧ (t.partAt h.part).gen = (s.partAt h.part).gen + 1 ∧
        t.core.regs = s.core.regs)) ∧
    (∀ (add remove : List Nat) (colours : List GrantReq), s.sitesOdd add = false → remove.Nodup → remove.length ≤ (s.partAt h.part).sites.length →
      (∀ n ∈ remove, n ∈ (s.partAt h.part).sites.drop ((s.partAt h.part).sites.length - remove.length)) → grantsOdd colours = false → s.grantsFit h.part colours = true →
      (∀ n ∈ add, s.siteUsed n = false) →
      (∀ n, (s.partAt h.part).sites.length - remove.length ≤ n → n < (s.partAt h.part).sites.length → s.coreBusy ⟨h.part, n⟩ = false) →
      (s.storeChanges h.part colours = false ∨ s.partBusy h.part = false) →
      let keep := (s.partAt h.part).sites.take ((s.partAt h.part).sites.length - remove.length)
      (((((s.setPart h.part fun p => { p with sites := keep }).dropStrays).addSites h.part add).setGrants h.part colours).dropWide h.part).ringFits = true →
      ∃ t : State, exec (.partResize h add remove colours) s = .next (t.respond h .ok .empty) ∧ (t.partAt h.part).sites = keep ++ ascending add ∧
        (t.partAt h.part).gen = (s.partAt h.part).gen ∧ (t.partAt h.part).st = (s.partAt h.part).st) ∧
    (∀ l : Limits, limitsOdd l = false →
      let p : Part := { s.partAt h.part with
        emask := l.mask
        xbBase := l.xbBase
        xbCount := l.xbCount
        scrBase := l.scrBase
        scrCount := l.scrCount
        parkBase := l.parkBase
        parkCount := l.parkCount
        slots := l.slots
        precfg := l.precfg
        slip := clampSlip l.slip
        qos := l.qos }
      (s.setPart h.part fun _ => p).ringFits = true →
      ∃ t : State, exec (.partLimits h l) s = .next (t.respond h .ok .empty) ∧ t.partAt h.part = { p with meas := (t.partAt h.part).meas } ∧
        (∀ c ∈ t.cores, c.place.part = h.part → c.regs.slip = clampSlip l.slip ∧ c.regs.precfg = l.precfg) ∧ t.mem = s.mem) ∧
    ((s.partAt h.part).st = .live → s.partBusy h.part = false →
      ∃ t : State, exec (.partGate h) s = .next (t.respond h .ok .empty) ∧ (t.partAt h.part).st = .gated ∧ t.mem = s.mem ∧ t.core = s.core) ∧
    (s.partBusy h.part = true → exec (.partGate h) s = .next (s.respond h .state .empty))) ∧
  (∀ (part : Nat) (s : State),
    ((s.partAt part).st = .draining → (s.partAt part).doomed = none → s.nothingFrom (fun c => c.part == part) = true →
      ∃ t, exec (.scrubComplete part) s = .next t ∧ (t.partAt part).st = .free ∧ (t.partAt part).gen = (s.partAt part).gen ∧ t.grantsOf part = []) ∧
    ((s.partAt part).st = .live → s.core.place.part = part → s.core.place.run ≠ .scrubbing →
      s.nothingFrom (fun c => ((s.coreAt c).map fun k => k.place.part == part && k.place.run == .scrubbing).getD false) = true →
      ∃ t, exec (.scrubComplete part) s = .next t ∧ (t.partAt part).stale = [] ∧ (t.partAt part).leaving = [] ∧
        ∀ r : XR, t.core.regs.x[r] = if s.core.regs.x[r].gen = (s.partAt part).gen then s.core.regs.x[r] else ⟨0, (s.partAt part).gen, Mark.empty⟩))

/-- R34, R37, R140, R327, R342, R347, R357, R358, R369, R375, R379, R384, R421: the commands on functions, with nothing wrong in their
payload, from who may give them. VF.ASSIGN gives an unassigned function its partition, weight, root and trap ring; VF.RESET ends its tasks,
launches, collectives and page records, raises its generation, and unassigns it when asked, once its tasks have their STATUS; a command of
the same function that has not answered holds it back; VF.WEIGHT and VF.S1ROOT set one register each, the latter dropping the combined
translations of the function; MEM.WRITE, PROG.LOAD and MEM.READ act on a guest-physical range that translates; TASK.LAUNCH joins the launch
queue, TASK.CANCEL ends the oldest task of its record; CTX.RESUME wakes a context at a breakpoint; a PAGE.REPLY that answers a request takes
it out of the queue; MIG.START and MIG.STOP write the dirty log's registers. The model's own reading: a command that waits (log entries 54 and
62), what VF.ASSIGN leaves of the function (log entry 55), the image PROG.LOAD measures (log entry 56), a read that needs two policy records
(log entry 57), OVF in MIG.START (log entry 59), the core that TASK.CANCEL's STATUS names (log entry 75) and a sealed image that has been changed (log entry 85). -/
def Obligations.FunctionCommands : Prop :=
  (∀ (h : CmdHdr) (vfn part weight : Nat) (s2root : Option Nat) (trapBase sz : Nat) (s : State), Accepts h false s → h.issuer = .hyp →
    s.assignOdd vfn part weight s2root trapBase sz = false → NamesPart part s → (s.vfAt vfn).part = none →
    ∃ t : State, exec (.vfAssign h vfn part weight s2root trapBase sz) s = .next (t.respond h .ok .empty) ∧ s2root = some (t.vfAt vfn).s2root ∧
      t.vfAt vfn = { Vf.init with
        part := some part
        weight := weight
        s2root := (t.vfAt vfn).s2root
        trapBase := trapBase
        trapSz := sz
        keys := (t.vfAt vfn).keys
        cnt := (s.vfAt vfn).cnt } ∧ (t.vfAt vfn).keys.isSome = (s.partAt part).isSealed ∧
      (∀ n, n ≠ vfn → t.vfAt n = s.vfAt n) ∧ t.core = s.core ∧ t.mem = s.mem) ∧
  (∀ (h : CmdHdr) (part : Nat) (s : State), Accepts h false s → NamesVf h part s →
    (∀ unassign, (h.issuer = .hyp ∨ (h.issuer = .vf h.vfn ∧ unassign = false)) → (unassign = true → (s.vfAt h.vfn).leaving ≠ some h.reqid) →
      (s.heldBehind h = true → exec (.vfReset h unassign) s = .next (s.holdCmd (.typed h (.vfReset unassign)))) ∧
      (s.heldBehind h = false → (unassign = false ∨ ∀ k ∈ s.disp.tasks, k.vf ≠ h.vfn) →
        ∃ t : State, exec (.vfReset h unassign) s = .next (t.respond h .ok .empty) ∧ (t.vfAt h.vfn).launch = [] ∧ (t.vfAt h.vfn).reqQ = [] ∧ (t.vfAt h.vfn).evQ = [] ∧
          (t.vfAt h.vfn).pageWait = [] ∧ (t.vfAt h.vfn).colls = [] ∧ (∀ r ∈ t.mgmt.stile, r.r.vfn ≠ h.vfn) ∧
          (unassign = true → (t.vfAt h.vfn).part = none) ∧
          (unassign = false → (t.vfAt h.vfn).part = some part ∧ (t.vfAt h.vfn).gen = (s.vfAt h.vfn).gen + 1)) ∧
      (s.heldBehind h = false → unassign = true → (∃ k ∈ s.disp.tasks, k.vf = h.vfn) →
        exec (.vfReset h unassign) s = .next (((s.resetVf h.vfn).setVf h.vfn fun x => { x with leaving := some h.reqid }).holdCmd (.typed h (.vfReset unassign))))) ∧
    (h.issuer = .hyp → (s.vfAt h.vfn).leaving = some h.reqid → (∀ k ∈ s.disp.tasks, k.vf ≠ h.vfn) →
      ∃ t : State, exec (.vfReset h true) s = .next (t.respond h .ok .empty) ∧ (t.vfAt h.vfn).part = none ∧ (t.vfAt h.vfn).launch = []) ∧
    (h.issuer = .hyp → ∀ weight, weight ≤ 255 → exec (.vfWeight h weight) s =
      .next ((s.setVf h.vfn fun v => { v with weight := weight }).respond h .ok .empty)) ∧
    (h.issuer = .vf h.vfn → ∀ v : W64, fld v 48 16 = 0 → fld v 1 11 = 0 →
      ∃ t : State, exec (.vfS1root h v) s = .next (t.respond h .ok .empty) ∧ (t.vfAt h.vfn).s1tb = v ∧ t.mem = s.mem ∧
        ∀ c ∈ t.cores, (∀ e ∈ c.port.tc, e.vf = h.vfn → e.s2only = true) ∧ ∀ e ∈ c.port.walks1, e.vf ≠ h.vfn) ∧
    (h.issuer = .vf h.vfn → ∀ addr, addr % 128 = 0 → addr < 2 ^ 64 →
      ((s.vfAt h.vfn).launch.length < 256 → ∃ t : State, exec (.taskLaunch h addr) s = .next (t.respond h .ok .empty) ∧
        (t.vfAt h.vfn).launch = (s.vfAt h.vfn).launch ++ [⟨BitVec.ofNat 64 addr, none, (s.vfAt h.vfn).launched⟩] ∧
        (t.vfAt h.vfn).launched = (s.vfAt h.vfn).launched + 1 ∧ (t.vfAt h.vfn).idle = false ∧ t.mem = s.mem ∧ t.core = s.core) ∧
      (256 ≤ (s.vfAt h.vfn).launch.length → exec (.taskLaunch h addr) s = .next (s.respond h .noRes .empty))) ∧
    (h.issuer = .vf h.vfn → ∀ addr,
      (∀ k, s.disp.tasks.find? (fun t => t.vf == h.vfn && t.r.addr.toNat == addr && t.outcome.isNone) = some k →
        exec (.taskCancel h addr) s = .next ((s.endTask k.id 5 0 id).respond h .ok .empty)) ∧
      (s.disp.tasks.find? (fun t => t.vf == h.vfn && t.r.addr.toNat == addr && t.outcome.isNone) = none →
        (∀ i l, lowest (fun l => l.addr.toNat == addr) (s.vfAt h.vfn).launch = some i → (s.vfAt h.vfn).launch[i]? = some l →
          exec (.taskCancel h addr) s =
            .next (((s.setVf h.vfn fun x => { x with launch := x.launch.eraseIdx i }).dropLaunch h.vfn 5 l).respond h .ok .empty)) ∧
        ((∀ l ∈ (s.vfAt h.vfn).launch, l.addr.toNat ≠ addr) → exec (.taskCancel h addr) s = .next (s.respond h .noEnt .empty)))) ∧
    (Entitled h part s →
      (∀ (gpa : Nat) (data : List Byte) (l : List (Nat × S2 × Nat)) (v : State), data.length ≤ 2 ^ 20 - 32 →
        s.guestPlaces h.vfn (data.length / 65536 + 2) gpa data.length = (some l, v) →
        exec (.memWrite h gpa data) s = .next ((v.guestPut h.vfn part l data).respond h .ok .empty)) ∧
      (∀ (gpa off : Nat) (img : List Byte) (frame : Option Nat) (l : List (Nat × S2 × Nat)) (v : State), img.length ≤ 2 ^ 20 - 32 →
        ((s.partAt part).isSealed = true → ∃ f, frame = some f ∧ s.framesAre h.vfn f = true) →
        s.guestPlaces h.vfn (img.length / 65536 + 2) (gpa + off) img.length = (some l, v) →
        exec (.progLoad h gpa off img false frame) s = .next ((v.guestPut h.vfn part l img).respond h .ok .empty) ∧
        (∀ (m : List (Nat × S2 × Nat)) (r : State), (v.guestPut h.vfn part l img).guestPlaces h.vfn ((off + img.length) / 65536 + 2) gpa (off + img.length) = (some m, r) →
          exec (.progLoad h gpa off img true frame) s = .next (((r.readPlaces part m).setVf h.vfn fun x => { x with
            meas := Config.sha3 (natLe x.meas.toNat 32 ++ natLe (Config.sha3 (m.flatMap fun y => r.seen part (y.2.1.at y.1) y.2.2)).toNat 32) }).respond h .ok .empty))) ∧
      (∀ (gpa len : Nat) (l : List (Nat × S2 × Nat)) (v : State), len ≤ 2 ^ 20 - 32 → s.guestPlaces h.vfn (len / 65536 + 2) gpa len = (some l, v) →
        (∀ x ∈ l, v.badBlock part (x.2.1.at x.1) x.2.2 = false ∧ v.poisoned (x.2.1.at x.1) x.2.2 = false) →
        ((∀ x ∈ l, v.releases h.digest (v.pageMark (x.2.1.frame x.1)) = true ∨ v.inReplay (x.2.1.at x.1) = true) →
          exec (.memRead h gpa len) s = .next ((v.readPlaces part l).respond h .ok (.bytes (l.flatMap fun x => v.seen part (x.2.1.at x.1) x.2.2)))) ∧
        (v.mgmt.stile = [] → (∃ x ∈ l, v.releases h.digest (v.pageMark (x.2.1.frame x.1)) = false ∧ v.inReplay (x.2.1.at x.1) = false) →
          exec (.memRead h gpa len) s = .next (s.respond h .refused .empty))) ∧
      (∀ (core : Nat) (c : Core), (s.contexts h.vfn).find? (fun c => c.place.num == core) = some c →
        (s.imageFails h.vfn c.id (c.place.task.getD 0) = true → exec (.ctxResume h core) s = .next (s.respond h .integrity .empty)) ∧
        (s.imageFails h.vfn c.id (c.place.task.getD 0) = false →
          (c.place.run = .debug → exec (.ctxResume h core) s = .next ((s.onContext h.vfn core (Core.goOn (s.vfAt h.vfn).s1tb)).respond h .ok .empty)) ∧
          (c.place.run ≠ .debug → exec (.ctxResume h core) s = .next (s.respond h .state .empty))))) ∧
    (h.issuer = .hyp →
      (∀ w0 w1 : W64, fld w0 44 18 = 0 → fld w0 0 12 = 0 → ∃ t : State, exec (.migStart h w0 w1) s = .next (t.respond h .ok .empty) ∧
        (t.vfAt h.vfn).dlog1 = w1 ∧ t.mem = s.mem ∧ t.core = s.core ∧
        (∀ j, j ≠ 62 → (t.vfAt h.vfn).dlog0.getLsbD j = (w0.getLsbD j && (j == 63 || (decide (12 ≤ j) && decide (j < 44))))) ∧
        ((t.vfAt h.vfn).dlog0.getLsbD 62 = ((s.vfAt h.vfn).dlog0.getLsbD 62 && !w0.getLsbD 62))) ∧
      (∃ t : State, exec (.migStop h) s = .next (t.respond h .ok (.words [(s.vfAt h.vfn).dlog0, (s.vfAt h.vfn).dlog1])) ∧ (t.vfAt h.vfn).dlog1 = (s.vfAt h.vfn).dlog1 ∧
        t.mem = s.mem ∧ t.core = s.core ∧ ∀ j, (t.vfAt h.vfn).dlog0.getLsbD j = ((s.vfAt h.vfn).dlog0.getLsbD j && j != 63)))) ∧
  (∀ (h : CmdHdr) (r : PageReplyRec) (part : Nat) (s v : State) (x : PageRec), Accepts h false s → replyOdd r = false → replyMay h r = true → r.vfn < 192 →
    (s.vfAt r.vfn).part = some part → (s.partAt part).st ≠ .draining → s.replyRefused r = false → r.kind = 0 →
    s.choose 5 part 0 (whoCode 0 r.vfn (r.addr / 4096)) = some v → BitVec.ofNat 6 r.gen = (s.vfAt r.vfn).gen →
    (s.vfAt r.vfn).reqQ.find? (fun y => y.page == r.addr / 65536) = some x → r.status = 0 →
    ∃ t : State, exec (.pageReply h [r]) s = .next (t.respond h .ok .empty) ∧ (t.vfAt r.vfn).reqQ = (s.vfAt r.vfn).reqQ.filter fun y => y.page != r.addr / 65536)

/-- R286, R293, R314, R371, R382 to R387, R411 to R422: the commands on the device, with nothing wrong in their payload, from who may give them: a report with the measurements and states of its scope, signed; a label bound to a digest; anchors installed; a policy
installed and revoked; a rota for idle cores of a sealed partition; slots booked and given back; the replay unit armed and read; spares brought in and recorded; counters read. The model's own reading: the bytes a
report signs (log entry 5), a group's number (log entry 40), anchors that add up (log entry 55), the layout of the counters (log entry 60), the
home of a reservation (log entry 82), policy records told by function and number (log entry 86), and START's 1 ms in cycles (log entry 102). -/
def Obligations.DeviceCommands : Prop :=
  (∀ (h : CmdHdr) (nonce : BitVec 256) (scope : EvScope) (s : State), Accepts h false s → h.issuer = .hyp →
    (match scope with
      | .module => True
      | .part p => p < 48 ∧ (s.partAt p).st ≠ .free ∧ (s.partAt p).st ≠ .draining
      | .vf n => n < 192 ∧ ∃ p, (s.vfAt n).part = some p ∧ (s.partAt p).st ≠ .draining) →
    let meas := s.scopeMeas scope
    let states := (s.scopeVfs scope).flatMap s.vfStates
    exec (.evidence h nonce scope) s =
      .next (s.respond h .ok (.report nonce s.gcc scope meas states (Config.sign (reportBytes nonce s.gcc scope meas states))))) ∧
  (∀ (h : CmdHdr) (s : State), Accepts h true s → h.issuer = .hyp →
    (∀ (label : Nat) (digest : BitVec 256), 0 < label → label ≤ 255 →
      ((∀ x ∈ s.mgmt.labels, x.1 ≠ label) → exec (.labelSet h label digest) s =
        .next ((s.onMgmt fun m => { m with labels := m.labels ++ [(label, digest)] }).respond h .ok .empty)) ∧
      ((∃ x ∈ s.mgmt.labels, x.1 = label) → exec (.labelSet h label digest) s = .next (s.respond h .state .empty))) ∧
    (∀ ds : List (BitVec 256), ds ≠ [] → ds.length ≤ 8 → ∃ t : State, exec (.trustAnchor h ds) s = .next (t.respond h .ok .empty) ∧
      (∀ d, d ∈ t.mgmt.anchors ↔ d ∈ s.mgmt.anchors ∨ d ∈ ds) ∧ t.mem = s.mem ∧ t.core = s.core) ∧
    (∀ block first last : Nat, first ≤ last → last - first < 131068 → ∀ l : List Nat, (List.range (last + 1 - first)).mapM (fun k => s.telemetry block (first + k)) = some l →
      exec (.telemetryRead h block first last) s = .next (s.respond h .ok (.words (l.map fun n => BitVec.ofNat 64 n))))) ∧
  (∀ (h : CmdHdr) (part : Nat) (s : State), Accepts h false s → NamesVf h part s → h.issuer = .vf h.vfn →
    (∀ r : PolicyRec, policyOdd h r = false → (∀ x ∈ s.mgmt.stile, ¬(x.r.vfn = r.vfn ∧ x.r.policyId = r.policyId)) →
      (r.labels.map fun l => (s.mgmt.labels.find? fun x => x.1 == l).map Prod.snd) = r.keyDigests.map some → r.sigsOk = true → s.mgmt.stile.length < 256 →
      exec (.stileInstall h r) s = .next ((s.onMgmt fun m => { m with stile := m.stile ++ [⟨r, r.bytes⟩] }).respond h .ok .empty)) ∧
    (∀ id, (∃ x ∈ s.mgmt.stile, x.r.vfn = h.vfn ∧ x.r.policyId = id) → ∃ t : State, exec (.stileRevoke h id) s = .next (t.respond h .ok .empty) ∧
      (∀ x, x ∈ t.mgmt.stile ↔ x ∈ s.mgmt.stile ∧ ¬(x.r.vfn = h.vfn ∧ x.r.policyId = id)) ∧ t.mem = s.mem ∧ t.core = s.core) ∧
    (∀ (group : W64) (nodes : List Nat), s.windowNodes (s.whoVf h.vfn) .named group = some nodes →
      (∀ count, 0 < count → count ≤ 64 → count ≤ (s.limits part).slots → ∃ (t : State) (b : Booking), exec (.slotReserve h group count) s = .next (t.respond h .ok .empty) ∧
        t.coll.bookings = s.coll.bookings ++ [b] ∧ b.part = part ∧ b.vf = h.vfn ∧ b.group = groupKey nodes ∧ b.count = count ∧ b.home = s.mgmt.node ∧ b.granted = [] ∧ b.leased = false ∧ b.line = false ∧
        t.mem = s.mem ∧ t.core = s.core) ∧
      (∀ b, s.coll.bookings.filter (fun b => b.vf == h.vfn && b.group == groupKey nodes && !b.leased) = [b] →
        exec (.slotRelease h group) s = .next ((s.dropBooking b.id).respond h .ok .empty)))) ∧
  (∀ (h : CmdHdr) (cores : List Nat) (start : W64) (entries : List RotaEntry) (s : State), Accepts h false s → h.issuer = .hyp → NamesPart h.part s →
    s.rotaOdd h.part entries = false → cores ≠ [] → cores.Nodup → (∀ n ∈ cores, n < (s.partAt h.part).sites.length) → (s.partAt h.part).isSealed = true →
    3300000 ≤ (start - s.gcc).toInt → (∀ n ∈ cores, s.coreBusy ⟨h.part, n⟩ = false) →
    ∃ t : State, exec (.rotaSet h cores start entries) s = .next (t.respond h .ok .empty) ∧ t.mem = s.mem ∧ t.core = s.core ∧
      ∀ n ∈ cores, ∃ r ∈ t.disp.rotas, r.part = h.part ∧ r.core = n ∧ r.entries = entries ∧ r.edge = start ∧ r.opens = none) ∧
  (∀ (h : CmdHdr) (s : State), Accepts h false s → h.issuer = .hyp →
    (∀ r : ReplayArmReq, s.armOdd r = false → NamesPart r.part s → s.partBusy r.part = false → (s.mgmt.replay.mode = 0 ∨ s.mgmt.replay.part = some r.part) →
      ∃ t : State, exec (.replayArm h r) s = .next (t.respond h .ok .empty) ∧ t.mgmt.replay.mode = r.mode ∧ t.mgmt.replay.part = some r.part ∧ t.mgmt.replay.mask = r.mask ∧
        t.mgmt.replay.base = r.base ∧ t.mgmt.replay.size = r.size ∧ t.mgmt.replay.log = (if r.mode = 1 then [] else s.mgmt.replay.log) ∧ t.mem = s.mem ∧ t.core = s.core) ∧
    exec (.replayDump h) s = .next (s.respond h .ok (.replay s.mgmt.replay.mode (if s.mgmt.replay.ovf then 1 else 0) (if s.mgmt.replay.diverged then 1 else 0)
      s.mgmt.replay.log.length ((s.mgmt.replay.log.head?.map ReplayRec.gcc).getD 0) ((s.mgmt.replay.log.getLast?.map ReplayRec.gcc).getD 0)
      s.mgmt.replay.divGcc s.mgmt.replay.divUnit s.mgmt.replay.divKind)) ∧
    (∀ r : SwapReq, s.swapOdd r = false → s.swapSpent r = false →
      (r.kind = 1 → (∀ c ∈ s.cores, c.place.site = r.retire → s.isMember c = true → c.isFree = true ∧ (s.partAt c.place.part).isSealed = false) →
        exec (.spareSwap h r) s = .next (((s.moveSite r).noteSwap r).respond h .ok .empty)) ∧
      (r.kind = 2 → exec (.spareSwap h r) s =
        .next (((s.setPort (r.spare / 64) fun p => { p with lanesUsed := p.lanesUsed ++ [r.spare % 64] }).noteSwap r).respond h .ok .empty)) ∧
      (r.kind = 3 → ∃ t : State, exec (.spareSwap h r) s = .next (t.respond h .ok .empty) ∧ t.mgmt.spares = s.mgmt.spares ++ [r] ∧ t.core = s.core) ∧
      (r.kind = 4 → exec (.spareSwap h r) s = .next ((s.noteSwap r).respond h .ok .empty)) ∧
      (r.kind = 5 → ∃ t : State, exec (.spareSwap h r) s = .next (t.respond h .ok .empty) ∧
        t.mgmt.cores = (s.mgmt.cores.setIfInBounds r.retire .retired).setIfInBounds r.spare .active ∧ t.mgmt.spares = s.mgmt.spares ++ [r])))

/-- R362, R380 to R383, R413, R414, R417, R423, R424: what the device does by itself. A link comes up when its peer authenticates, with no
failure counted, and goes down at the third tag failure in a row or a missed heartbeat; one that fails its training is not trained again for
10 s; its sending direction takes its next key after 2^32 flits; a management core that is not alive is retired and the lowest spare takes over; errors are
counted, flagged once those of 24 hours pass CETHR, logged, and kill or poison what they strike; the clock steps by 100 MHz within its
limits and throttles at once; low flow lowers PCAP; a shutdown cuts the power; bring-up goes to step 5, with the control node's sessions
open once it has authenticated, or shows the code of the step that failed, and ends at step 7; a replay that has lost its log is turned off;
an idle core takes a bank-group permutation. The model's own reading: the core that a killed task's STATUS names (log entry 75), the test against CETHR (log entry 62), the window of 24 hours (log entry 72), the coolant's whole steps and the
room below PCAP (log entry 63), the steps of bring-up (log entry 64), the counts and keys of a link that comes up (log entry 65), and the
control node's sessions (log entry 91). -/
def Obligations.DeviceEvents : Prop :=
  (∀ (s : State) (port : Fin 6) (peer : LinkPeer), 6 ≤ s.mgmt.step → (s.torusPort port.val).up = false → s.xr.tx = [] → s.xr.notes = [] →
    (s.peerOk peer = true → ∃ t, exec (.linkTraining port peer) s = .next t ∧
      ((s.torusPort port.val).retryAt ≤ s.mgmt.power.time → exec (.linkRetry port peer) s = .next t) ∧ (t.torusPort port.val).up = true ∧
      (t.torusPort port.val).tagFails = 0 ∧ (t.torusPort port.val).requester = lowerNode s.mgmt.node (s.neighbour port.val) ∧
      (t.torusPort port.val).outDir = { LinkDir.init with key := Config.linkKey s.ticks s.mgmt.node } ∧
      (t.torusPort port.val).inDir = { LinkDir.init with key := Config.linkKey s.ticks (s.neighbour port.val) } ∧ (∀ q, q ≠ port.val → t.torusPort q = s.torusPort q) ∧ t.mem = s.mem ∧ t.core = s.core) ∧
    (s.peerOk peer = false → ∃ t, exec (.linkTraining port peer) s = .next t ∧ (t.torusPort port.val).up = false ∧
      (t.torusPort port.val).retryAt = s.mgmt.power.time + retryTime ∧ t.mem = s.mem ∧ t.core = s.core) ∧
    (s.mgmt.power.time < (s.torusPort port.val).retryAt → exec (.linkRetry port peer) s = .next s)) ∧
  (∀ (s : State) (port : Fin 6), (s.torusPort port.val).up = true →
    (∃ t, exec (.heartbeatMissed port) s = .next t ∧ (t.torusPort port.val).up = false ∧ t.mem = s.mem ∧ t.core = s.core) ∧
    (∃ t, exec (.flitTagFailure port) s = .next t ∧ (t.torusPort port.val).up = decide ((s.torusPort port.val).tagFails < 2) ∧
      ((s.torusPort port.val).tagFails < 2 → (t.torusPort port.val).tagFails = (s.torusPort port.val).tagFails + 1) ∧ t.mem = s.mem ∧ t.core = s.core)) ∧
  (∀ (s : State) (port : Fin 6), 2 ^ 32 ≤ (s.torusPort port.val).outDir.flits →
    let d := (s.torusPort port.val).outDir
    ∃ t, exec (.flitCountKeyUpdate port) s = .next t ∧
      (t.torusPort port.val).outDir = { d with flits := d.flits - 2 ^ 32, epoch := d.epoch + 1, key := Config.nextKey d.key } ∧
      (t.torusPort port.val).inDir = (s.torusPort port.val).inDir ∧ (t.torusPort port.val).up = (s.torusPort port.val).up ∧ t.mem = s.mem ∧ t.core = s.core) ∧
  (∀ (s : State) (core : Fin 6), s.mgmt.cores[core] = .active →
    ∃ t, exec (.managementWatchdog core) s = .next t ∧ t.mgmt.cores[core] = .retired ∧ t.mem = s.mem ∧ t.core = s.core ∧
      (∀ i : Fin 6, s.mgmt.cores[i] = .spare → (∀ j : Fin 6, j < i → s.mgmt.cores[j] ≠ .spare) → t.mgmt.cores[i] = .active ∧
        t.mgmt.spares = s.mgmt.spares ++ [⟨5, core.val, i.val, 0⟩]) ∧
      (t.mgmt.pins = .fatal ∨ t.mgmt.pins = s.mgmt.pins) ∧ (3 ≤ (t.mgmt.cores.toList.filter (· == .retired)).length → t.mgmt.pins = .fatal)) ∧
  (∀ (s : State) (u : Nat), ∃ t, exec (.eccCorrection u) s = .next t ∧ Sparse.get 0 t.mgmt.ecc u = Sparse.get 0 s.mgmt.ecc u + 1 ∧
    (u ∈ t.mgmt.flagged ↔ u ∈ s.mgmt.flagged ∨ s.mgmt.cethr < s.eccRecent u + 1) ∧ t.mem = s.mem ∧ t.core = s.core) ∧
  (∀ (s : State) (hpa : Nat), ∃ t, exec (.uncorrectableError (.line hpa)) s = .next t ∧ t.core = s.core ∧ (∀ a, t.readByte a = s.readByte a) ∧
    ∀ l, l ∈ t.mem.poison ↔ l ∈ s.mem.poison ∨ l = lineOf hpa) ∧
  (∀ (s : State) (c : CoreId) (k : Core), s.coreAt c = some k → ∃ t, exec (.uncorrectableError (.core c)) s = .next t ∧
    t = ((if k.isFree then s else s.killContext c).onMgmt fun m => { m with errors := m.errors ++ [(k.place.site, s.gcc)] })) ∧
  (∀ (s : State) (c : CoreId) (n : Nat) (k : Core), s.disp.saved.find? (fun x => x.id == c && x.runsTask n) = some k →
    exec (.uncorrectableError (.saved c n)) s = .next ((s.endTask n 7 c.num id).onMgmt fun m => { m with errors := m.errors ++ [(k.place.site, s.gcc)] })) ∧
  (∀ (s : State) (watts : Nat), ∃ t, exec (.powerStep watts) s = .next t ∧ t.mgmt.power.watts = watts ∧ t.mem = s.mem ∧ t.core = s.core ∧
    t.mgmt.power.clock =
      (if s.mgmt.power.throttled ≠ [] then 1200
       else if s.mgmt.power.pcap < watts then max 1200 (s.mgmt.power.clock - 100)
       else if watts < s.mgmt.power.pcap then min 3300 (s.mgmt.power.clock + 100) else s.mgmt.power.clock)) ∧
  (∀ (s : State) (x : Sensor) (temp : Nat),
    (throttleAt x ≤ temp → x ∉ s.mgmt.power.throttled → ∃ t, exec (.thermalThrottle x temp) s = .next t ∧ t.mgmt.power.clock = 1200 ∧ x ∈ t.mgmt.power.throttled ∧
      t.mgmt.power.events = s.mgmt.power.events + 1 ∧ t.core = s.core ∧ t.mem = s.mem) ∧
    (temp + 5 ≤ throttleAt x → ∃ t, exec (.throttleRelease x temp) s = .next t ∧ (∀ y, y ∈ t.mgmt.power.throttled ↔ y ∈ s.mgmt.power.throttled ∧ y ≠ x) ∧ t.core = s.core ∧ t.mem = s.mem) ∧
    (shutdownAt x ≤ temp → ∃ t, exec (.thermalShutdown (some x) temp) s = .next t ∧ t.mgmt.pins = .off ∧ t.core.place.run = .idle ∧ t.mgmt.spares = s.mgmt.spares)) ∧
  (∀ (s : State) (flow : Nat),
    (flow < 2000 → ∃ t, exec (.thermalShutdown none flow) s = .next t ∧ t.mgmt.pins = .off) ∧
    (flow < 4000 → ∃ t, exec (.coolantFlowLow flow) s = .next t ∧ t.mgmt.power.pcap = s.mgmt.power.cap - 400 * ((4000 - flow) / 500) ∧ t.core = s.core ∧ t.mem = s.mem)) ∧
  (∀ (s : State) (env : BringUpEnv),
    (s.mgmt.step = 5 → ∃ t, exec (.bringUp env) s = .next t ∧ t.mgmt.step = 7 ∧ t.core = s.core ∧ t.mem = s.mem) ∧
    (s.mgmt.step = 0 →
      (env.railsOk = false → ∃ t, exec (.bringUp env) s = .next t ∧ t.mgmt.pins = .power ∧ t.mgmt.step = 0) ∧
      (env.railsOk = true → env.selfTestOk = false ∨ env.block.format ≠ 1 ∨ env.block.reservedZero = false →
        ∃ t, exec (.bringUp env) s = .next t ∧ t.mgmt.pins = .config ∧ t.mgmt.step = 0) ∧
      (env.railsOk = true → env.selfTestOk = true → env.block.format = 1 → env.block.reservedZero = true → env.memoryOk = false →
        ∃ t, exec (.bringUp env) s = .next t ∧ t.mgmt.pins = .memory ∧ t.mgmt.step = 0) ∧
      (env.railsOk = true → env.selfTestOk = true → env.block.format = 1 → env.block.reservedZero = true → env.memoryOk = true → s.controlOk env.control = true →
        ∃ t, exec (.bringUp env) s = .next t ∧ t.mgmt.step = 5 ∧ t.mgmt.dims = env.block.dims ∧ t.mgmt.node = nodeOf env.block.node.1 env.block.node.2.1 env.block.node.2.2 ∧
          t.mgmt.romDigest = env.romDigest ∧ t.mgmt.fwDigest = env.fwDigest ∧ t.mgmt.spares = s.mgmt.spares ∧ t.mgmt.power.pcap = env.block.pcap ∧
          (∀ x ∈ t.mgmt.sessions, x.owner = .hyp ∧ x.key = env.controlKey)) ∧
      (env.railsOk = true → env.selfTestOk = true → env.block.format = 1 → env.block.reservedZero = true → env.memoryOk = true → s.controlOk env.control = false →
        ∃ t, exec (.bringUp env) s = .next t ∧ t.mgmt.pins = .control ∧ t.mgmt.step = 0))) ∧
  (∀ s : State, s.mgmt.replay.mode = 2 → s.mgmt.replay.begun = true → (s.mgmt.replay.todo = [] ∨
      ∃ x ∈ s.mgmt.replay.todo, 16777216 ≤ (s.gcc - s.mgmt.replay.lastUse (recorder x.kind x.unit)).toNat) →
    ∃ t, exec .replayDivergence s = .next t ∧ t.mgmt.replay.mode = 0 ∧ t.mgmt.replay.diverged = true ∧ t.mgmt.replay.divGcc = s.gcc ∧ t.core = s.core ∧ t.mem = s.mem) ∧
  (∀ (s : State) (perm : List Nat), isGroupPerm perm = true → s.core.isFree = true →
    ∃ t, exec (.bankGroupMapChange s.core.id perm) s = .next t ∧ t.core.place = { s.core.place with bankMap := perm } ∧ t.core.regs = s.core.regs ∧ t.mem = s.mem)
end

