-- ==== Sys2Proof/Laws/Sparse.lean ====
section
/-! SUPPORT. Tables in canonical form: what a read after a write gives, and that writing keeps the form. -/

namespace Sys2Proof.Machine

variable {α : Type} [DecidableEq α] {d : α}

theorem Sparse.wfFrom_mono {lo hi : Nat} (h : hi ≤ lo) : ∀ {l : Sparse α}, Sparse.wfFrom d lo l = true → Sparse.wfFrom d hi l = true
  | [], _ => rfl
  | (k, v) :: t, hw => by
    simp only [Sparse.wfFrom, Bool.and_eq_true, decide_eq_true_eq] at hw ⊢
    exact ⟨⟨by omega, hw.1.2⟩, hw.2⟩

theorem Sparse.set_wfFrom {lo : Nat} : ∀ {l : Sparse α} {n : Nat} {v : α}, lo ≤ n → Sparse.wfFrom d lo l = true →
    Sparse.wfFrom d lo (Sparse.set d l n v) = true
  | [], n, v, hn, _ => by
    unfold Sparse.set
    split <;> simp_all [Sparse.wfFrom]
  | (k, u) :: t, n, v, hn, hw => by
    simp only [Sparse.wfFrom, Bool.and_eq_true, decide_eq_true_eq] at hw
    unfold Sparse.set
    split
    · split
      · simp [Sparse.wfFrom, hw]
      · simp [Sparse.wfFrom, *]
    · split
      · split
        · exact Sparse.wfFrom_mono (by omega) hw.2
        · simp_all [Sparse.wfFrom]
      · simp only [Sparse.wfFrom, Bool.and_eq_true, decide_eq_true_eq]
        exact ⟨hw.1, Sparse.set_wfFrom (by omega) hw.2⟩

/-- A write keeps the canonical form. -/
theorem Sparse.set_wf {l : Sparse α} {n : Nat} {v : α} (h : Sparse.wf d l = true) : Sparse.wf d (Sparse.set d l n v) = true :=
  Sparse.set_wfFrom (Nat.zero_le _) h

theorem Sparse.setMany_wf : ∀ {l : Sparse α} {n : Nat} {vs : List α}, Sparse.wf d l = true → Sparse.wf d (Sparse.setMany d l n vs) = true
  | _, _, [], h => h
  | _, _, v :: vs, h => by
    rw [Sparse.setMany]
    exact Sparse.setMany_wf (vs := vs) (Sparse.set_wf h)

theorem Sparse.get_below : ∀ {l : Sparse α} {lo n : Nat}, Sparse.wfFrom d lo l = true → n < lo → Sparse.get d l n = d
  | [], _, _, _, _ => rfl
  | (k, v) :: t, lo, n, hw, hn => by
    simp only [Sparse.wfFrom, Bool.and_eq_true, decide_eq_true_eq] at hw
    unfold Sparse.get
    rw [if_pos (by omega)]

theorem Sparse.get_set_sameFrom {lo : Nat} : ∀ {l : Sparse α} {n : Nat} {v : α}, Sparse.wfFrom d lo l = true → Sparse.get d (Sparse.set d l n v) n = v
  | [], n, v, _ => by
    unfold Sparse.set
    split <;> simp_all [Sparse.get]
  | (k, u) :: t, n, v, hw => by
    simp only [Sparse.wfFrom, Bool.and_eq_true, decide_eq_true_eq] at hw
    unfold Sparse.set
    split
    · split <;> simp_all [Sparse.get]
    · split
      · split
        · subst_vars; exact Sparse.get_below hw.2 (by omega)
        · simp [Sparse.get]
      · simp only [Sparse.get, *, if_false]
        exact Sparse.get_set_sameFrom hw.2

/-- A read after a write to the same key gives the value written. -/
theorem Sparse.get_set_same {l : Sparse α} {n : Nat} {v : α} (h : Sparse.wf d l = true) : Sparse.get d (Sparse.set d l n v) n = v :=
  Sparse.get_set_sameFrom h

/-- Of a value no unlisted key reads as, in any list. -/
theorem Sparse.get_set_same_ne : ∀ {l : Sparse α} {n : Nat} {v : α}, v ≠ d → Sparse.get d (Sparse.set d l n v) n = v
  | [], n, v, hv => by simp [Sparse.set, Sparse.get, hv]
  | (k, u) :: t, n, v, hv => by
    unfold Sparse.set
    split
    · simp [Sparse.get, hv]
    · split
      · simp [Sparse.get, hv]
      · simp only [Sparse.get, *, if_false]
        exact Sparse.get_set_same_ne hv

theorem Sparse.get_set_otherFrom : ∀ {l : Sparse α} {lo n m : Nat} {v : α}, Sparse.wfFrom d lo l = true → m ≠ n →
    Sparse.get d (Sparse.set d l n v) m = Sparse.get d l m
  | [], lo, n, m, v, _, hm => by
    unfold Sparse.set
    split
    · rfl
    · simp [Sparse.get, hm]
  | (k, u) :: t, lo, n, m, v, hw, hm => by
    simp only [Sparse.wfFrom, Bool.and_eq_true, decide_eq_true_eq] at hw
    unfold Sparse.set
    split
    · split
      · rfl
      · by_cases h1 : m < n
        · simp [Sparse.get, h1, show m < k by omega]
        · simp [Sparse.get, h1, hm]
    · split
      · subst_vars
        split
        · by_cases h1 : m < n
          · rw [Sparse.get_below hw.2 (by omega)]; simp [Sparse.get, h1]
          · simp [Sparse.get, h1, hm]
        · simp [Sparse.get, hm]
      · simp only [Sparse.get]
        split
        · rfl
        · split
          · rfl
          · exact Sparse.get_set_otherFrom hw.2 hm

/-- A write leaves every other key as it was. -/
theorem Sparse.get_set_other {l : Sparse α} {n m : Nat} {v : α} (h : Sparse.wf d l = true) (hm : m ≠ n) :
    Sparse.get d (Sparse.set d l n v) m = Sparse.get d l m := Sparse.get_set_otherFrom h hm

/-- Reading after consecutive keys have been written. -/
theorem Sparse.get_setMany : ∀ {vs : List α} {l : Sparse α} {n m : Nat}, Sparse.wf d l = true →
    Sparse.get d (Sparse.setMany d l n vs) m = if n ≤ m ∧ m < n + vs.length then vs.getD (m - n) d else Sparse.get d l m
  | [], l, n, m, _ => by rw [Sparse.setMany, if_neg (by simp only [List.length_nil]; omega)]
  | v :: vs, l, n, m, h => by
    rw [Sparse.setMany, Sparse.get_setMany (Sparse.set_wf h)]
    by_cases h1 : m = n
    · subst h1
      simp [Sparse.get_set_same h]
    · rw [Sparse.get_set_other h h1]
      by_cases h2 : n + 1 ≤ m ∧ m < n + 1 + vs.length
      · rw [if_pos h2, if_pos (by simp; omega)]
        obtain ⟨k, rfl⟩ : ∃ k, m = n + 1 + k := ⟨m - (n + 1), by omega⟩
        rw [show n + 1 + k - (n + 1) = k by omega, show n + 1 + k - n = k + 1 by omega, List.getD_cons_succ]
      · rw [if_neg h2, if_neg (by simp only [List.length_cons]; omega)]

/-- Entries left out keep the canonical form. -/
theorem Sparse.filter_wfFrom {p : Nat × α → Bool} : ∀ {l : Sparse α} {lo : Nat}, Sparse.wfFrom d lo l = true →
    Sparse.wfFrom d lo (l.filter p) = true
  | [], _, _ => rfl
  | (k, v) :: t, lo, hw => by
    simp only [Sparse.wfFrom, Bool.and_eq_true, decide_eq_true_eq] at hw
    rw [List.filter_cons]
    split
    · simp only [Sparse.wfFrom, Bool.and_eq_true, decide_eq_true_eq]
      exact ⟨hw.1, Sparse.filter_wfFrom hw.2⟩
    · exact Sparse.wfFrom_mono (by omega) (Sparse.filter_wfFrom hw.2)
theorem Sparse.filter_wf {p : Nat × α → Bool} {l : Sparse α} (h : Sparse.wf d l = true) : Sparse.wf d (l.filter p) = true :=
  Sparse.filter_wfFrom h

end Sys2Proof.Machine
end

