-- ==== Sys2Proof/Laws/State.lean ====
section
/-! SUPPORT. What each update of a part of the state leaves in each field: no later proof unfolds a record update. -/

namespace Sys2Proof.Machine


/-! #### State.onPlace -/

@[simp] theorem State.onPlace_others (f : Place → Place) (s : State) : (s.onPlace f).others = s.others := rfl
@[simp] theorem State.onPlace_act (f : Place → Place) (s : State) : (s.onPlace f).act = s.act := rfl
@[simp] theorem State.onPlace_lane (f : Place → Place) (s : State) : (s.onPlace f).lane = s.lane := rfl
@[simp] theorem State.onPlace_gcc (f : Place → Place) (s : State) : (s.onPlace f).gcc = s.gcc := rfl
@[simp] theorem State.onPlace_mem (f : Place → Place) (s : State) : (s.onPlace f).mem = s.mem := rfl
@[simp] theorem State.onPlace_gran (f : Place → Place) (s : State) : (s.onPlace f).gran = s.gran := rfl
@[simp] theorem State.onPlace_xr (f : Place → Place) (s : State) : (s.onPlace f).xr = s.xr := rfl
@[simp] theorem State.onPlace_coll (f : Place → Place) (s : State) : (s.onPlace f).coll = s.coll := rfl
@[simp] theorem State.onPlace_disp (f : Place → Place) (s : State) : (s.onPlace f).disp = s.disp := rfl
@[simp] theorem State.onPlace_fab (f : Place → Place) (s : State) : (s.onPlace f).fab = s.fab := rfl
@[simp] theorem State.onPlace_mgmt (f : Place → Place) (s : State) : (s.onPlace f).mgmt = s.mgmt := rfl
@[simp] theorem State.onPlace_agenda (f : Place → Place) (s : State) : (s.onPlace f).agenda = s.agenda := rfl
@[simp] theorem State.onPlace_ticks (f : Place → Place) (s : State) : (s.onPlace f).ticks = s.ticks := rfl
@[simp] theorem State.onPlace_core_place (f : Place → Place) (s : State) : (s.onPlace f).core.place = f s.core.place := rfl
@[simp] theorem State.onPlace_core_regs (f : Place → Place) (s : State) : (s.onPlace f).core.regs = s.core.regs := rfl
@[simp] theorem State.onPlace_core_walk (f : Place → Place) (s : State) : (s.onPlace f).core.walk = s.core.walk := rfl
@[simp] theorem State.onPlace_core_q (f : Place → Place) (s : State) : (s.onPlace f).core.q = s.core.q := rfl
@[simp] theorem State.onPlace_core_port (f : Place → Place) (s : State) : (s.onPlace f).core.port = s.core.port := rfl
@[simp] theorem State.onPlace_core_mat (f : Place → Place) (s : State) : (s.onPlace f).core.mat = s.core.mat := rfl
@[simp] theorem State.onPlace_core_waits (f : Place → Place) (s : State) : (s.onPlace f).core.waits = s.core.waits := rfl

/-! #### State.onRegs -/

@[simp] theorem State.onRegs_others (f : Regs → Regs) (s : State) : (s.onRegs f).others = s.others := rfl
@[simp] theorem State.onRegs_act (f : Regs → Regs) (s : State) : (s.onRegs f).act = s.act := rfl
@[simp] theorem State.onRegs_lane (f : Regs → Regs) (s : State) : (s.onRegs f).lane = s.lane := rfl
@[simp] theorem State.onRegs_gcc (f : Regs → Regs) (s : State) : (s.onRegs f).gcc = s.gcc := rfl
@[simp] theorem State.onRegs_mem (f : Regs → Regs) (s : State) : (s.onRegs f).mem = s.mem := rfl
@[simp] theorem State.onRegs_gran (f : Regs → Regs) (s : State) : (s.onRegs f).gran = s.gran := rfl
@[simp] theorem State.onRegs_xr (f : Regs → Regs) (s : State) : (s.onRegs f).xr = s.xr := rfl
@[simp] theorem State.onRegs_coll (f : Regs → Regs) (s : State) : (s.onRegs f).coll = s.coll := rfl
@[simp] theorem State.onRegs_disp (f : Regs → Regs) (s : State) : (s.onRegs f).disp = s.disp := rfl
@[simp] theorem State.onRegs_fab (f : Regs → Regs) (s : State) : (s.onRegs f).fab = s.fab := rfl
@[simp] theorem State.onRegs_mgmt (f : Regs → Regs) (s : State) : (s.onRegs f).mgmt = s.mgmt := rfl
@[simp] theorem State.onRegs_agenda (f : Regs → Regs) (s : State) : (s.onRegs f).agenda = s.agenda := rfl
@[simp] theorem State.onRegs_ticks (f : Regs → Regs) (s : State) : (s.onRegs f).ticks = s.ticks := rfl
@[simp] theorem State.onRegs_core_place (f : Regs → Regs) (s : State) : (s.onRegs f).core.place = s.core.place := rfl
@[simp] theorem State.onRegs_core_regs (f : Regs → Regs) (s : State) : (s.onRegs f).core.regs = f s.core.regs := rfl
@[simp] theorem State.onRegs_core_walk (f : Regs → Regs) (s : State) : (s.onRegs f).core.walk = s.core.walk := rfl
@[simp] theorem State.onRegs_core_q (f : Regs → Regs) (s : State) : (s.onRegs f).core.q = s.core.q := rfl
@[simp] theorem State.onRegs_core_port (f : Regs → Regs) (s : State) : (s.onRegs f).core.port = s.core.port := rfl
@[simp] theorem State.onRegs_core_mat (f : Regs → Regs) (s : State) : (s.onRegs f).core.mat = s.core.mat := rfl
@[simp] theorem State.onRegs_core_waits (f : Regs → Regs) (s : State) : (s.onRegs f).core.waits = s.core.waits := rfl

/-! #### State.onWalk -/

@[simp] theorem State.onWalk_others (f : Walk → Walk) (s : State) : (s.onWalk f).others = s.others := rfl
@[simp] theorem State.onWalk_act (f : Walk → Walk) (s : State) : (s.onWalk f).act = s.act := rfl
@[simp] theorem State.onWalk_lane (f : Walk → Walk) (s : State) : (s.onWalk f).lane = s.lane := rfl
@[simp] theorem State.onWalk_gcc (f : Walk → Walk) (s : State) : (s.onWalk f).gcc = s.gcc := rfl
@[simp] theorem State.onWalk_mem (f : Walk → Walk) (s : State) : (s.onWalk f).mem = s.mem := rfl
@[simp] theorem State.onWalk_gran (f : Walk → Walk) (s : State) : (s.onWalk f).gran = s.gran := rfl
@[simp] theorem State.onWalk_xr (f : Walk → Walk) (s : State) : (s.onWalk f).xr = s.xr := rfl
@[simp] theorem State.onWalk_coll (f : Walk → Walk) (s : State) : (s.onWalk f).coll = s.coll := rfl
@[simp] theorem State.onWalk_disp (f : Walk → Walk) (s : State) : (s.onWalk f).disp = s.disp := rfl
@[simp] theorem State.onWalk_fab (f : Walk → Walk) (s : State) : (s.onWalk f).fab = s.fab := rfl
@[simp] theorem State.onWalk_mgmt (f : Walk → Walk) (s : State) : (s.onWalk f).mgmt = s.mgmt := rfl
@[simp] theorem State.onWalk_agenda (f : Walk → Walk) (s : State) : (s.onWalk f).agenda = s.agenda := rfl
@[simp] theorem State.onWalk_ticks (f : Walk → Walk) (s : State) : (s.onWalk f).ticks = s.ticks := rfl
@[simp] theorem State.onWalk_core_place (f : Walk → Walk) (s : State) : (s.onWalk f).core.place = s.core.place := rfl
@[simp] theorem State.onWalk_core_regs (f : Walk → Walk) (s : State) : (s.onWalk f).core.regs = s.core.regs := rfl
@[simp] theorem State.onWalk_core_walk (f : Walk → Walk) (s : State) : (s.onWalk f).core.walk = f s.core.walk := rfl
@[simp] theorem State.onWalk_core_q (f : Walk → Walk) (s : State) : (s.onWalk f).core.q = s.core.q := rfl
@[simp] theorem State.onWalk_core_port (f : Walk → Walk) (s : State) : (s.onWalk f).core.port = s.core.port := rfl
@[simp] theorem State.onWalk_core_mat (f : Walk → Walk) (s : State) : (s.onWalk f).core.mat = s.core.mat := rfl
@[simp] theorem State.onWalk_core_waits (f : Walk → Walk) (s : State) : (s.onWalk f).core.waits = s.core.waits := rfl

/-! #### State.onQ -/

@[simp] theorem State.onQ_others (f : Queues → Queues) (s : State) : (s.onQ f).others = s.others := rfl
@[simp] theorem State.onQ_act (f : Queues → Queues) (s : State) : (s.onQ f).act = s.act := rfl
@[simp] theorem State.onQ_lane (f : Queues → Queues) (s : State) : (s.onQ f).lane = s.lane := rfl
@[simp] theorem State.onQ_gcc (f : Queues → Queues) (s : State) : (s.onQ f).gcc = s.gcc := rfl
@[simp] theorem State.onQ_mem (f : Queues → Queues) (s : State) : (s.onQ f).mem = s.mem := rfl
@[simp] theorem State.onQ_gran (f : Queues → Queues) (s : State) : (s.onQ f).gran = s.gran := rfl
@[simp] theorem State.onQ_xr (f : Queues → Queues) (s : State) : (s.onQ f).xr = s.xr := rfl
@[simp] theorem State.onQ_coll (f : Queues → Queues) (s : State) : (s.onQ f).coll = s.coll := rfl
@[simp] theorem State.onQ_disp (f : Queues → Queues) (s : State) : (s.onQ f).disp = s.disp := rfl
@[simp] theorem State.onQ_fab (f : Queues → Queues) (s : State) : (s.onQ f).fab = s.fab := rfl
@[simp] theorem State.onQ_mgmt (f : Queues → Queues) (s : State) : (s.onQ f).mgmt = s.mgmt := rfl
@[simp] theorem State.onQ_agenda (f : Queues → Queues) (s : State) : (s.onQ f).agenda = s.agenda := rfl
@[simp] theorem State.onQ_ticks (f : Queues → Queues) (s : State) : (s.onQ f).ticks = s.ticks := rfl
@[simp] theorem State.onQ_core_place (f : Queues → Queues) (s : State) : (s.onQ f).core.place = s.core.place := rfl
@[simp] theorem State.onQ_core_regs (f : Queues → Queues) (s : State) : (s.onQ f).core.regs = s.core.regs := rfl
@[simp] theorem State.onQ_core_walk (f : Queues → Queues) (s : State) : (s.onQ f).core.walk = s.core.walk := rfl
@[simp] theorem State.onQ_core_q (f : Queues → Queues) (s : State) : (s.onQ f).core.q = f s.core.q := rfl
@[simp] theorem State.onQ_core_port (f : Queues → Queues) (s : State) : (s.onQ f).core.port = s.core.port := rfl
@[simp] theorem State.onQ_core_mat (f : Queues → Queues) (s : State) : (s.onQ f).core.mat = s.core.mat := rfl
@[simp] theorem State.onQ_core_waits (f : Queues → Queues) (s : State) : (s.onQ f).core.waits = s.core.waits := rfl

/-! #### State.onPort -/

@[simp] theorem State.onPort_others (f : Port → Port) (s : State) : (s.onPort f).others = s.others := rfl
@[simp] theorem State.onPort_act (f : Port → Port) (s : State) : (s.onPort f).act = s.act := rfl
@[simp] theorem State.onPort_lane (f : Port → Port) (s : State) : (s.onPort f).lane = s.lane := rfl
@[simp] theorem State.onPort_gcc (f : Port → Port) (s : State) : (s.onPort f).gcc = s.gcc := rfl
@[simp] theorem State.onPort_mem (f : Port → Port) (s : State) : (s.onPort f).mem = s.mem := rfl
@[simp] theorem State.onPort_gran (f : Port → Port) (s : State) : (s.onPort f).gran = s.gran := rfl
@[simp] theorem State.onPort_xr (f : Port → Port) (s : State) : (s.onPort f).xr = s.xr := rfl
@[simp] theorem State.onPort_coll (f : Port → Port) (s : State) : (s.onPort f).coll = s.coll := rfl
@[simp] theorem State.onPort_disp (f : Port → Port) (s : State) : (s.onPort f).disp = s.disp := rfl
@[simp] theorem State.onPort_fab (f : Port → Port) (s : State) : (s.onPort f).fab = s.fab := rfl
@[simp] theorem State.onPort_mgmt (f : Port → Port) (s : State) : (s.onPort f).mgmt = s.mgmt := rfl
@[simp] theorem State.onPort_agenda (f : Port → Port) (s : State) : (s.onPort f).agenda = s.agenda := rfl
@[simp] theorem State.onPort_ticks (f : Port → Port) (s : State) : (s.onPort f).ticks = s.ticks := rfl
@[simp] theorem State.onPort_core_place (f : Port → Port) (s : State) : (s.onPort f).core.place = s.core.place := rfl
@[simp] theorem State.onPort_core_regs (f : Port → Port) (s : State) : (s.onPort f).core.regs = s.core.regs := rfl
@[simp] theorem State.onPort_core_walk (f : Port → Port) (s : State) : (s.onPort f).core.walk = s.core.walk := rfl
@[simp] theorem State.onPort_core_q (f : Port → Port) (s : State) : (s.onPort f).core.q = s.core.q := rfl
@[simp] theorem State.onPort_core_port (f : Port → Port) (s : State) : (s.onPort f).core.port = f s.core.port := rfl
@[simp] theorem State.onPort_core_mat (f : Port → Port) (s : State) : (s.onPort f).core.mat = s.core.mat := rfl
@[simp] theorem State.onPort_core_waits (f : Port → Port) (s : State) : (s.onPort f).core.waits = s.core.waits := rfl

/-! #### State.onMat -/

@[simp] theorem State.onMat_others (f : MatState → MatState) (s : State) : (s.onMat f).others = s.others := rfl
@[simp] theorem State.onMat_act (f : MatState → MatState) (s : State) : (s.onMat f).act = s.act := rfl
@[simp] theorem State.onMat_lane (f : MatState → MatState) (s : State) : (s.onMat f).lane = s.lane := rfl
@[simp] theorem State.onMat_gcc (f : MatState → MatState) (s : State) : (s.onMat f).gcc = s.gcc := rfl
@[simp] theorem State.onMat_mem (f : MatState → MatState) (s : State) : (s.onMat f).mem = s.mem := rfl
@[simp] theorem State.onMat_gran (f : MatState → MatState) (s : State) : (s.onMat f).gran = s.gran := rfl
@[simp] theorem State.onMat_xr (f : MatState → MatState) (s : State) : (s.onMat f).xr = s.xr := rfl
@[simp] theorem State.onMat_coll (f : MatState → MatState) (s : State) : (s.onMat f).coll = s.coll := rfl
@[simp] theorem State.onMat_disp (f : MatState → MatState) (s : State) : (s.onMat f).disp = s.disp := rfl
@[simp] theorem State.onMat_fab (f : MatState → MatState) (s : State) : (s.onMat f).fab = s.fab := rfl
@[simp] theorem State.onMat_mgmt (f : MatState → MatState) (s : State) : (s.onMat f).mgmt = s.mgmt := rfl
@[simp] theorem State.onMat_agenda (f : MatState → MatState) (s : State) : (s.onMat f).agenda = s.agenda := rfl
@[simp] theorem State.onMat_ticks (f : MatState → MatState) (s : State) : (s.onMat f).ticks = s.ticks := rfl
@[simp] theorem State.onMat_core_place (f : MatState → MatState) (s : State) : (s.onMat f).core.place = s.core.place := rfl
@[simp] theorem State.onMat_core_regs (f : MatState → MatState) (s : State) : (s.onMat f).core.regs = s.core.regs := rfl
@[simp] theorem State.onMat_core_walk (f : MatState → MatState) (s : State) : (s.onMat f).core.walk = s.core.walk := rfl
@[simp] theorem State.onMat_core_q (f : MatState → MatState) (s : State) : (s.onMat f).core.q = s.core.q := rfl
@[simp] theorem State.onMat_core_port (f : MatState → MatState) (s : State) : (s.onMat f).core.port = s.core.port := rfl
@[simp] theorem State.onMat_core_mat (f : MatState → MatState) (s : State) : (s.onMat f).core.mat = f s.core.mat := rfl
@[simp] theorem State.onMat_core_waits (f : MatState → MatState) (s : State) : (s.onMat f).core.waits = s.core.waits := rfl

/-! #### State.onWaits -/

@[simp] theorem State.onWaits_others (f : Waits → Waits) (s : State) : (s.onWaits f).others = s.others := rfl
@[simp] theorem State.onWaits_act (f : Waits → Waits) (s : State) : (s.onWaits f).act = s.act := rfl
@[simp] theorem State.onWaits_lane (f : Waits → Waits) (s : State) : (s.onWaits f).lane = s.lane := rfl
@[simp] theorem State.onWaits_gcc (f : Waits → Waits) (s : State) : (s.onWaits f).gcc = s.gcc := rfl
@[simp] theorem State.onWaits_mem (f : Waits → Waits) (s : State) : (s.onWaits f).mem = s.mem := rfl
@[simp] theorem State.onWaits_gran (f : Waits → Waits) (s : State) : (s.onWaits f).gran = s.gran := rfl
@[simp] theorem State.onWaits_xr (f : Waits → Waits) (s : State) : (s.onWaits f).xr = s.xr := rfl
@[simp] theorem State.onWaits_coll (f : Waits → Waits) (s : State) : (s.onWaits f).coll = s.coll := rfl
@[simp] theorem State.onWaits_disp (f : Waits → Waits) (s : State) : (s.onWaits f).disp = s.disp := rfl
@[simp] theorem State.onWaits_fab (f : Waits → Waits) (s : State) : (s.onWaits f).fab = s.fab := rfl
@[simp] theorem State.onWaits_mgmt (f : Waits → Waits) (s : State) : (s.onWaits f).mgmt = s.mgmt := rfl
@[simp] theorem State.onWaits_agenda (f : Waits → Waits) (s : State) : (s.onWaits f).agenda = s.agenda := rfl
@[simp] theorem State.onWaits_ticks (f : Waits → Waits) (s : State) : (s.onWaits f).ticks = s.ticks := rfl
@[simp] theorem State.onWaits_core_place (f : Waits → Waits) (s : State) : (s.onWaits f).core.place = s.core.place := rfl
@[simp] theorem State.onWaits_core_regs (f : Waits → Waits) (s : State) : (s.onWaits f).core.regs = s.core.regs := rfl
@[simp] theorem State.onWaits_core_walk (f : Waits → Waits) (s : State) : (s.onWaits f).core.walk = s.core.walk := rfl
@[simp] theorem State.onWaits_core_q (f : Waits → Waits) (s : State) : (s.onWaits f).core.q = s.core.q := rfl
@[simp] theorem State.onWaits_core_port (f : Waits → Waits) (s : State) : (s.onWaits f).core.port = s.core.port := rfl
@[simp] theorem State.onWaits_core_mat (f : Waits → Waits) (s : State) : (s.onWaits f).core.mat = s.core.mat := rfl
@[simp] theorem State.onWaits_core_waits (f : Waits → Waits) (s : State) : (s.onWaits f).core.waits = f s.core.waits := rfl

/-! #### State.onCore -/

@[simp] theorem State.onCore_core (f : Core → Core) (s : State) : (s.onCore f).core = f s.core := rfl
@[simp] theorem State.onCore_others (f : Core → Core) (s : State) : (s.onCore f).others = s.others := rfl
@[simp] theorem State.onCore_act (f : Core → Core) (s : State) : (s.onCore f).act = s.act := rfl
@[simp] theorem State.onCore_lane (f : Core → Core) (s : State) : (s.onCore f).lane = s.lane := rfl
@[simp] theorem State.onCore_gcc (f : Core → Core) (s : State) : (s.onCore f).gcc = s.gcc := rfl
@[simp] theorem State.onCore_mem (f : Core → Core) (s : State) : (s.onCore f).mem = s.mem := rfl
@[simp] theorem State.onCore_gran (f : Core → Core) (s : State) : (s.onCore f).gran = s.gran := rfl
@[simp] theorem State.onCore_xr (f : Core → Core) (s : State) : (s.onCore f).xr = s.xr := rfl
@[simp] theorem State.onCore_coll (f : Core → Core) (s : State) : (s.onCore f).coll = s.coll := rfl
@[simp] theorem State.onCore_disp (f : Core → Core) (s : State) : (s.onCore f).disp = s.disp := rfl
@[simp] theorem State.onCore_fab (f : Core → Core) (s : State) : (s.onCore f).fab = s.fab := rfl
@[simp] theorem State.onCore_mgmt (f : Core → Core) (s : State) : (s.onCore f).mgmt = s.mgmt := rfl
@[simp] theorem State.onCore_agenda (f : Core → Core) (s : State) : (s.onCore f).agenda = s.agenda := rfl
@[simp] theorem State.onCore_ticks (f : Core → Core) (s : State) : (s.onCore f).ticks = s.ticks := rfl

/-! #### State.onMem -/

@[simp] theorem State.onMem_core (f : Memory → Memory) (s : State) : (s.onMem f).core = s.core := rfl
@[simp] theorem State.onMem_others (f : Memory → Memory) (s : State) : (s.onMem f).others = s.others := rfl
@[simp] theorem State.onMem_act (f : Memory → Memory) (s : State) : (s.onMem f).act = s.act := rfl
@[simp] theorem State.onMem_lane (f : Memory → Memory) (s : State) : (s.onMem f).lane = s.lane := rfl
@[simp] theorem State.onMem_gcc (f : Memory → Memory) (s : State) : (s.onMem f).gcc = s.gcc := rfl
@[simp] theorem State.onMem_mem (f : Memory → Memory) (s : State) : (s.onMem f).mem = f s.mem := rfl
@[simp] theorem State.onMem_gran (f : Memory → Memory) (s : State) : (s.onMem f).gran = s.gran := rfl
@[simp] theorem State.onMem_xr (f : Memory → Memory) (s : State) : (s.onMem f).xr = s.xr := rfl
@[simp] theorem State.onMem_coll (f : Memory → Memory) (s : State) : (s.onMem f).coll = s.coll := rfl
@[simp] theorem State.onMem_disp (f : Memory → Memory) (s : State) : (s.onMem f).disp = s.disp := rfl
@[simp] theorem State.onMem_fab (f : Memory → Memory) (s : State) : (s.onMem f).fab = s.fab := rfl
@[simp] theorem State.onMem_mgmt (f : Memory → Memory) (s : State) : (s.onMem f).mgmt = s.mgmt := rfl
@[simp] theorem State.onMem_agenda (f : Memory → Memory) (s : State) : (s.onMem f).agenda = s.agenda := rfl
@[simp] theorem State.onMem_ticks (f : Memory → Memory) (s : State) : (s.onMem f).ticks = s.ticks := rfl

/-! #### State.onGran -/

@[simp] theorem State.onGran_core (f : Granary → Granary) (s : State) : (s.onGran f).core = s.core := rfl
@[simp] theorem State.onGran_others (f : Granary → Granary) (s : State) : (s.onGran f).others = s.others := rfl
@[simp] theorem State.onGran_act (f : Granary → Granary) (s : State) : (s.onGran f).act = s.act := rfl
@[simp] theorem State.onGran_lane (f : Granary → Granary) (s : State) : (s.onGran f).lane = s.lane := rfl
@[simp] theorem State.onGran_gcc (f : Granary → Granary) (s : State) : (s.onGran f).gcc = s.gcc := rfl
@[simp] theorem State.onGran_mem (f : Granary → Granary) (s : State) : (s.onGran f).mem = s.mem := rfl
@[simp] theorem State.onGran_gran (f : Granary → Granary) (s : State) : (s.onGran f).gran = f s.gran := rfl
@[simp] theorem State.onGran_xr (f : Granary → Granary) (s : State) : (s.onGran f).xr = s.xr := rfl
@[simp] theorem State.onGran_coll (f : Granary → Granary) (s : State) : (s.onGran f).coll = s.coll := rfl
@[simp] theorem State.onGran_disp (f : Granary → Granary) (s : State) : (s.onGran f).disp = s.disp := rfl
@[simp] theorem State.onGran_fab (f : Granary → Granary) (s : State) : (s.onGran f).fab = s.fab := rfl
@[simp] theorem State.onGran_mgmt (f : Granary → Granary) (s : State) : (s.onGran f).mgmt = s.mgmt := rfl
@[simp] theorem State.onGran_agenda (f : Granary → Granary) (s : State) : (s.onGran f).agenda = s.agenda := rfl
@[simp] theorem State.onGran_ticks (f : Granary → Granary) (s : State) : (s.onGran f).ticks = s.ticks := rfl

/-! #### State.onXr -/

@[simp] theorem State.onXr_core (f : Xroads → Xroads) (s : State) : (s.onXr f).core = s.core := rfl
@[simp] theorem State.onXr_others (f : Xroads → Xroads) (s : State) : (s.onXr f).others = s.others := rfl
@[simp] theorem State.onXr_act (f : Xroads → Xroads) (s : State) : (s.onXr f).act = s.act := rfl
@[simp] theorem State.onXr_lane (f : Xroads → Xroads) (s : State) : (s.onXr f).lane = s.lane := rfl
@[simp] theorem State.onXr_gcc (f : Xroads → Xroads) (s : State) : (s.onXr f).gcc = s.gcc := rfl
@[simp] theorem State.onXr_mem (f : Xroads → Xroads) (s : State) : (s.onXr f).mem = s.mem := rfl
@[simp] theorem State.onXr_gran (f : Xroads → Xroads) (s : State) : (s.onXr f).gran = s.gran := rfl
@[simp] theorem State.onXr_xr (f : Xroads → Xroads) (s : State) : (s.onXr f).xr = f s.xr := rfl
@[simp] theorem State.onXr_coll (f : Xroads → Xroads) (s : State) : (s.onXr f).coll = s.coll := rfl
@[simp] theorem State.onXr_disp (f : Xroads → Xroads) (s : State) : (s.onXr f).disp = s.disp := rfl
@[simp] theorem State.onXr_fab (f : Xroads → Xroads) (s : State) : (s.onXr f).fab = s.fab := rfl
@[simp] theorem State.onXr_mgmt (f : Xroads → Xroads) (s : State) : (s.onXr f).mgmt = s.mgmt := rfl
@[simp] theorem State.onXr_agenda (f : Xroads → Xroads) (s : State) : (s.onXr f).agenda = s.agenda := rfl
@[simp] theorem State.onXr_ticks (f : Xroads → Xroads) (s : State) : (s.onXr f).ticks = s.ticks := rfl

/-! #### State.onColl -/

@[simp] theorem State.onColl_core (f : CollSide → CollSide) (s : State) : (s.onColl f).core = s.core := rfl
@[simp] theorem State.onColl_others (f : CollSide → CollSide) (s : State) : (s.onColl f).others = s.others := rfl
@[simp] theorem State.onColl_act (f : CollSide → CollSide) (s : State) : (s.onColl f).act = s.act := rfl
@[simp] theorem State.onColl_lane (f : CollSide → CollSide) (s : State) : (s.onColl f).lane = s.lane := rfl
@[simp] theorem State.onColl_gcc (f : CollSide → CollSide) (s : State) : (s.onColl f).gcc = s.gcc := rfl
@[simp] theorem State.onColl_mem (f : CollSide → CollSide) (s : State) : (s.onColl f).mem = s.mem := rfl
@[simp] theorem State.onColl_gran (f : CollSide → CollSide) (s : State) : (s.onColl f).gran = s.gran := rfl
@[simp] theorem State.onColl_xr (f : CollSide → CollSide) (s : State) : (s.onColl f).xr = s.xr := rfl
@[simp] theorem State.onColl_coll (f : CollSide → CollSide) (s : State) : (s.onColl f).coll = f s.coll := rfl
@[simp] theorem State.onColl_disp (f : CollSide → CollSide) (s : State) : (s.onColl f).disp = s.disp := rfl
@[simp] theorem State.onColl_fab (f : CollSide → CollSide) (s : State) : (s.onColl f).fab = s.fab := rfl
@[simp] theorem State.onColl_mgmt (f : CollSide → CollSide) (s : State) : (s.onColl f).mgmt = s.mgmt := rfl
@[simp] theorem State.onColl_agenda (f : CollSide → CollSide) (s : State) : (s.onColl f).agenda = s.agenda := rfl
@[simp] theorem State.onColl_ticks (f : CollSide → CollSide) (s : State) : (s.onColl f).ticks = s.ticks := rfl

/-! #### State.onDisp -/

@[simp] theorem State.onDisp_core (f : Dispatch → Dispatch) (s : State) : (s.onDisp f).core = s.core := rfl
@[simp] theorem State.onDisp_others (f : Dispatch → Dispatch) (s : State) : (s.onDisp f).others = s.others := rfl
@[simp] theorem State.onDisp_act (f : Dispatch → Dispatch) (s : State) : (s.onDisp f).act = s.act := rfl
@[simp] theorem State.onDisp_lane (f : Dispatch → Dispatch) (s : State) : (s.onDisp f).lane = s.lane := rfl
@[simp] theorem State.onDisp_gcc (f : Dispatch → Dispatch) (s : State) : (s.onDisp f).gcc = s.gcc := rfl
@[simp] theorem State.onDisp_mem (f : Dispatch → Dispatch) (s : State) : (s.onDisp f).mem = s.mem := rfl
@[simp] theorem State.onDisp_gran (f : Dispatch → Dispatch) (s : State) : (s.onDisp f).gran = s.gran := rfl
@[simp] theorem State.onDisp_xr (f : Dispatch → Dispatch) (s : State) : (s.onDisp f).xr = s.xr := rfl
@[simp] theorem State.onDisp_coll (f : Dispatch → Dispatch) (s : State) : (s.onDisp f).coll = s.coll := rfl
@[simp] theorem State.onDisp_disp (f : Dispatch → Dispatch) (s : State) : (s.onDisp f).disp = f s.disp := rfl
@[simp] theorem State.onDisp_fab (f : Dispatch → Dispatch) (s : State) : (s.onDisp f).fab = s.fab := rfl
@[simp] theorem State.onDisp_mgmt (f : Dispatch → Dispatch) (s : State) : (s.onDisp f).mgmt = s.mgmt := rfl
@[simp] theorem State.onDisp_agenda (f : Dispatch → Dispatch) (s : State) : (s.onDisp f).agenda = s.agenda := rfl
@[simp] theorem State.onDisp_ticks (f : Dispatch → Dispatch) (s : State) : (s.onDisp f).ticks = s.ticks := rfl

/-! #### State.setVf, State.setPart, State.setTask -/

@[simp] theorem State.setVf_core (n : Nat) (f : Vf → Vf) (s : State) : (s.setVf n f).core = s.core := rfl
@[simp] theorem State.setVf_others (n : Nat) (f : Vf → Vf) (s : State) : (s.setVf n f).others = s.others := rfl
@[simp] theorem State.setVf_mem (n : Nat) (f : Vf → Vf) (s : State) : (s.setVf n f).mem = s.mem := rfl
@[simp] theorem State.setVf_gran (n : Nat) (f : Vf → Vf) (s : State) : (s.setVf n f).gran = s.gran := rfl
@[simp] theorem State.setVf_xr (n : Nat) (f : Vf → Vf) (s : State) : (s.setVf n f).xr = s.xr := rfl
@[simp] theorem State.setVf_coll (n : Nat) (f : Vf → Vf) (s : State) : (s.setVf n f).coll = s.coll := rfl
@[simp] theorem State.setVf_fab (n : Nat) (f : Vf → Vf) (s : State) : (s.setVf n f).fab = s.fab := rfl
@[simp] theorem State.setVf_mgmt (n : Nat) (f : Vf → Vf) (s : State) : (s.setVf n f).mgmt = s.mgmt := rfl
@[simp] theorem State.setVf_gcc (n : Nat) (f : Vf → Vf) (s : State) : (s.setVf n f).gcc = s.gcc := rfl
@[simp] theorem State.setVf_agenda (n : Nat) (f : Vf → Vf) (s : State) : (s.setVf n f).agenda = s.agenda := rfl
@[simp] theorem State.setVf_ticks (n : Nat) (f : Vf → Vf) (s : State) : (s.setVf n f).ticks = s.ticks := rfl
@[simp] theorem State.setPart_core (n : Nat) (f : Part → Part) (s : State) : (s.setPart n f).core = s.core := rfl
@[simp] theorem State.setPart_others (n : Nat) (f : Part → Part) (s : State) : (s.setPart n f).others = s.others := rfl
@[simp] theorem State.setPart_mem (n : Nat) (f : Part → Part) (s : State) : (s.setPart n f).mem = s.mem := rfl
@[simp] theorem State.setPart_gran (n : Nat) (f : Part → Part) (s : State) : (s.setPart n f).gran = s.gran := rfl
@[simp] theorem State.setPart_xr (n : Nat) (f : Part → Part) (s : State) : (s.setPart n f).xr = s.xr := rfl
@[simp] theorem State.setPart_coll (n : Nat) (f : Part → Part) (s : State) : (s.setPart n f).coll = s.coll := rfl
@[simp] theorem State.setPart_fab (n : Nat) (f : Part → Part) (s : State) : (s.setPart n f).fab = s.fab := rfl
@[simp] theorem State.setPart_mgmt (n : Nat) (f : Part → Part) (s : State) : (s.setPart n f).mgmt = s.mgmt := rfl
@[simp] theorem State.setPart_gcc (n : Nat) (f : Part → Part) (s : State) : (s.setPart n f).gcc = s.gcc := rfl
@[simp] theorem State.setPart_agenda (n : Nat) (f : Part → Part) (s : State) : (s.setPart n f).agenda = s.agenda := rfl
@[simp] theorem State.setPart_ticks (n : Nat) (f : Part → Part) (s : State) : (s.setPart n f).ticks = s.ticks := rfl
@[simp] theorem State.setTask_core (n : Nat) (f : Task → Task) (s : State) : (s.setTask n f).core = s.core := rfl
@[simp] theorem State.setTask_others (n : Nat) (f : Task → Task) (s : State) : (s.setTask n f).others = s.others := rfl
@[simp] theorem State.setTask_mem (n : Nat) (f : Task → Task) (s : State) : (s.setTask n f).mem = s.mem := rfl
@[simp] theorem State.setTask_gran (n : Nat) (f : Task → Task) (s : State) : (s.setTask n f).gran = s.gran := rfl
@[simp] theorem State.setTask_xr (n : Nat) (f : Task → Task) (s : State) : (s.setTask n f).xr = s.xr := rfl
@[simp] theorem State.setTask_coll (n : Nat) (f : Task → Task) (s : State) : (s.setTask n f).coll = s.coll := rfl
@[simp] theorem State.setTask_fab (n : Nat) (f : Task → Task) (s : State) : (s.setTask n f).fab = s.fab := rfl
@[simp] theorem State.setTask_mgmt (n : Nat) (f : Task → Task) (s : State) : (s.setTask n f).mgmt = s.mgmt := rfl
@[simp] theorem State.setTask_gcc (n : Nat) (f : Task → Task) (s : State) : (s.setTask n f).gcc = s.gcc := rfl
@[simp] theorem State.setTask_agenda (n : Nat) (f : Task → Task) (s : State) : (s.setTask n f).agenda = s.agenda := rfl
@[simp] theorem State.setTask_ticks (n : Nat) (f : Task → Task) (s : State) : (s.setTask n f).ticks = s.ticks := rfl

/-! #### State.onFab -/

@[simp] theorem State.onFab_core (f : Fabric → Fabric) (s : State) : (s.onFab f).core = s.core := rfl
@[simp] theorem State.onFab_others (f : Fabric → Fabric) (s : State) : (s.onFab f).others = s.others := rfl
@[simp] theorem State.onFab_act (f : Fabric → Fabric) (s : State) : (s.onFab f).act = s.act := rfl
@[simp] theorem State.onFab_lane (f : Fabric → Fabric) (s : State) : (s.onFab f).lane = s.lane := rfl
@[simp] theorem State.onFab_gcc (f : Fabric → Fabric) (s : State) : (s.onFab f).gcc = s.gcc := rfl
@[simp] theorem State.onFab_mem (f : Fabric → Fabric) (s : State) : (s.onFab f).mem = s.mem := rfl
@[simp] theorem State.onFab_gran (f : Fabric → Fabric) (s : State) : (s.onFab f).gran = s.gran := rfl
@[simp] theorem State.onFab_xr (f : Fabric → Fabric) (s : State) : (s.onFab f).xr = s.xr := rfl
@[simp] theorem State.onFab_coll (f : Fabric → Fabric) (s : State) : (s.onFab f).coll = s.coll := rfl
@[simp] theorem State.onFab_disp (f : Fabric → Fabric) (s : State) : (s.onFab f).disp = s.disp := rfl
@[simp] theorem State.onFab_fab (f : Fabric → Fabric) (s : State) : (s.onFab f).fab = f s.fab := rfl
@[simp] theorem State.onFab_mgmt (f : Fabric → Fabric) (s : State) : (s.onFab f).mgmt = s.mgmt := rfl
@[simp] theorem State.onFab_agenda (f : Fabric → Fabric) (s : State) : (s.onFab f).agenda = s.agenda := rfl
@[simp] theorem State.onFab_ticks (f : Fabric → Fabric) (s : State) : (s.onFab f).ticks = s.ticks := rfl

/-! #### State.onMgmt -/

@[simp] theorem State.onMgmt_core (f : Mgmt → Mgmt) (s : State) : (s.onMgmt f).core = s.core := rfl
@[simp] theorem State.onMgmt_others (f : Mgmt → Mgmt) (s : State) : (s.onMgmt f).others = s.others := rfl
@[simp] theorem State.onMgmt_act (f : Mgmt → Mgmt) (s : State) : (s.onMgmt f).act = s.act := rfl
@[simp] theorem State.onMgmt_lane (f : Mgmt → Mgmt) (s : State) : (s.onMgmt f).lane = s.lane := rfl
@[simp] theorem State.onMgmt_gcc (f : Mgmt → Mgmt) (s : State) : (s.onMgmt f).gcc = s.gcc := rfl
@[simp] theorem State.onMgmt_mem (f : Mgmt → Mgmt) (s : State) : (s.onMgmt f).mem = s.mem := rfl
@[simp] theorem State.onMgmt_gran (f : Mgmt → Mgmt) (s : State) : (s.onMgmt f).gran = s.gran := rfl
@[simp] theorem State.onMgmt_xr (f : Mgmt → Mgmt) (s : State) : (s.onMgmt f).xr = s.xr := rfl
@[simp] theorem State.onMgmt_coll (f : Mgmt → Mgmt) (s : State) : (s.onMgmt f).coll = s.coll := rfl
@[simp] theorem State.onMgmt_disp (f : Mgmt → Mgmt) (s : State) : (s.onMgmt f).disp = s.disp := rfl
@[simp] theorem State.onMgmt_fab (f : Mgmt → Mgmt) (s : State) : (s.onMgmt f).fab = s.fab := rfl
@[simp] theorem State.onMgmt_mgmt (f : Mgmt → Mgmt) (s : State) : (s.onMgmt f).mgmt = f s.mgmt := rfl
@[simp] theorem State.onMgmt_agenda (f : Mgmt → Mgmt) (s : State) : (s.onMgmt f).agenda = s.agenda := rfl
@[simp] theorem State.onMgmt_ticks (f : Mgmt → Mgmt) (s : State) : (s.onMgmt f).ticks = s.ticks := rfl

/-! #### Core updates -/

@[simp] theorem Core.onEng_place (e : Engine) (f : Eng → Eng) (c : Core) : (c.onEng e f).place = c.place := rfl
@[simp] theorem Core.onEng_regs (e : Engine) (f : Eng → Eng) (c : Core) : (c.onEng e f).regs = c.regs := rfl
@[simp] theorem Core.onEng_q (e : Engine) (f : Eng → Eng) (c : Core) : (c.onEng e f).q = c.q := rfl
@[simp] theorem Core.onEng_port (e : Engine) (f : Eng → Eng) (c : Core) : (c.onEng e f).port = c.port := rfl
@[simp] theorem Core.onEng_mat (e : Engine) (f : Eng → Eng) (c : Core) : (c.onEng e f).mat = c.mat := rfl
@[simp] theorem Core.onEng_waits (e : Engine) (f : Eng → Eng) (c : Core) : (c.onEng e f).waits = c.waits := rfl
@[simp] theorem Core.addTok_place (a b : Engine) (f : Nat → Nat) (c : Core) : (c.addTok a b f).place = c.place := rfl
@[simp] theorem Core.addTok_regs (a b : Engine) (f : Nat → Nat) (c : Core) : (c.addTok a b f).regs = c.regs := rfl
@[simp] theorem Core.addTok_q (a b : Engine) (f : Nat → Nat) (c : Core) : (c.addTok a b f).q = c.q := rfl
@[simp] theorem Core.addTok_port (a b : Engine) (f : Nat → Nat) (c : Core) : (c.addTok a b f).port = c.port := rfl
@[simp] theorem Core.addTok_mat (a b : Engine) (f : Nat → Nat) (c : Core) : (c.addTok a b f).mat = c.mat := rfl
@[simp] theorem Core.addTok_waits (a b : Engine) (f : Nat → Nat) (c : Core) : (c.addTok a b f).waits = c.waits := rfl
@[simp] theorem Core.wake_place (c : Core) : (c.wake).place = c.place := rfl
@[simp] theorem Core.wake_regs (c : Core) : (c.wake).regs = c.regs := rfl
@[simp] theorem Core.wake_q (c : Core) : (c.wake).q = c.q := rfl
@[simp] theorem Core.wake_port (c : Core) : (c.wake).port = c.port := rfl
@[simp] theorem Core.wake_mat (c : Core) : (c.wake).mat = c.mat := rfl
@[simp] theorem Core.wake_waits (c : Core) : (c.wake).waits = c.waits := rfl
@[simp] theorem Core.prunePoints_place (c : Core) : (c.prunePoints).place = c.place := rfl
@[simp] theorem Core.prunePoints_regs (c : Core) : (c.prunePoints).regs = c.regs := rfl
@[simp] theorem Core.prunePoints_q (c : Core) : (c.prunePoints).q = c.q := rfl
@[simp] theorem Core.prunePoints_port (c : Core) : (c.prunePoints).port = c.port := rfl
@[simp] theorem Core.prunePoints_mat (c : Core) : (c.prunePoints).mat = c.mat := rfl
@[simp] theorem Core.prunePoints_waits (c : Core) : (c.prunePoints).waits = c.waits := rfl
@[simp] theorem Core.setK_place (e : Engine) (r : KR) (v : Tagged W32) (c : Core) : (c.setK e r v).place = c.place := rfl
@[simp] theorem Core.setK_walk (e : Engine) (r : KR) (v : Tagged W32) (c : Core) : (c.setK e r v).walk = c.walk := rfl
@[simp] theorem Core.setK_q (e : Engine) (r : KR) (v : Tagged W32) (c : Core) : (c.setK e r v).q = c.q := rfl
@[simp] theorem Core.setK_port (e : Engine) (r : KR) (v : Tagged W32) (c : Core) : (c.setK e r v).port = c.port := rfl
@[simp] theorem Core.setK_mat (e : Engine) (r : KR) (v : Tagged W32) (c : Core) : (c.setK e r v).mat = c.mat := rfl
@[simp] theorem Core.setK_waits (e : Engine) (r : KR) (v : Tagged W32) (c : Core) : (c.setK e r v).waits = c.waits := rfl
@[simp] theorem Core.setJournal_place (e : Engine) (l : List JEntry) (c : Core) : (c.setJournal e l).place = c.place := rfl
@[simp] theorem Core.setJournal_walk (e : Engine) (l : List JEntry) (c : Core) : (c.setJournal e l).walk = c.walk := rfl
@[simp] theorem Core.setJournal_q (e : Engine) (l : List JEntry) (c : Core) : (c.setJournal e l).q = c.q := rfl
@[simp] theorem Core.setJournal_port (e : Engine) (l : List JEntry) (c : Core) : (c.setJournal e l).port = c.port := rfl
@[simp] theorem Core.setJournal_mat (e : Engine) (l : List JEntry) (c : Core) : (c.setJournal e l).mat = c.mat := rfl
@[simp] theorem Core.setJournal_waits (e : Engine) (l : List JEntry) (c : Core) : (c.setJournal e l).waits = c.waits := rfl
@[simp] theorem Core.setFlags_place (f : NumFlags) (c : Core) : (c.setFlags f).place = c.place := rfl
@[simp] theorem Core.setFlags_walk (f : NumFlags) (c : Core) : (c.setFlags f).walk = c.walk := rfl
@[simp] theorem Core.setFlags_q (f : NumFlags) (c : Core) : (c.setFlags f).q = c.q := rfl
@[simp] theorem Core.setFlags_port (f : NumFlags) (c : Core) : (c.setFlags f).port = c.port := rfl
@[simp] theorem Core.setFlags_mat (f : NumFlags) (c : Core) : (c.setFlags f).mat = c.mat := rfl
@[simp] theorem Core.setFlags_waits (f : NumFlags) (c : Core) : (c.setFlags f).waits = c.waits := rfl
@[simp] theorem Core.issueTag_place (t : Ctag) (c : Core) : (c.issueTag t).place = c.place := rfl
@[simp] theorem Core.issueTag_walk (t : Ctag) (c : Core) : (c.issueTag t).walk = c.walk := rfl
@[simp] theorem Core.issueTag_q (t : Ctag) (c : Core) : (c.issueTag t).q = c.q := rfl
@[simp] theorem Core.issueTag_port (t : Ctag) (c : Core) : (c.issueTag t).port = c.port := rfl
@[simp] theorem Core.issueTag_mat (t : Ctag) (c : Core) : (c.issueTag t).mat = c.mat := rfl
@[simp] theorem Core.issueTag_waits (t : Ctag) (c : Core) : (c.issueTag t).waits = c.waits := rfl
@[simp] theorem Core.completeTag_place (t : Ctag) (c : Core) : (c.completeTag t).place = c.place := rfl
@[simp] theorem Core.completeTag_walk (t : Ctag) (c : Core) : (c.completeTag t).walk = c.walk := rfl
@[simp] theorem Core.completeTag_q (t : Ctag) (c : Core) : (c.completeTag t).q = c.q := rfl
@[simp] theorem Core.completeTag_port (t : Ctag) (c : Core) : (c.completeTag t).port = c.port := rfl
@[simp] theorem Core.completeTag_mat (t : Ctag) (c : Core) : (c.completeTag t).mat = c.mat := rfl
@[simp] theorem Core.completeTag_waits (t : Ctag) (c : Core) : (c.completeTag t).waits = c.waits := rfl
@[simp] theorem Core.setRow_place (r : Nat) (d : Row) (m : Mark) (c : Core) : (c.setRow r d m).place = c.place := rfl
@[simp] theorem Core.setRow_regs (r : Nat) (d : Row) (m : Mark) (c : Core) : (c.setRow r d m).regs = c.regs := rfl
@[simp] theorem Core.setRow_walk (r : Nat) (d : Row) (m : Mark) (c : Core) : (c.setRow r d m).walk = c.walk := rfl
@[simp] theorem Core.setRow_q (r : Nat) (d : Row) (m : Mark) (c : Core) : (c.setRow r d m).q = c.q := rfl
@[simp] theorem Core.setRow_mat (r : Nat) (d : Row) (m : Mark) (c : Core) : (c.setRow r d m).mat = c.mat := rfl
@[simp] theorem Core.setRow_waits (r : Nat) (d : Row) (m : Mark) (c : Core) : (c.setRow r d m).waits = c.waits := rfl
@[simp] theorem Core.pushLq_place (q : Fin 4) (d : Row) (m : Mark) (c : Core) : (c.pushLq q d m).place = c.place := rfl
@[simp] theorem Core.pushLq_regs (q : Fin 4) (d : Row) (m : Mark) (c : Core) : (c.pushLq q d m).regs = c.regs := rfl
@[simp] theorem Core.pushLq_walk (q : Fin 4) (d : Row) (m : Mark) (c : Core) : (c.pushLq q d m).walk = c.walk := rfl
@[simp] theorem Core.pushLq_port (q : Fin 4) (d : Row) (m : Mark) (c : Core) : (c.pushLq q d m).port = c.port := rfl
@[simp] theorem Core.pushLq_mat (q : Fin 4) (d : Row) (m : Mark) (c : Core) : (c.pushLq q d m).mat = c.mat := rfl
@[simp] theorem Core.pushLq_waits (q : Fin 4) (d : Row) (m : Mark) (c : Core) : (c.pushLq q d m).waits = c.waits := rfl
@[simp] theorem Core.setSq_place (q : Fin 2) (l : List QEntry) (c : Core) : (c.setSq q l).place = c.place := rfl
@[simp] theorem Core.setSq_regs (q : Fin 2) (l : List QEntry) (c : Core) : (c.setSq q l).regs = c.regs := rfl
@[simp] theorem Core.setSq_walk (q : Fin 2) (l : List QEntry) (c : Core) : (c.setSq q l).walk = c.walk := rfl
@[simp] theorem Core.setSq_port (q : Fin 2) (l : List QEntry) (c : Core) : (c.setSq q l).port = c.port := rfl
@[simp] theorem Core.setSq_mat (q : Fin 2) (l : List QEntry) (c : Core) : (c.setSq q l).mat = c.mat := rfl
@[simp] theorem Core.setSq_waits (q : Fin 2) (l : List QEntry) (c : Core) : (c.setSq q l).waits = c.waits := rfl
@[simp] theorem Core.setLq_place (q : Fin 4) (l : List QEntry) (c : Core) : (c.setLq q l).place = c.place := rfl
@[simp] theorem Core.setLq_regs (q : Fin 4) (l : List QEntry) (c : Core) : (c.setLq q l).regs = c.regs := rfl
@[simp] theorem Core.setLq_walk (q : Fin 4) (l : List QEntry) (c : Core) : (c.setLq q l).walk = c.walk := rfl
@[simp] theorem Core.setLq_port (q : Fin 4) (l : List QEntry) (c : Core) : (c.setLq q l).port = c.port := rfl
@[simp] theorem Core.setLq_mat (q : Fin 4) (l : List QEntry) (c : Core) : (c.setLq q l).mat = c.mat := rfl
@[simp] theorem Core.setLq_waits (q : Fin 4) (l : List QEntry) (c : Core) : (c.setLq q l).waits = c.waits := rfl

end Sys2Proof.Machine
end

