-- ==== Sys2Proof/Laws/Memory.lean ====
section
/-! SUPPORT. Memory: every operation on it keeps its canonical form, and what a write leaves to be read. -/

namespace Sys2Proof.Machine

/-! ### The canonical form -/

theorem Memory.wf_iff {m : Memory} :
    Memory.wf m = true ↔ Sparse.wf 0 m.bytes = true ∧ Sparse.wf LineMeta.init m.lines = true ∧ Sparse.wf Mark.empty m.marks = true ∧
      Sparse.wf 0 m.worlds = true := by
  simp [Memory.wf, and_assoc]

theorem Memory.wf_setLine {l : Nat} {x : LineMeta} {m : Memory} (h : Memory.wf m = true) : Memory.wf (m.setLine l x) = true := by
  rw [Memory.wf_iff] at *; exact ⟨h.1, Sparse.set_wf h.2.1, h.2.2⟩
theorem Memory.wf_setBytes {a : Nat} {bs : List Byte} {m : Memory} (h : Memory.wf m = true) : Memory.wf (m.setBytes a bs) = true := by
  rw [Memory.wf_iff] at *; exact ⟨Sparse.setMany_wf h.1, h.2.1, h.2.2.1, h.2.2.2⟩
theorem Memory.wf_setWorld {w a n : Nat} {m : Memory} (h : Memory.wf m = true) : Memory.wf (m.setWorld w a n) = true := by
  unfold Memory.setWorld
  split
  · exact h
  · rw [Memory.wf_iff] at *; exact ⟨h.1, h.2.1, h.2.2.1, Sparse.setMany_wf h.2.2.2⟩
@[simp] theorem Memory.setWorld_bytes (w a n : Nat) (m : Memory) : (m.setWorld w a n).bytes = m.bytes := by unfold Memory.setWorld; split <;> rfl
@[simp] theorem Memory.setWorld_lines (w a n : Nat) (m : Memory) : (m.setWorld w a n).lines = m.lines := by unfold Memory.setWorld; split <;> rfl
theorem Memory.wf_poison {p : List Nat} {m : Memory} (h : Memory.wf m = true) : Memory.wf { m with poison := p } = true := h
theorem wf_setPageMark {f : Nat} {x : Mark} {s : State} (h : Memory.wf s.mem = true) : Memory.wf (s.setPageMark f x).mem = true := by
  rw [Memory.wf_iff] at *; exact ⟨h.1, h.2.1, Sparse.set_wf h.2.2.1, h.2.2.2⟩
theorem wf_unionPageMark {f : Nat} {x : Mark} {s : State} (h : Memory.wf s.mem = true) : Memory.wf (s.unionPageMark f x).mem = true :=
  wf_setPageMark h
theorem wf_poke {a : Nat} {bs : List Byte} {s : State} (h : Memory.wf s.mem = true) : Memory.wf (s.poke a bs).mem = true :=
  Memory.wf_setBytes h

@[simp] theorem State.hitMonitors_mem (l : Nat) (s : State) : (s.hitMonitors l).mem = s.mem := rfl
@[simp] theorem State.releaseBar_mem (p : Nat → Bool) (n : Nat) (s : State) : (s.releaseBar p n).mem = s.mem := rfl
@[simp] theorem State.hitMonitors_disp (l : Nat) (s : State) : (s.hitMonitors l).disp = s.disp := rfl
@[simp] theorem State.releaseBar_disp (p : Nat → Bool) (n : Nat) (s : State) : (s.releaseBar p n).disp = s.disp := rfl

theorem wf_touch {p l : Nat} {s : State} (h : Memory.wf s.mem = true) : Memory.wf (s.touch p l).mem = true := by
  unfold State.touch
  dsimp only
  split
  · exact h
  · split
    · exact h
    · simp only [State.onMem]
      split
      · exact Memory.wf_setLine (Memory.wf_setLine h)
      · exact Memory.wf_setLine h
theorem wf_touchLines {p : Nat} {ls : List Nat} {s : State} (h : Memory.wf s.mem = true) : Memory.wf (s.touchLines p ls).mem = true := by
  unfold State.touchLines
  induction ls generalizing s with
  | nil => exact h
  | cons l ls ih => exact ih (wf_touch h)
theorem wf_foldl {α : Type} {f : State → α → State} (hf : ∀ s a, Memory.wf s.mem = true → Memory.wf (f s a).mem = true) :
    ∀ (l : List α) {s : State}, Memory.wf s.mem = true → Memory.wf (l.foldl f s).mem = true
  | [], _, h => h
  | a :: l, s, h => wf_foldl hf l (hf s a h)
theorem wf_dirtyLine {l : Nat} {s : State} (h : Memory.wf s.mem = true) : Memory.wf (s.dirtyLine l).mem = true := by
  simp only [State.dirtyLine, State.onMem]
  split
  · exact Memory.wf_setLine h
  · exact h
theorem wf_afterRead {p a n : Nat} {s : State} (h : Memory.wf s.mem = true) : Memory.wf (s.afterRead p a n).mem = true := wf_touchLines h

theorem wf_actAt {p a : Nat} {bs : List Byte} {s : State} (h : Memory.wf s.mem = true) : Memory.wf (s.actAt p a bs).mem = true := by
  unfold State.actAt
  exact wf_poke (wf_foldl (fun _ _ => wf_dirtyLine) _ (wf_afterRead h))

theorem wf_writeLine {p a : Nat} {g : Gen} {k : WriteKind} {bs : List Byte} {s : State} (h : Memory.wf s.mem = true) :
    Memory.wf (s.writeLine p g k a bs).mem = true := by
  have h1 : Memory.wf (s.touch p (lineOf a)).mem = true := wf_touch h
  have h2 : ∀ (live : Bool) (x : LineMeta) (w n : Nat) (q : List Nat), Memory.wf { Memory.setLine (lineOf a) x ((Memory.setBytes a bs
      (if live then (s.touch p (lineOf a)).mem
       else ((s.touch p (lineOf a)).mem.setBytes (lineOf a * 128) (List.replicate 128 0)).setWorld w (lineOf a * 128) 128)).setWorld w a n) with
        poison := q } = true := by
    intro live x w n q
    refine Memory.wf_poison (Memory.wf_setLine (Memory.wf_setWorld (Memory.wf_setBytes ?_)))
    split
    · exact h1
    · exact Memory.wf_setWorld (Memory.wf_setBytes h1)
  unfold State.writeLine
  cases k <;> exact h2 _ _ _ _ _
theorem wf_writeLines {p : Nat} {g : Gen} {k : WriteKind} : ∀ {n a : Nat} {bs : List Byte} {s : State}, Memory.wf s.mem = true →
    Memory.wf (s.writeLines p g k n a bs).mem = true
  | 0, _, _, _, h => h
  | n + 1, a, bs, s, h => by
    unfold State.writeLines
    split
    · exact h
    · exact wf_writeLines (wf_writeLine h)
theorem wf_writeMem {p a : Nat} {g : Gen} {k : WriteKind} {bs : List Byte} {s : State} (h : Memory.wf s.mem = true) :
    Memory.wf (s.writeMem p g k a bs).mem = true := by
  unfold State.writeMem
  split
  · exact wf_writeLines h
  · exact h
theorem wf_writeData {p a f : Nat} {g : Gen} {k : WriteKind} {bs : List Byte} {m : Mark} {s : State} (h : Memory.wf s.mem = true) :
    Memory.wf (s.writeData p g k a f bs m).mem = true := by
  unfold State.writeData
  split
  · refine wf_writeMem ?_
    exact wf_unionPageMark h
  · exact h
theorem State.atCore_mem (c : CoreId) (f : Core → Core) (s : State) : (s.atCore c f).mem = s.mem := by
  unfold State.atCore; split <;> rfl
theorem wf_writeLoc {p : Nat} {g : Gen} {l : Loc} {bs : List Byte} {m : Mark} {s : State} (h : Memory.wf s.mem = true) :
    Memory.wf (s.writeLoc p g l bs m).mem = true := by
  unfold State.writeLoc
  split
  · exact wf_writeData h
  · split
    · rw [State.atCore_mem]; exact h
    · exact h
theorem wf_setDirty {vf : Nat} {t : S2} {s : State} (h : Memory.wf s.mem = true) : Memory.wf (s.setDirty vf t).mem = true := by
  unfold State.setDirty
  dsimp only
  split
  · exact h
  · split
    · split
      · rw [State.setVf_mem, State.onPort_mem]; exact wf_actAt h
      · rw [State.setVf_mem]
        refine wf_actAt ?_
        rw [State.onPort_mem]
        exact wf_actAt h
    · rw [State.onPort_mem]; exact wf_actAt h

theorem wf_writeBack {l : Nat} {s : State} (h : Memory.wf s.mem = true) : Memory.wf (s.writeBack l).mem = true := Memory.wf_setLine h
theorem wf_invalidate {l : Nat} {s : State} (h : Memory.wf s.mem = true) : Memory.wf (s.invalidate l).mem = true := by
  simp only [State.invalidate, State.onMem]
  split
  · exact Memory.wf_setLine (Memory.wf_setBytes h)
  · exact Memory.wf_setLine h
theorem wf_clearWay {sl co w : Nat} {s : State} (h : Memory.wf s.mem = true) : Memory.wf (s.clearWay sl co w).mem = true := by
  rw [Memory.wf_iff] at h
  unfold State.clearWay
  refine wf_setPageMark ?_
  rw [Memory.wf_iff]
  exact ⟨Sparse.filter_wf h.1, Sparse.filter_wf h.2.1, h.2.2.1, Sparse.filter_wf h.2.2.2⟩

/-! ### Reads after writes -/

theorem Memory.byte_setBytes {m : Memory} {a x : Nat} {bs : List Byte} (h : Memory.wf m = true) :
    (m.setBytes a bs).byte x = if a ≤ x ∧ x < a + bs.length then bs.getD (x - a) 0 else m.byte x :=
  Sparse.get_setMany (Memory.wf_iff.1 h).1
theorem Memory.line_setLine {m : Memory} {l n : Nat} {x : LineMeta} (h : Memory.wf m = true) :
    (m.setLine l x).line n = if n = l then x else m.line n := by
  split
  · subst_vars; exact Sparse.get_set_same (Memory.wf_iff.1 h).2.1
  · exact Sparse.get_set_other (Memory.wf_iff.1 h).2.1 ‹_›
@[simp] theorem Memory.byte_setLine (m : Memory) (l a : Nat) (x : LineMeta) : (m.setLine l x).byte a = m.byte a := rfl
@[simp] theorem Memory.line_setBytes (m : Memory) (l a : Nat) (bs : List Byte) : (m.setBytes a bs).line l = m.line l := rfl

/-- An access to a line leaves what every byte is and who wrote every line; of the partitions, only a count of bypasses may rise. -/
theorem State.touch_spec {p l : Nat} {s : State} (h : Memory.wf s.mem = true) :
    (∀ a, (s.touch p l).mem.byte a = s.mem.byte a) ∧
    (∀ n, ((s.touch p l).mem.line n).part = (s.mem.line n).part ∧ ((s.touch p l).mem.line n).gen = (s.mem.line n).gen) ∧
    ∀ q, ((s.touch p l).partAt q).gen = (s.partAt q).gen := by
  unfold State.touch
  dsimp only
  split
  · exact ⟨fun _ => rfl, fun _ => ⟨rfl, rfl⟩, fun _ => rfl⟩
  · split
    · refine ⟨fun _ => rfl, fun _ => ⟨rfl, rfl⟩, fun q => ?_⟩
      simp only [State.partAt, State.setPart, State.onDisp]
      by_cases hq : q = p
      · subst hq
        by_cases hb : q < 48 <;> simp [hb, Vector.getElem?_setIfInBounds]
      · simp [Vector.getElem?_setIfInBounds, Ne.symm hq]
    · simp only [State.onMem]
      split
      · rename_i o _
        refine ⟨fun _ => rfl, fun n => ?_, fun _ => rfl⟩
        rw [Memory.line_setLine (Memory.wf_setLine h), Memory.line_setLine h, Memory.line_setLine h]
        by_cases h1 : n = l <;> by_cases h2 : n = o <;> by_cases h3 : l = o <;> simp_all [LineMeta.evict]
      · refine ⟨fun _ => rfl, fun n => ?_, fun _ => rfl⟩
        rw [Memory.line_setLine h]
        by_cases h1 : n = l <;> simp [h1]

theorem State.readByte_touch {p l a : Nat} {s : State} (h : Memory.wf s.mem = true) : (s.touch p l).readByte a = s.readByte a := by
  obtain ⟨h1, h2, h3⟩ := State.touch_spec (p := p) (l := l) h
  have hl : (s.touch p l).lineLive (lineOf a) = s.lineLive (lineOf a) := by
    unfold State.lineLive
    rw [(h2 _).1, (h2 _).2]
    split
    · rfl
    · rw [h3]
  unfold State.readByte
  rw [hl, h1]

/-- What memory reads as once a line has been written whole or in part: a line of a stale generation reads as zero but where it is written. -/
theorem State.readByte_of_lineWritten {a x : Nat} {bs : List Byte} {u t : State} {y : LineMeta} {p : Nat} (zeros : List Byte) (hz : zeros = List.replicate 128 0)
    (hw : Memory.wf u.mem = true) (hl : a % 128 + bs.length ≤ 128) (ht : t.disp = u.disp) (hp : y.part = some p) (hg : y.gen = (u.partAt p).gen)
    (hbytes : t.mem.bytes = (Memory.setBytes a bs (if u.lineLive (lineOf a) then u.mem else u.mem.setBytes (lineOf a * 128) zeros)).bytes)
    (hlines : t.mem.lines = (u.mem.setLine (lineOf a) y).lines) :
    t.readByte x = if a ≤ x ∧ x < a + bs.length then bs.getD (x - a) 0 else u.readByte x := by
  have hpart : ∀ q, t.partAt q = u.partAt q := fun q => by simp only [State.partAt, ht]
  have hline : ∀ n, t.mem.line n = if n = lineOf a then y else u.mem.line n := fun n => by
    rw [← Memory.line_setLine hw]; simp only [Memory.line, hlines]
  have hbyte : t.mem.byte x = if a ≤ x ∧ x < a + bs.length then bs.getD (x - a) 0
      else if u.lineLive (lineOf a) = false ∧ lineOf x = lineOf a then 0 else u.mem.byte x := by
    have hb : t.mem.byte x = (Memory.setBytes a bs (if u.lineLive (lineOf a) then u.mem else u.mem.setBytes (lineOf a * 128) zeros)).byte x := by
      simp only [Memory.byte, hbytes]
    rw [hb, Memory.byte_setBytes (by split; exacts [hw, Memory.wf_setBytes hw])]
    split
    · rfl
    · cases hc : u.lineLive (lineOf a)
      · simp only [Bool.false_eq_true, if_false, true_and]
        rw [Memory.byte_setBytes hw]
        have hlen : zeros.length = 128 := by rw [hz, List.length_replicate]
        rw [hlen]
        by_cases hx : lineOf x = lineOf a
        · have : lineOf a * 128 ≤ x ∧ x < lineOf a * 128 + 128 := by
            simp only [lineOf] at hx ⊢; omega
          rw [if_pos this, if_pos hx, hz, List.getD_eq_getElem?_getD, List.getElem?_replicate]
          split <;> rfl
        · have : ¬(lineOf a * 128 ≤ x ∧ x < lineOf a * 128 + 128) := by
            simp only [lineOf] at hx ⊢; omega
          rw [if_neg this, if_neg hx]
      · simp
  unfold State.readByte
  by_cases hx : lineOf x = lineOf a
  · have hlive : t.lineLive (lineOf x) = true := by
      unfold State.lineLive
      rw [hline, if_pos hx, hp]
      simp only [hpart, hg, beq_self_eq_true]
    rw [hlive, hbyte, hx]
    simp only [if_true, and_true]
    split
    · rfl
    · cases u.lineLive (lineOf a) <;> simp
  · have hout : ¬(a ≤ x ∧ x < a + bs.length) := by
      simp only [lineOf] at hx; omega
    have hlive : t.lineLive (lineOf x) = u.lineLive (lineOf x) := by
      unfold State.lineLive
      rw [hline, if_neg hx]
      split
      · rfl
      · rw [hpart]
    have hne : ¬(u.lineLive (lineOf a) = false ∧ lineOf x = lineOf a) := fun q => hx q.2
    rw [hlive, hbyte, if_neg hout, if_neg hout, if_neg hne]

/-- A write within one line, in the partition's current generation: its bytes read as written, every other byte as before. -/
theorem State.readByte_writeLine {p a x : Nat} {g : Gen} {k : WriteKind} {bs : List Byte} {s : State} (h : Memory.wf s.mem = true)
    (hg : g = (s.partAt p).gen) (hl : a % 128 + bs.length ≤ 128) :
    (s.writeLine p g k a bs).readByte x = if a ≤ x ∧ x < a + bs.length then bs.getD (x - a) 0 else s.readByte x := by
  rw [← State.readByte_touch (p := p) (l := lineOf a) (a := x) h]
  have hw := wf_touch (p := p) (l := lineOf a) h
  have hp := (State.touch_spec (p := p) (l := lineOf a) h).2.2 p
  rw [← hp] at hg
  unfold State.writeLine
  dsimp only
  generalize State.touch p (lineOf a) s = u at *
  generalize hz : List.replicate 128 (0 : Byte) = z
  have hlines : ∀ (y : LineMeta) (w n : Nat), (Memory.setLine (lineOf a) y ((Memory.setBytes a bs
      (if u.lineLive (lineOf a) then u.mem else (u.mem.setBytes (lineOf a * 128) z).setWorld w (lineOf a * 128) 128)).setWorld w a n)).lines =
        (u.mem.setLine (lineOf a) y).lines := by
    intro y w n
    cases u.lineLive (lineOf a) <;> simp [Memory.setLine, Memory.setBytes]
  have hbytes : ∀ w n : Nat, ((Memory.setBytes a bs
      (if u.lineLive (lineOf a) then u.mem else (u.mem.setBytes (lineOf a * 128) z).setWorld w (lineOf a * 128) 128)).setWorld w a n).bytes =
        (Memory.setBytes a bs (if u.lineLive (lineOf a) then u.mem else u.mem.setBytes (lineOf a * 128) z)).bytes := by
    intro w n
    cases u.lineLive (lineOf a) <;> simp [Memory.setBytes]
  split
  · exact State.readByte_of_lineWritten z hz.symm hw hl rfl rfl hg (hbytes _ _) (hlines _ _ _)
  · exact State.readByte_of_lineWritten z hz.symm hw hl rfl rfl hg (hbytes _ _) (hlines _ _ _)

theorem State.gen_writeLine {p a q : Nat} {g : Gen} {k : WriteKind} {bs : List Byte} {s : State} (h : Memory.wf s.mem = true) :
    ((s.writeLine p g k a bs).partAt q).gen = (s.partAt q).gen := by
  rw [← (State.touch_spec (p := p) (l := lineOf a) h).2.2 q]
  unfold State.writeLine
  cases k <;> rfl

theorem State.readByte_writeLines {p x : Nat} {g : Gen} {k : WriteKind} : ∀ {n a : Nat} {bs : List Byte} {s : State}, Memory.wf s.mem = true →
    g = (s.partAt p).gen → a % 128 + bs.length ≤ 128 * n →
    (s.writeLines p g k n a bs).readByte x = if a ≤ x ∧ x < a + bs.length then bs.getD (x - a) 0 else s.readByte x
  | 0, a, bs, s, _, _, hn => by
    have : bs = [] := List.eq_nil_of_length_eq_zero (by omega)
    subst this
    simp only [State.writeLines, List.length_nil]
    rw [if_neg (by omega)]
  | n + 1, a, bs, s, h, hg, hn => by
    unfold State.writeLines
    split
    · subst_vars; simp only [List.length_nil]; rw [if_neg (by omega)]
    · rename_i hne
      simp only
      have hm : a % 128 < 128 := Nat.mod_lt _ (by decide)
      have hpos : 0 < bs.length := List.length_pos_of_ne_nil hne
      rw [State.readByte_writeLines (wf_writeLine h) (by rw [State.gen_writeLine h]; exact hg) (by
          simp only [List.length_drop]; omega), State.readByte_writeLine h hg (by simp only [List.length_take]; omega)]
      simp only [List.length_drop, List.length_take]
      by_cases h1 : a + (128 - a % 128) ≤ x ∧ x < a + (128 - a % 128) + (bs.length - (128 - a % 128))
      · rw [if_pos h1, if_pos (by omega), List.getD_eq_getElem?_getD, List.getD_eq_getElem?_getD, List.getElem?_drop]
        congr 2; omega
      · rw [if_neg h1]
        by_cases h2 : a ≤ x ∧ x < a + min (128 - a % 128) bs.length
        · rw [if_pos h2, if_pos (by omega), List.getD_eq_getElem?_getD, List.getD_eq_getElem?_getD, List.getElem?_take, if_pos (by omega)]
        · rw [if_neg h2, if_neg (by omega)]

/-- A write applied at its home, in the partition's current generation: its bytes read as written, every other byte as before. -/
theorem State.readByte_writeMem {p a x : Nat} {g : Gen} {k : WriteKind} {bs : List Byte} {s : State} (h : Memory.wf s.mem = true)
    (hg : g = (s.partAt p).gen) :
    (s.writeMem p g k a bs).readByte x = if a ≤ x ∧ x < a + bs.length then bs.getD (x - a) 0 else s.readByte x := by
  unfold State.writeMem
  rw [if_pos hg]
  exact State.readByte_writeLines h hg (by have := Nat.mod_lt a (show 0 < 128 by decide); omega)
/-- The same of data written with its earmark; one of an older generation leaves every byte as it was. -/
theorem State.readByte_writeData {p a f x : Nat} {g : Gen} {k : WriteKind} {bs : List Byte} {m : Mark} {s : State} (h : Memory.wf s.mem = true)
    (hg : g = (s.partAt p).gen) :
    (s.writeData p g k a f bs m).readByte x = if a ≤ x ∧ x < a + bs.length then bs.getD (x - a) 0 else s.readByte x := by
  unfold State.writeData
  rw [if_pos hg, State.readByte_writeMem (wf_unionPageMark h) hg]
  rfl
theorem State.writeData_stale {p a f : Nat} {g : Gen} {k : WriteKind} {bs : List Byte} {m : Mark} {s : State} (hg : g ≠ (s.partAt p).gen) :
    s.writeData p g k a f bs m = s := if_neg hg

end Sys2Proof.Machine
end

