-- ==== Sys2Proof/Laws/Walk.lean ====
section
/-! SUPPORT. What passing a word does, said once: a word whose body completes leaves the body's state with the word passed. -/

namespace Sys2Proof.Machine

theorem Engine.ix_inj {a b : Engine} (h : a.ix = b.ix) : a = b := by
  cases a <;> cases b <;> first | rfl | (exact absurd h (by decide))

theorem Core.eng_onEng (e f : Engine) (g : Eng → Eng) (c : Core) :
    (c.onEng e g).eng f = if f = e then g (c.eng e) else c.eng f := by
  by_cases h : f = e
  · subst h; simp [Core.onEng, Core.eng]
  · have : e.ix.val ≠ f.ix.val := fun hh => h (Engine.ix_inj (Fin.ext hh)).symm
    simp [Core.onEng, Core.eng, h, this]

theorem tokIx_inj {a b c d : Engine} (h : tokIx a b = tokIx c d) : a = c ∧ b = d := by
  cases a <;> cases b <;> cases c <;> cases d <;> first | exact ⟨rfl, rfl⟩ | (exact absurd h (by decide))

theorem Core.tok_addTok (a b c d : Engine) (f : Nat → Nat) (k : Core) :
    (k.addTok a b f).tok c d = if c = a ∧ d = b then f (k.tok a b) else k.tok c d := by
  by_cases h : c = a ∧ d = b
  · obtain ⟨rfl, rfl⟩ := h; simp [Core.addTok, Core.tok]
  · have : (tokIx a b).val ≠ (tokIx c d).val := fun hh => h (by
      have := tokIx_inj (Fin.ext hh); exact ⟨this.1.symm, this.2.symm⟩)
    simp [Core.addTok, Core.tok, h, this]

theorem Core.eng_wake (e : Engine) (c : Core) : c.wake.eng e = (c.eng e).wake := by simp [Core.wake, Core.eng]
theorem Core.eng_stir (e : Engine) (c : Core) : c.stir.eng e = c.eng e := rfl
theorem Core.tok_wake (a b : Engine) (c : Core) : c.wake.tok a b = c.tok a b := rfl
theorem Core.tok_onEng (a b e : Engine) (g : Eng → Eng) (c : Core) : (c.onEng e g).tok a b = c.tok a b := rfl
theorem Core.eng_addTok (a b e : Engine) (f : Nat → Nat) (c : Core) : (c.addTok a b f).eng e = c.eng e := rfl
theorem Core.eng_prunePoints (e : Engine) (c : Core) : c.prunePoints.eng e = c.eng e := rfl
theorem Core.tok_prunePoints (a b : Engine) (c : Core) : c.prunePoints.tok a b = c.tok a b := rfl
theorem Core.eng_setJournal (f e : Engine) (l : List JEntry) (c : Core) : (c.setJournal e l).eng f = c.eng f := rfl
theorem Core.journal_setJournal (e f : Engine) (l : List JEntry) (c : Core) :
    (c.setJournal e l).journal f = if f = e then l else c.journal f := by
  by_cases h : f = e
  · subst h; simp [Core.setJournal, Core.journal]
  · have : e.ix.val ≠ f.ix.val := fun hh => h (Engine.ix_inj (Fin.ext hh)).symm
    simp [Core.setJournal, Core.journal, h, this]
theorem Core.kView_setK (e f : Engine) (r : KR) (v : Tagged W32) (c : Core) :
    (c.setK e r v).kView f = if f = e then (c.kView e).set r v else c.kView f := by
  by_cases h : f = e
  · subst h; simp [Core.setK, Core.kView]
  · have : e.ix.val ≠ f.ix.val := fun hh => h (Engine.ix_inj (Fin.ext hh)).symm
    simp [Core.setK, Core.kView, h, this]

/-- What a freed entry leaves: the walk, every register but K, journals and A's TTB with the shapes kept of it, and every other engine's
view and journal. -/
structure Core.KeepsButK (e : Engine) (c d : Core) : Prop where
  frame : d = { c with regs := { c.regs with k := d.regs.k, jour := d.regs.jour, ttbA := d.regs.ttbA }
                       port := { c.port with shapes := d.port.shapes } }
  others : ∀ f, f ≠ e → d.kView f = c.kView f ∧ d.journal f = c.journal f

theorem Core.KeepsButK.refl (e : Engine) (c : Core) : c.KeepsButK e c := ⟨rfl, fun _ _ => ⟨rfl, rfl⟩⟩
theorem Core.KeepsButK.trans {e : Engine} {a b c : Core} (h : a.KeepsButK e b) (k : b.KeepsButK e c) : a.KeepsButK e c := by
  refine ⟨?_, fun f hf => ⟨(k.others f hf).1.trans (h.others f hf).1, (k.others f hf).2.trans (h.others f hf).2⟩⟩
  have h1 := h.frame; have h2 := k.frame
  rw [h1] at h2; exact h2

theorem Core.applyEntry_keeps (e : Engine) (j : JVal) (c : Core) : c.KeepsButK e (c.applyEntry e j) := by
  cases j with
  | k r v => exact ⟨rfl, fun f hf => ⟨by simp [Core.applyEntry, Core.kView_setK, hf], rfl⟩⟩
  | ttb v =>
    by_cases h : e = .a
    · simp only [Core.applyEntry, h, if_true]; exact ⟨rfl, fun _ _ => ⟨rfl, rfl⟩⟩
    · simp only [Core.applyEntry, h, if_false]; exact .refl e c

theorem Core.freeEntries_keeps (e : Engine) (n : Nat) (c : Core) : c.KeepsButK e (Core.freeEntries e n c) := by
  induction n generalizing c with
  | zero => exact .refl e c
  | succ n ih =>
    unfold Core.freeEntries
    split
    · exact .refl e c
    · split
      · rename_i j t _ _
        refine ((Core.applyEntry_keeps e j.val c).trans ?_).trans (ih ((c.applyEntry e j.val).setJournal e t))
        exact ⟨rfl, fun f hf => ⟨rfl, by simp [Core.journal_setJournal, hf]⟩⟩
      · exact .refl e c

theorem Core.freeEntries_empty (e : Engine) (n : Nat) (c : Core) (h : c.journal e = []) : Core.freeEntries e n c = c := by
  cases n with
  | zero => rfl
  | succ n => simp [Core.freeEntries, h]


theorem Core.stepped_keeps (e : Engine) (pc len : Nat) (c : Core) : c.stepped e pc len = { c with walk := (c.stepped e pc len).walk } := rfl

theorem Core.moveOn_eq (e : Engine) (pc len : Nat) (c : Core) :
    ∃ x, c.moveOn e pc len = x.prunePoints.wake.stir ∧ (c.stepped e pc len).KeepsButK e x :=
  ⟨_, rfl, Core.freeEntries_keeps e _ _⟩

/-- Moving on changes the walk and what the engine's journal frees, and nothing else. -/
theorem Core.moveOn_frame (e : Engine) (pc len : Nat) (c : Core) :
    c.moveOn e pc len = { c with
      walk := (c.moveOn e pc len).walk
      regs := { c.regs with
        k := (c.moveOn e pc len).regs.k
        jour := (c.moveOn e pc len).regs.jour
        ttbA := (c.moveOn e pc len).regs.ttbA }
      port := { c.port with shapes := (c.moveOn e pc len).port.shapes } } := by
  obtain ⟨x, hm, hx⟩ := Core.moveOn_eq e pc len c
  rw [hm, hx.frame]
  rfl

/-- The walk after moving on: the text, the requests and the faults stand. -/
theorem Core.moveOn_walk (e : Engine) (pc len : Nat) (c : Core) :
    (c.moveOn e pc len).walk = { c.walk with
      engs := (c.moveOn e pc len).walk.engs
      points := (c.moveOn e pc len).walk.points
      pointBase := (c.moveOn e pc len).walk.pointBase
      decisions := (c.moveOn e pc len).walk.decisions
      jobGives := (c.moveOn e pc len).walk.jobGives
      stall := 0 } := by
  obtain ⟨x, hm, hx⟩ := Core.moveOn_eq e pc len c
  rw [hm, hx.frame]
  rfl

theorem Core.moveOn_eng (e f : Engine) (pc len : Nat) (c : Core) :
    (c.moveOn e pc len).eng f = ((c.stepped e pc len).eng f).wake := by
  obtain ⟨x, hm, hx⟩ := Core.moveOn_eq e pc len c
  rw [hm, hx.frame, Core.eng_stir, Core.eng_wake, Core.eng_prunePoints]
  rfl

theorem Core.moveOn_journals (e f : Engine) (pc len : Nat) (c : Core) (hf : f ≠ e) :
    (c.moveOn e pc len).kView f = c.kView f ∧ (c.moveOn e pc len).journal f = c.journal f :=
  (Core.freeEntries_keeps e ((c.stepped e pc len).journal e).length (c.stepped e pc len)).others f hf

theorem Core.moveOn_empty (e : Engine) (pc len : Nat) (c : Core) (h : c.journal e = []) :
    (c.moveOn e pc len).regs = c.regs ∧ (c.moveOn e pc len).port = c.port := by
  have h' : (c.stepped e pc len).journal e = [] := h
  unfold Core.moveOn
  simp only [Core.freeEntries_empty _ _ _ h']
  exact ⟨rfl, rfl⟩

/-- The end of a word whose signal has room. -/
theorem finishWord_passed (g : Tok) (pc len : Nat) (v : State) (room : ∀ d, g = some d → v.core.tokRoom v.act d = true) :
    Passed v.act g pc len v (finishWord g pc len v) := by
  have key : ∃ c : Core, finishWord g pc len v = { v with core := c.moveOn v.act pc len } ∧
      c = { v.core with walk := { v.core.walk with toks := c.walk.toks } } ∧
      ∀ a b, c.tok a b = v.core.tok a b + (if a = v.act ∧ g = some b then 1 else 0) := by
    cases g with
    | none => exact ⟨v.core, rfl, rfl, fun a b => by simp⟩
    | some d =>
      refine ⟨v.core.addTok v.act d (· + 1), by simp [finishWord, room d rfl, State.onCore], rfl, fun a b => ?_⟩
      rw [Core.tok_addTok]
      by_cases h : a = v.act ∧ b = d
      · simp [h.1, h.2]
      · rw [if_neg h, if_neg (by rintro ⟨h1, h2⟩; exact h ⟨h1, (Option.some.inj h2).symm⟩)]; rfl
  obtain ⟨c, hf, hc, ht⟩ := key
  rw [hf]
  have e1 : ∀ f, c.eng f = v.core.eng f := fun f => by rw [hc]; rfl
  have e2 : c.regs = v.core.regs := by rw [hc]
  constructor
  · show ({ v with core := c.moveOn v.act pc len } : State) = _
    rw [Core.moveOn_frame, hc]
  · show (c.moveOn v.act pc len).walk = _
    rw [Core.moveOn_walk, hc]
  · show (c.moveOn v.act pc len).eng v.act = _
    rw [Core.moveOn_eng]
    simp [Core.stepped, Core.eng_onEng, e1, e2, Eng.wake]
  · intro f hf
    show (c.moveOn v.act pc len).eng f = _
    rw [Core.moveOn_eng]
    simp [Core.stepped, Core.eng_onEng, hf, e1]
  · intro a b
    rw [← ht a b]
    show (c.moveOn v.act pc len).tok a b = _
    obtain ⟨x, hm, hx⟩ := Core.moveOn_eq v.act pc len c
    rw [hm, hx.frame]; rfl
  · intro f hf
    have := Core.moveOn_journals v.act f pc len c hf
    rw [hc] at this ⊢; exact this
  · intro h
    have hj : c.journal v.act = [] := by rw [hc]; exact h
    have := Core.moveOn_empty v.act pc len c hj
    have hr : (c.moveOn v.act pc len).regs = v.core.regs := this.1.trans e2
    refine ⟨?_, ?_, ?_, ?_⟩
    · show (c.moveOn v.act pc len).kView v.act = _
      simp [Core.kView, hr]
    · show (c.moveOn v.act pc len).journal v.act = _
      rw [← h]; simp [Core.journal, hr]
    · show (c.moveOn v.act pc len).regs.ttbA = _
      rw [hr]
    · show (c.moveOn v.act pc len).port.shapes = _
      rw [this.2, hc]

theorem Core.eng_acquired (e src f : Engine) (c : Core) : (c.acquired e src).eng f = c.eng f := by unfold Core.acquired; split <;> rfl
/-- An acquire changes nothing but the line S read early. -/
theorem Core.acquired_frame (e src : Engine) (c : Core) :
    c.acquired e src = { c with port := { c.port with early := (c.acquired e src).port.early } } := by
  unfold Core.acquired; split <;> rfl

/-- A wait leaves the state as it is, or takes one token of the queue it names, wakes whatever waits, lets no line read early serve S any
more, and marks the word. -/
theorem State.takeWait_cases {w : Tok} {s u : State} (h : s.takeWait w = some u) :
    u = s ∨ ∃ src, w = some src ∧
      u = (s.onCore fun c => (((c.addTok src s.act (· - 1)).wake).stir).acquired s.act src).onEng s.act (fun x => { x with popped := true }) ∧
      s.me.popped = false ∧ s.core.tok src s.act ≠ 0 := by
  cases w with
  | none => exact .inl (Option.some.inj h).symm
  | some src =>
    simp only [State.takeWait] at h
    split at h
    · exact .inl (Option.some.inj h).symm
    · split at h
      · cases h
      · exact .inr ⟨src, rfl, (Option.some.inj h).symm, by simpa using ‹¬s.me.popped = true›, ‹_›⟩

/-- A token that is taken leaves the engine that moves. -/
theorem State.takeWait_act {w : Tok} {s u : State} (h : s.takeWait w = some u) : u.act = s.act := by
  obtain rfl | ⟨src, rfl, rfl, -, -⟩ := State.takeWait_cases h <;> rfl

/-- What a wait leaves: everything but the walk of this core and the line S read early. -/
theorem State.takeWait_frame {w : Tok} {s u : State} (h : s.takeWait w = some u) :
    u = { s with core := { s.core with walk := u.core.walk, port := { s.core.port with early := u.core.port.early } } } := by
  obtain rfl | ⟨src, rfl, rfl, -, -⟩ := State.takeWait_cases h
  · rfl
  · simp only [State.onCore, State.onEng]
    rw [Core.acquired_frame]
    rfl

theorem State.takeWait_pc {w : Tok} {s u : State} (h : s.takeWait w = some u) (e : Engine) :
    (u.core.eng e).pc = (s.core.eng e).pc ∧ (u.core.eng e).six = (s.core.eng e).six ∧ (u.core.eng e).stack = (s.core.eng e).stack := by
  have wk : ∀ x : Eng, x.wake.pc = x.pc ∧ x.wake.six = x.six ∧ x.wake.stack = x.stack := by
    intro x; unfold Eng.wake; split <;> exact ⟨rfl, rfl, rfl⟩
  obtain rfl | ⟨src, rfl, rfl, -, -⟩ := State.takeWait_cases h
  · exact ⟨rfl, rfl, rfl⟩
  · simp only [State.onEng, State.onCore, Core.eng_onEng]
    split
    · rename_i hh; subst hh; simp only [Core.eng_acquired, Core.eng_stir, Core.eng_wake, Core.eng_addTok]; exact wk _
    · simp only [Core.eng_acquired, Core.eng_stir, Core.eng_wake, Core.eng_addTok]; exact wk _

/-- A word that is ready and whose body completes is passed. -/
theorem runWord_done {e : Engine} {w g : Tok} {len : Nat} {inH : Bool} {s u v : State} {body : State → WordRes}
    (h : Ready e w g len inH s u) (hb : body u = .done v) (ha : v.act = e) (ht : ∀ d, v.core.tokRoom e d = u.core.tokRoom e d) :
    ∃ t, runWord w g len inH body s = .next t ∧ Passed e g ((s.core.eng e).pc + len) len v t := by
  refine ⟨finishWord g ((s.core.eng e).pc + len) len v, ?_, ?_⟩
  · have h1 : ¬ ((s.core.regs.hmode && s.act == Engine.s && (!inH || w != none || g != none)) = true) := by
      intro hh
      simp only [Bool.and_eq_true, beq_iff_eq] at hh
      obtain ⟨⟨h1, h2⟩, h3⟩ := hh
      obtain ⟨hi, hw, hg⟩ := h.handler h1 (h.act ▸ h2)
      simp [hi, hw, hg] at h3
    have h2 : ¬ ((s.core.slips s.act len && !(s.core.regs.hmode && s.act == Engine.s)) = true) := by
      intro hh
      rw [h.act] at hh
      rcases h.slip with h1 | ⟨h1, h2⟩
      · simp [h1] at hh
      · subst h2; simp [h1] at hh
    have h3 : s.me = s.core.eng e := by unfold State.me State.eng; rw [h.act]
    have h4 : (s.core.eng e).done = false := h3 ▸ h.fresh
    unfold runWord
    simp only [if_neg h1, if_neg h2, h.take, hb, h3, h4, Bool.false_eq_true, if_false]
  · have := finishWord_passed g ((s.core.eng e).pc + len) len v (by
      intro d hd; rw [ha, ht]; exact h.room d hd)
    rw [ha] at this
    exact this

/-- The same of a control word: it is passed where its body goes on. -/
theorem runControl_goto {e : Engine} {len pc : Nat} {inH : Bool} {s v : State} {body : State → CtlRes}
    (h : ReadyControl e len inH s) (hb : body s = .goto v pc) (ha : v.act = e) (hpc : pc < Config.textWords) :
    ∃ t, runControl len inH body s = .next t ∧ Passed e none pc len v t := by
  refine ⟨finishWord none pc len v, ?_, ha ▸ finishWord_passed none pc len v (fun _ hd => nomatch hd)⟩
  have h1 : ¬ ((s.core.regs.hmode && s.act == Engine.s && !inH) = true) := by
    intro hh
    simp only [Bool.and_eq_true, beq_iff_eq] at hh
    obtain ⟨⟨h1, h2⟩, h3⟩ := hh
    simp [h.handler h1 (h.act ▸ h2)] at h3
  have h2 : ¬ ((s.core.slips s.act len && !(s.core.regs.hmode && s.act == Engine.s)) = true) := by
    intro hh
    rw [h.act] at hh
    rcases h.slip with h1 | ⟨h1, h2⟩
    · simp [h1] at hh
    · subst h2; simp [h1] at hh
  rw [h.act] at h1 h2
  unfold runControl
  have h3 : ¬ (e = Engine.m ∧ (s.core.mat.ops ≠ [] ∨ s.core.mat.word.isSome = true)) := by
    rintro ⟨rfl, hm⟩
    obtain ⟨h4, h5⟩ := h.idle rfl
    simp [h4, h5] at hm
  simp only [h.act, if_neg h1, if_neg h2, if_neg h3, hb, if_pos hpc, finishWord, ha]

end Sys2Proof.Machine
end

