-- ==== Sys2Proof/Tests/Slice0.lean ====
section
/-! SUPPORT. Tests: words from the manual's tables and examples decode to what they stand for, ill-formed terms are refused, single steps give the
results worked out by hand, and every statement's hypotheses are met by a concrete state. -/

open Sys2Proof Sys2Proof.Machine

section
set_option Elab.async false

/-! ### Ill-formed terms, one for each check -/

theorem test_ill_token_s : (Instr.add (some .s) none 0 0 0).wellFormed = false ∧ (Instr.ld none (some .s) 0 0 0 .b).wellFormed = false := by decide +kernel
theorem test_ill_token_a : (Instr.flushc (some .a) none).wellFormed = false ∧ (Instr.shinv none (some .a) 0).wellFormed = false := by decide +kernel
theorem test_ill_token_v : (Instr.vadd (some .v) none 0 0 0).wellFormed = false ∧ (Instr.vidx none (some .v) 0 true).wellFormed = false := by decide +kernel
theorem test_ill_token_m : (Instr.mma (some .m) none).wellFormed = false ∧ (Instr.mzero none (some .m) 0).wellFormed = false := by decide +kernel
theorem test_ill_token_p : (Instr.psend (some .p) none 0 false 0).wellFormed = false ∧ (Instr.pdrop none (some .p) 0).wellFormed = false := by decide +kernel
theorem test_ill_odd_pair : (Instr.gath none none 1 0 0 .w 0 (.rows 0)).wellFormed = false ∧ (Instr.pbuild none none 15 0).wellFormed = false := by decide +kernel
theorem test_ill_always_with_k : (Instr.brk 1 .always 0).wellFormed = false ∧ (Instr.brK 15 .always 0).wellFormed = false := by decide +kernel
theorem test_ill_field_limit : (Instr.bfx none none 0 0 63 1).wellFormed = false ∧ (Instr.bfi none none 0 0 1 63).wellFormed = false := by decide +kernel
theorem test_ill_format_word : (Instr.fmtwImm none none 0x80000000).wellFormed = false ∧ (Instr.fmtwImm none none 0xA).wellFormed = false ∧
    (Instr.fmtwImm none none 0xA0).wellFormed = false := by decide +kernel
theorem test_ill_mtsr_own_row : (Instr.mtsr none none 0 0x001).wellFormed = false ∧ (Instr.mtsr none none 0 0x012).wellFormed = false := by decide +kernel
theorem test_ill_presume_ka : (Instr.presumeOptions none none 2 0 0 0 true false).wellFormed = false := by decide +kernel
theorem test_ill_jump_zero : (Instr.jz 0).wellFormed = false ∧ (Instr.jnz 0).wellFormed = false := by decide +kernel
theorem test_ill_partition : (Instr.ungate 48).wellFormed = false ∧ (Instr.partGate ⟨.hyp, 0, 48, 0, 0, 0⟩).wellFormed = false := by decide +kernel
theorem test_ill_function : (Instr.taskStart 192).wellFormed = false ∧ (Instr.vfAssign ⟨.hyp, 0, 0, 0, 0, 0⟩ 192 0 1 none 0 0).wellFormed = false := by decide +kernel
theorem test_ill_weight : (Instr.vfWeight ⟨.hyp, 0, 0, 0, 0, 0⟩ 256).wellFormed = false := by decide +kernel
theorem test_ill_core : (Instr.kstep ⟨0, 384⟩).wellFormed = false ∧ (Instr.slipWrite ⟨48, 0⟩ 0).wellFormed = false := by decide +kernel
theorem test_ill_carry_entry : (Instr.carryResend ⟨0, 0⟩ 64).wellFormed = false := by decide +kernel
theorem test_ill_unit : (Instr.uncorrectableError (.core ⟨0, 384⟩)).wellFormed = false ∧ (Instr.uncorrectableError (.windows 48)).wellFormed = false := by decide +kernel
theorem test_ill_slice : (Instr.sliceService 256).wellFormed = false := by decide +kernel
theorem test_ill_mesh : (Instr.meshArbitration 4 0 0).wellFormed = false ∧ (Instr.meshArbitration 0 16 0).wellFormed = false := by decide +kernel
theorem test_ill_ring : (Instr.ringInsertion 4 0 0).wellFormed = false ∧ (Instr.ringInsertion 0 103 0).wellFormed = false ∧
    (Instr.ringInsertion 0 0 4).wellFormed = false := by decide +kernel

/-! ### Words of the manual's tables and examples -/

/-- R98. -/
theorem test_decode_control : ∀ p ∈ ([
    (32, 0xE0015809, .loop 5 9), (64, 0x89ABCDEFE04107FF, .loopCount 2047 0x89ABCDEF), (32, 0xE0020000, .endl), (32, 0xE0037806, .brk 7 .gt 6),
    (32, 0xE0047FFF, .jmp (-1)), (32, 0xE00561FB, .brK 6 .eq (-5)), (32, 0xE0064000, .call (-16384)), (32, 0xE0070000, .ret),
    (32, 0xE0080000, .nopa), (32, 0xE0090000, .halt), (32, 0xE00A0A59, .ppoint 0xA5 9), (32, 0xE00B0000, .jobnext), (32, 0xE0059003, .brK 9 .eq 3),
    (32, 0xE0059203, .brK 9 .ne 3), (32, 0xE0059403, .brK 9 .lt 3), (32, 0xE0059603, .brK 9 .ge 3), (32, 0xE0059803, .brK 9 .gt 3),
    (32, 0xE0059A03, .brK 9 .le 3), (32, 0xE0030E02, .brk 0 .always 2)]
    : List (Nat × Nat × Instr)), decodeTableWord p.1 p.2.1 = some p.2.2 := by decide +kernel

/-- R99, R100. -/
theorem test_decode_s_two : ∀ p ∈ ([
    (32, 0x0A811BB2, .add (some .a) (some .p) 3 14 25), (32, 0x10028F0E, .sub (some .m) none 17 28 7),
    (32, 0x0103FAAA, .and none (some .a) 31 10 21), (32, 0x0D846E06, .or (some .v) (some .v) 13 24 3),
    (32, 0x1605D9A2, .xor (some .p) (some .m) 27 6 17), (32, 0x0A864D3E, .andn (some .a) (some .p) 9 20 31),
    (32, 0x1007B89A, .shl (some .m) none 23 2 13), (32, 0x01082C36, .shr none (some .a) 5 16 27), (32, 0x0D899F92, .sra (some .v) (some .v) 19 30 9),
    (32, 0x160A0B2E, .mul (some .p) (some .m) 1 12 23), (32, 0x0A8B7E8A, .mulh (some .a) (some .p) 15 26 5),
    (32, 0x100CEA26, .div (some .m) none 29 8 19), (32, 0x010D5D82, .rem none (some .a) 11 22 1), (32, 0x0D8EC91E, .min (some .v) (some .v) 25 4 15),
    (32, 0x160F3CBA, .max (some .p) (some .m) 7 18 29), (32, 0x0A90A816, .sel (some .a) (some .p) 21 0 11),
    (32, 0x10181BB2, .cmpEq (some .m) none 3 14 25), (32, 0x01198F0E, .cmpNe none (some .a) 17 28 7),
    (32, 0x0D9AFAAA, .cmpLt (some .v) (some .v) 31 10 21), (32, 0x161B6E06, .cmpGe (some .p) (some .m) 13 24 3),
    (32, 0x0A9CD9A2, .cmpLtu (some .a) (some .p) 27 6 17), (32, 0x101D4D3E, .cmpGeu (some .m) none 9 20 31)]
    : List (Nat × Nat × Instr)), decodeTableWord p.1 p.2.1 = some p.2.2 := by decide +kernel

/-- R99, R100. -/
theorem test_decode_s_imm : ∀ p ∈ ([
    (64, 0xFFFF00010DC15D80, .addImm (some .v) (some .v) 11 22 0xFFFF0001), (64, 0xFFFF00021642C900, .subImm (some .p) (some .m) 25 4 0xFFFF0002),
    (64, 0xFFFF00030AC33C80, .andImm (some .a) (some .p) 7 18 0xFFFF0003), (64, 0xFFFF00041044A800, .orImm (some .m) none 21 0 0xFFFF0004),
    (64, 0xFFFF000501451B80, .xorImm none (some .a) 3 14 0xFFFF0005), (64, 0xFFFF00060DC68F00, .andnImm (some .v) (some .v) 17 28 0xFFFF0006),
    (64, 0xFFFF00071647FA80, .shlImm (some .p) (some .m) 31 10 0xFFFF0007), (64, 0xFFFF00080AC86E00, .shrImm (some .a) (some .p) 13 24 0xFFFF0008),
    (64, 0xFFFF00091049D980, .sraImm (some .m) none 27 6 0xFFFF0009), (64, 0xFFFF000A014A4D00, .mulImm none (some .a) 9 20 0xFFFF000A),
    (64, 0xFFFF000B0DCBB880, .mulhImm (some .v) (some .v) 23 2 0xFFFF000B), (64, 0xFFFF000C164C2C00, .divImm (some .p) (some .m) 5 16 0xFFFF000C),
    (64, 0xFFFF000D0ACD9F80, .remImm (some .a) (some .p) 19 30 0xFFFF000D), (64, 0xFFFF000E104E0B00, .minImm (some .m) none 1 12 0xFFFF000E),
    (64, 0xFFFF000F014F7E80, .maxImm none (some .a) 15 26 0xFFFF000F), (64, 0xFFFF00100DD0EA00, .selImm (some .v) (some .v) 29 8 0xFFFF0010),
    (64, 0xFFFF001816585D80, .cmpEqImm (some .p) (some .m) 11 22 0xFFFF0018),
    (64, 0xFFFF00190AD9C900, .cmpNeImm (some .a) (some .p) 25 4 0xFFFF0019), (64, 0xFFFF001A105A3C80, .cmpLtImm (some .m) none 7 18 0xFFFF001A),
    (64, 0xFFFF001B015BA800, .cmpGeImm none (some .a) 21 0 0xFFFF001B), (64, 0xFFFF001C0DDC1B80, .cmpLtuImm (some .v) (some .v) 3 14 0xFFFF001C),
    (64, 0xFFFF001D165D8F00, .cmpGeuImm (some .p) (some .m) 17 28 0xFFFF001D)]
    : List (Nat × Nat × Instr)), decodeTableWord p.1 p.2.1 = some p.2.2 := by decide +kernel

/-- R99, R100. -/
theorem test_decode_s_more : ∀ p ∈ ([
    (32, 0x01118FFF, .li none (some .a) 17 (-1)), (64, 0x800000010AD18800, .liLong (some .a) (some .p) 17 0x80000001),
    (64, 0x123456780DD19001, .liHi (some .v) (some .v) 18 0x12345678), (32, 0x101201C4, .movk (some .m) none 7 4),
    (64, 0xCAFEF00D1652000F, .movkImm (some .p) (some .m) 15 0xCAFEF00D), (32, 0x0113300D, .movx none (some .a) 6 13),
    (32, 0x0A9437C0, .clz (some .a) (some .p) 6 31), (32, 0x0D95F980, .popc (some .v) (some .v) 31 6),
    (64, 0x000007E010564A80, .bfx (some .m) none 9 10 31 32), (64, 0x0000003F16575240, .bfi (some .p) (some .m) 10 9 0 63),
    (32, 0x01201164, .ld none (some .a) 2 5 9 .b), (32, 0x0AA019A9, .ld (some .a) (some .p) 3 6 10 .h),
    (32, 0x0DA021EE, .ld (some .v) (some .v) 4 7 11 .w), (32, 0x10202A33, .ld (some .m) none 5 8 12 .d),
    (64, 0xFFFFFFF81660117D, .ldOffset (some .p) (some .m) 2 5 15 .h 0xFFFFFFF8), (32, 0x01211862, .st none (some .a) 3 1 8 .w),
    (64, 0x000000400AE11860, .stOffset (some .a) (some .p) 3 1 8 .b 0x40)]
    : List (Nat × Nat × Instr)), decodeTableWord p.1 p.2.1 = some p.2.2 := by decide +kernel

/-- R99, R100. -/
theorem test_decode_s_amo : ∀ p ∈ ([
    (32, 0x0DA2C91E, .amoAdd (some .v) (some .v) 25 4 15 false), (64, 0x0000000F1062C91F, .amoAddClass (some .m) none 25 4 15 true 15),
    (32, 0x16233CBB, .amoFadd (some .p) (some .m) 7 18 29), (64, 0x0000000E01633CBB, .amoFaddClass none (some .a) 7 18 29 14),
    (32, 0x0AA4A816, .amoMin (some .a) (some .p) 21 0 11 false), (64, 0x0000000D0DE4A817, .amoMinClass (some .v) (some .v) 21 0 11 true 13),
    (32, 0x10251BB3, .amoMax (some .m) none 3 14 25 true), (64, 0x0000000C16651BB2, .amoMaxClass (some .p) (some .m) 3 14 25 false 12),
    (32, 0x01268F0F, .amoFmin none (some .a) 17 28 7), (64, 0x0000000B0AE68F0F, .amoFminClass (some .a) (some .p) 17 28 7 11),
    (32, 0x0DA7FAAB, .amoFmax (some .v) (some .v) 31 10 21), (64, 0x0000000A1067FAAB, .amoFmaxClass (some .m) none 31 10 21 10),
    (32, 0x16286E06, .amoAnd (some .p) (some .m) 13 24 3 false), (64, 0x0000000901686E07, .amoAndClass none (some .a) 13 24 3 true 9),
    (32, 0x0AA9D9A3, .amoOr (some .a) (some .p) 27 6 17 true), (64, 0x000000080DE9D9A2, .amoOrClass (some .v) (some .v) 27 6 17 false 8),
    (32, 0x102A4D3E, .amoXor (some .m) none 9 20 31 false), (64, 0x00000007166A4D3F, .amoXorClass (some .p) (some .m) 9 20 31 true 7),
    (32, 0x012BB89B, .amoSwap none (some .a) 23 2 13 true), (64, 0x000000060AEBB89A, .amoSwapClass (some .a) (some .p) 23 2 13 false 6),
    (32, 0x0DAC2C36, .amoCas (some .v) (some .v) 5 16 27 false), (64, 0x00000005106C2C37, .amoCasClass (some .m) none 5 16 27 true 5)]
    : List (Nat × Nat × Instr)), decodeTableWord p.1 p.2.1 = some p.2.2 := by decide +kernel

/-- R99, R100, R109. -/
theorem test_decode_s_system : ∀ p ∈ ([
    (64, 0x00000004166D8001, .fenceC (some .p) (some .m) 0x8001 .group), (32, 0x012E190A, .waitm none (some .a) 3 4 5),
    (64, 0xFFFFFFFF0AEE190A, .waitmLong (some .a) (some .p) 3 4 5 0xFFFFFFFF), (32, 0x0DAF8C03, .bar (some .v) (some .v) 17 16 .module),
    (32, 0x10300886, .barinit (some .m) none 1 2 3), (64, 0x0000007716700880, .barinitImm (some .p) (some .m) 1 2 0x77),
    (32, 0x01312140, .barkill none (some .a) 4 5), (32, 0x0AB23800, .curNext (some .a) (some .p) 7),
    (32, 0x0DB34240, .tlaunch (some .v) (some .v) 8 9), (32, 0x10340280, .fmtw (some .m) none 10),
    (64, 0x107F003316740000, .fmtwImm (some .p) (some .m) 0x107F0033), (32, 0x01350000, .rmode none (some .a) .rne),
    (32, 0x0AB50001, .rmode (some .a) (some .p) .rtz), (32, 0x0DB50002, .rmode (some .v) (some .v) .rup),
    (32, 0x10350003, .rmode (some .m) none .rdn), (32, 0x16350004, .rmode (some .p) (some .m) .rna), (32, 0x013600A7, .trap none (some .a) 0xA7),
    (32, 0x0AB70000, .eret (some .a) (some .p)), (32, 0x0DB85002, .mfsr (some .v) (some .v) 10 2), (32, 0x103917FF, .mtsr (some .m) none 2 0x7FF),
    (32, 0x16391001, .nflWrite (some .p) (some .m) 2), (32, 0x01391006, .ttbWrite none (some .a) 2),
    (32, 0x0AB91010, .hvecWrite (some .a) (some .p) 2), (32, 0x0DB91012, .bkptWrite (some .v) (some .v) 2)]
    : List (Nat × Nat × Instr)), decodeTableWord p.1 p.2.1 = some p.2.2 := by decide +kernel

/-- R97, R101, R102, R155. -/
theorem test_decode_a_copies : ∀ p ∈ ([
    (64, 0xFF001FFF3041FFE5, .tld (some .m) none 15 63 9 .segment 255 (.rows 8191)),
    (64, 0x07C000003641108C, .tld (some .p) (some .m) 1 2 3 .strict 7 (.lq 2)),
    (64, 0x0800004020C220D1, .tst none (some .s) 2 3 4 .segment 8 (.rows 64)),
    (64, 0x0860000026C220D0, .tst (some .s) (some .p) 2 3 4 .strict 8 (.sq 1)),
    (64, 0x091040002DC34159, .tcpy (some .v) (some .v) 4 5 6 .segment 9 130), (64, 0x0910400030444158, .tcpyo (some .m) none 4 5 6 9 130),
    (64, 0x0025612C36452046, .gath (some .p) (some .m) 2 1 1 .w 299 (.rows 300)),
    (64, 0xE025600020C5E047, .gath none (some .s) 14 1 1 .d 299 (.lq 3)),
    (64, 0x0025612C26C62044, .scat (some .s) (some .p) 2 1 1 .b 299 (.rows 300)),
    (64, 0x43FFE0002DC62045, .scat (some .v) (some .v) 2 1 1 .h 8191 (.sq 0)), (32, 0x3007A040, .spld (some .m) none 1 64),
    (64, 0x0000001936478040, .spldK (some .p) (some .m) 0 64 true 9), (32, 0x20885001, .spst none (some .s) 0 4097),
    (64, 0x0000001F26C86001, .spstK (some .s) (some .p) 1 1 true 15), (64, 0x4007F1002DC99ABC, .tref (some .v) (some .v) true 0x1ABC 0x4007F100),
    (64, 0x0007F10030490001, .tref (some .m) none false 1 0x0007F100)]
    : List (Nat × Nat × Instr)), decodeTableWord p.1 p.2.1 = some p.2.2 := by decide +kernel

/-- R101, R102. -/
theorem test_decode_a_more : ∀ p ∈ ([
    (32, 0x360A6A75, .aacc (some .p) (some .m) 6 41 13 1), (64, 0x8000000A20CA8048, .aaccOffset none (some .s) 8 1 2 0 0x8000000A),
    (32, 0x268C6A77, .sumst (some .s) (some .p) 6 41 13 3), (64, 0x8000000C2DCC8048, .sumstOffset (some .v) (some .v) 8 1 2 0 0x8000000C),
    (32, 0x30106A75, .mcast (some .m) none 6 41 13 1), (64, 0x8000001036508048, .mcastOffset (some .p) (some .m) 8 1 2 0 0x80000010),
    (32, 0x20916A76, .pref none (some .s) 6 41 13 2), (64, 0x8000001126D18048, .prefOffset (some .s) (some .p) 8 1 2 0 0x80000011),
    (32, 0x2D8B0000, .flushc (some .v) (some .v)), (64, 0x00000030304D8000, .waitany (some .m) none true 0x30),
    (64, 0x00000001364D0000, .waitany (some .p) (some .m) false 0x1), (32, 0x208D7000, .waitanyK none (some .s) 12),
    (64, 0x0000003026CE8000, .waitall (some .s) (some .p) true 0x30), (64, 0x000000012DCE0000, .waitall (some .v) (some .v) false 0x1),
    (32, 0x300E7000, .waitallK (some .m) none 12), (64, 0x000000F0364F8200, .ffr (some .p) (some .m) true 2 0xF0),
    (32, 0x208F6B00, .ffrK none (some .s) 10 3), (32, 0x2692C870, .shpub (some .s) (some .p) 200 7),
    (32, 0x2D93C900, .shinv (some .v) (some .v) 201), (32, 0x3014FFC0, .bind (some .m) none 1 3 127), (32, 0x36140020, .bindOff (some .p) (some .m) ⟨0, 0, 0⟩)]
    : List (Nat × Nat × Instr)), decodeTableWord p.1 p.2.1 = some p.2.2 := by decide +kernel

/-- R103, R104. -/
theorem test_decode_v_three : ∀ p ∈ ([
    (32, 0x40819F92, .vadd none (some .s) 19 30 9), (32, 0x49020B2E, .vsub (some .a) (some .a) 1 12 23),
    (32, 0x56037E8A, .vmul (some .p) (some .m) 15 26 5), (32, 0x4684EA26, .vfma (some .s) (some .p) 29 8 19),
    (32, 0x50055D82, .vmin (some .m) none 11 22 1), (32, 0x4086C91E, .vmax none (some .s) 25 4 15),
    (32, 0x49123CBA, .vand (some .a) (some .a) 7 18 29), (32, 0x5613A816, .vor (some .p) (some .m) 21 0 11),
    (32, 0x46941BB2, .vxor (some .s) (some .p) 3 14 25), (32, 0x50158F0E, .vshl (some .m) none 17 28 7),
    (32, 0x4096FAAA, .vshr none (some .s) 31 10 21), (32, 0x49176E06, .viadd (some .a) (some .a) 13 24 3),
    (32, 0x5618D9A2, .vimul (some .p) (some .m) 27 6 17), (32, 0x46A04D3E, .vcmpEq (some .s) (some .p) 9 20 31),
    (32, 0x5021B89A, .vcmpNe (some .m) none 23 2 13), (32, 0x40A22C36, .vcmpLt none (some .s) 5 16 27),
    (32, 0x49239F92, .vcmpLe (some .a) (some .a) 19 30 9), (32, 0x56240B2E, .vcmpGt (some .p) (some .m) 1 12 23),
    (32, 0x46A57E8A, .vcmpGe (some .s) (some .p) 15 26 5), (32, 0x5026EA26, .vcmpUn (some .m) none 29 8 19)]
    : List (Nat × Nat × Instr)), decodeTableWord p.1 p.2.1 = some p.2.2 := by decide +kernel

/-- R103, R104. -/
theorem test_decode_v_imm : ∀ p ∈ ([
    (64, 0x3F00000146C189C0, .vaddImm (some .s) (some .p) 17 7 0x3F000001), (64, 0x3F0000025042FD40, .vsubImm (some .m) none 31 21 0x3F000002),
    (64, 0x3F00000340C368C0, .vmulImm none (some .s) 13 3 0x3F000003), (64, 0x3F0000044944DC40, .vfmaImm (some .a) (some .a) 27 17 0x3F000004),
    (64, 0x3F00000556454FC0, .vminImm (some .p) (some .m) 9 31 0x3F000005), (64, 0x3F00000646C6BB40, .vmaxImm (some .s) (some .p) 23 13 0x3F000006),
    (64, 0x3F00001250522EC0, .vandImm (some .m) none 5 27 0x3F000012), (64, 0x3F00001340D39A40, .vorImm none (some .s) 19 9 0x3F000013),
    (64, 0x3F00001449540DC0, .vxorImm (some .a) (some .a) 1 23 0x3F000014), (64, 0x3F00001556557940, .vshlImm (some .p) (some .m) 15 5 0x3F000015),
    (64, 0x3F00001646D6ECC0, .vshrImm (some .s) (some .p) 29 19 0x3F000016), (64, 0x3F00001750575840, .viaddImm (some .m) none 11 1 0x3F000017),
    (64, 0x3F00001840D8CBC0, .vimulImm none (some .s) 25 15 0x3F000018), (64, 0x3F00002049603F40, .vcmpEqImm (some .a) (some .a) 7 29 0x3F000020),
    (64, 0x3F0000215661AAC0, .vcmpNeImm (some .p) (some .m) 21 11 0x3F000021),
    (64, 0x3F00002246E21E40, .vcmpLtImm (some .s) (some .p) 3 25 0x3F000022), (64, 0x3F000023506389C0, .vcmpLeImm (some .m) none 17 7 0x3F000023),
    (64, 0x3F00002440E4FD40, .vcmpGtImm none (some .s) 31 21 0x3F000024), (64, 0x3F000025496568C0, .vcmpGeImm (some .a) (some .a) 13 3 0x3F000025),
    (64, 0x3F0000265666DC40, .vcmpUnImm (some .p) (some .m) 27 17 0x3F000026)]
    : List (Nat × Nat × Instr)), decodeTableWord p.1 p.2.1 = some p.2.2 := by decide +kernel

/-- R103, R104, R186. -/
theorem test_decode_v_more : ∀ p ∈ ([
    (32, 0x4087B340, .vabs none (some .s) 22 13), (32, 0x4688ED00, .vneg (some .s) (some .p) 29 20),
    (32, 0x490926C0, .vrcp (some .a) (some .a) 4 27), (32, 0x500A5880, .vrsq (some .m) none 11 2), (32, 0x560B9240, .vexp2 (some .p) (some .m) 18 9),
    (32, 0x408CCC00, .vlog2 none (some .s) 25 16), (64, 0x0000001746CD1920, .vcvt (some .s) (some .p) 3 4 .rna true 7),
    (64, 0x00000002494D1908, .vcvt (some .a) (some .a) 3 4 .rtz false 2), (64, 0x00000008504E1910, .vpackq (some .m) none 3 4 .rup false 8),
    (64, 0x00000010564F1918, .vfxc (some .p) (some .m) 3 4 .rdn true 0), (32, 0x40903140, .vunpq none (some .s) 6 5),
    (32, 0x4691C0DC, .vsel (some .s) (some .p) 24 3 14), (32, 0x491AFAAA, .vperm (some .a) (some .a) 31 10 21),
    (32, 0x501B3478, .vshuf (some .m) none 6 17 28), (32, 0x561908BF, .vbcast (some .p) (some .m) 1 2 63)]
    : List (Nat × Nat × Instr)), decodeTableWord p.1 p.2.1 = some p.2.2 := by decide +kernel

/-- R103, R104, R186. -/
theorem test_decode_v_last : ∀ p ∈ ([
    (32, 0x409C1846, .vred none (some .s) 3 1 true .min), (32, 0x469C2041, .vred (some .s) (some .p) 4 1 false .max),
    (32, 0x491D2044, .vscan (some .a) (some .a) 4 1 true .sum), (32, 0x501E207D, .vnorm (some .m) none 4 1 15 .mv),
    (32, 0x561E2048, .vnorm (some .p) (some .m) 4 1 2 .rms), (32, 0x409F2840, .vsmax none (some .s) 5 1),
    (32, 0x46A82003, .vpop (some .s) (some .p) 4 3), (32, 0x49290101, .vpush (some .a) (some .a) 4 1),
    (32, 0x502A49FF, .vaccrd (some .m) none 9 1 127 true), (64, 0x0000001B566A4F00, .vaccrdK (some .p) (some .m) 9 7 0 false true 11),
    (32, 0x40ABFA08, .vaccwr none (some .s) 31 2 4 false), (64, 0x0000001046EBFA09, .vaccwrK (some .s) (some .p) 31 2 4 true true 0),
    (64, 0x00004B90496C0000, .vsetsh (some .a) (some .a) 0x4B90), (32, 0x502D0800, .vidx (some .m) none 1 false),
    (32, 0x562D0801, .vidx (some .p) (some .m) 1 true)]
    : List (Nat × Nat × Instr)), decodeTableWord p.1 p.2.1 = some p.2.2 := by decide +kernel

/-- R105. -/
theorem test_decode_m : ∀ p ∈ ([
    (32, 0x60810000, .mma none (some .s)), (64, 0x0000400066C10000, .mmaStamp (some .s) (some .p) 0x4000),
    (32, 0x69020000, .mmat (some .a) (some .a)), (64, 0xFFFFFFFF6C420000, .mmatStamp (some .v) none 0xFFFFFFFF),
    (32, 0x75832000, .mzero (some .p) (some .v) 1), (32, 0x60847000, .mload none (some .s) 3 4096),
    (32, 0x6685E100, .msave (some .s) (some .p) 7 256), (32, 0x6906A000, .mprog (some .a) (some .a) 5)]
    : List (Nat × Nat × Instr)), decodeTableWord p.1 p.2.1 = some p.2.2 := by decide +kernel

/-- R106, R234. -/
theorem test_decode_p : ∀ p ∈ ([
    (32, 0x8C014002, .pbuild (some .v) none 4 2), (32, 0x91820382, .psend (some .m) (some .v) 3 true 2),
    (32, 0x80820007, .psend none (some .s) 0 false 7), (32, 0x8603E900, .pcountWait (some .s) (some .m) 14 9),
    (64, 0x0000000189430300, .pcountWaitImm (some .a) (some .a) 3 1), (32, 0x8C040F01, .pcountRd (some .v) none 15 true),
    (32, 0x91856000, .precv (some .m) (some .v) 6), (32, 0x8086A000, .pcoll none (some .s) 10),
    (32, 0x860740FF, .pparkRd (some .s) (some .m) 4 0xFF), (32, 0x8908003F, .presume (some .a) (some .a) 63),
    (64, 0x00003BFE8C482005, .presumeOptions (some .v) none 2 5 0xFE 11 true true),
    (64, 0x0000000391C80005, .presumeOptions (some .m) (some .v) 0 5 3 0 false false), (32, 0x80890010, .pdrop none (some .s) 16)]
    : List (Nat × Nat × Instr)), decodeTableWord p.1 p.2.1 = some p.2.2 := by decide +kernel

/-- R245. -/
theorem test_decode_errand : ∀ p ∈ ([
    (16, 0x07FF, .errandPushi (-1)), (16, 0x0803, .errandPushw 3), (16, 0x1002, .errandPopw 2), (16, 0x1800, .errandDup), (16, 0x2000, .errandSwap),
    (16, 0x2800, .errandDrop), (16, 0x3000, .errandAdd), (16, 0x3800, .errandSub), (16, 0x4000, .errandAnd), (16, 0x4800, .errandOr),
    (16, 0x5000, .errandXor), (16, 0x5800, .errandShl), (16, 0x6000, .errandShr), (16, 0x6800, .errandCmpeq), (16, 0x7000, .errandCmplt)]
    : List (Nat × Nat × Instr)), decodeTableWord p.1 p.2.1 = some p.2.2 := by decide +kernel

/-- R245. -/
theorem test_decode_errand_more : ∀ p ∈ ([
    (16, 0x7FFF, .ctrRd 2047), (16, 0x87FE, .ctrAdd 2046), (16, 0x8FFD, .ctrTest 2045), (16, 0x97FC, .scrRd 2044), (16, 0x9FFB, .scrAdd 2043),
    (16, 0xA7FA, .scrCas 2042), (16, 0xA8C8, .clone 0xC8), (16, 0xB005, .dir 5), (16, 0xB008, .dirPop), (16, 0xB800, .dirmin),
    (16, 0xC000, .dirload), (16, 0xC800, .bud), (16, 0xD00F, .jz 15), (16, 0xD801, .jnz 1), (16, 0xE000, .deliv), (16, 0xE800, .dropk),
    (16, 0xF0FE, .park 0xFE), (16, 0xF800, .fwd)]
    : List (Nat × Nat × Instr)), decodeTableWord p.1 p.2.1 = some p.2.2 := by decide +kernel

/-- The words of the manual's worked examples (chapters 3 to 8, 12 to 14 and 17), as it prints them. -/
theorem test_decode_examples : ∀ p ∈ ([
    (32, 0x01011844, .add none (some .a) 3 1 2), (32, 0x2407A040, .spld (some .s) none 1 64), (32, 0x40282001, .vpop none none 4 1),
    (32, 0xE0012803, .loop 2 3), (64, 0x3F00000040432100, .vmulImm none none 4 4 0x3F000000), (32, 0xE00A0010, .ppoint 1 0),
    (32, 0x00133000, .movx none none 6 0), (32, 0x00323800, .curNext none none 7), (32, 0x001201C4, .movk none none 7 4),
    (32, 0xE00543FC, .brK 4 .ne (-4)), (64, 0x00000100204A2100, .aaccOffset none none 2 4 0 0 256), (64, 0x00000030204E0000, .waitall none none false 0x30),
    (64, 0x00004B90406C0000, .vsetsh none none 0x4B90), (32, 0x401C2041, .vred none none 4 1 false .max), (32, 0x401F2840, .vsmax none none 5 1),
    (64, 0x107F003302740000, .fmtwImm none (some .m) 0x107F0033), (64, 0x4007F10022498000, .tref none (some .m) true 0 0x4007F100),
    (32, 0x64032000, .mzero (some .s) none 1), (64, 0x0000400069C10000, .mmaStamp (some .a) (some .v) 0x4000), (32, 0x502A4900, .vaccrd (some .m) none 9 1 0 false)]
    : List (Nat × Nat × Instr)), decodeTableWord p.1 p.2.1 = some p.2.2 := by decide +kernel
theorem test_decode_more_examples : ∀ p ∈ ([
    (32, 0x80014002, .pbuild none none 4 2), (32, 0x80020382, .psend none none 3 true 2), (64, 0x0000000180430300, .pcountWaitImm none none 3 1),
    (16, 0x8805, .ctrTest 5), (16, 0xD002, .jz 2), (16, 0xB800, .dirmin), (16, 0xF003, .park 3), (32, 0x2412_0100, .shpub (some .s) none 1 0),
    (32, 0x08118800, .li (some .a) none 17 0), (32, 0x002F8C03, .bar none none 17 16 .module), (32, 0x00224012, .amoAdd none none 8 0 9 false),
    (32, 0x00391006, .ttbWrite none none 2), (32, 0x41290040, .vpush none (some .a) 1 0), (32, 0x2C0A8044, .aacc (some .v) none 8 1 1 0),
    (32, 0x208B0000, .flushc none (some .s)), (32, 0x08385002, .mfsr (some .a) none 10 2), (32, 0x8806A000, .pcoll (some .a) none 10),
    (32, 0x80874010, .pparkRd none (some .s) 4 16), (32, 0x80890010, .pdrop none (some .s) 16), (32, 0x20140040, .bind none none 0 0 1),
    (32, 0x20140020, .bindOff none none ⟨0, 0, 0⟩), (32, 0x402D0800, .vidx none none 1 false), (64, 0x00000004E0410003, .loopCount 3 4)]
    : List (Nat × Nat × Instr)), decodeTableWord p.1 p.2.1 = some p.2.2 := by decide +kernel
/-- R93, R96, R97, R20: words that decode to nothing: opcode 0, a reserved tag, a token of the engine's own, a long form where there is none, a field
marked 0, KCC 110, KN with always, an odd pair, BFX past bit 63, MQ's reserved bits, a DIR above 5. -/
theorem test_decode_rejects : ∀ p ∈ ([(32, 0), (32, 0xFFFFFFFF), (32, 0xA0000000), (32, 0x04011844), (64, 0x00400000 + 0x00130000), (32, 0x00011845),
    (32, 0xE0054C00), (32, 0xE0051E00), (32, 0x204A1000), (64, 0x00000FC100560000), (64, 0x20492000 + 0x00400000), (16, 0xB006), (16, 0xD000)] : List (Nat × Nat)),
    decodeTableWord p.1 p.2 = none := by decide +kernel


/-! ### Every statement's hypotheses are met -/

/-- Page tables: five entries that map the first GiB of addresses to themselves, with a sum region of scale 0 from 2^29 on, and at the second GiB
a scratchpad, a multicast and a reduction window, and an ordinary window of a group, of 2 MiB each (R328, R332, R335). -/
def tblMem : Memory :=
  (([(0x10000, 3, 0x20001), (0x20000, 1, 0x0F), (0x20008, 4, 0x2000001F), (0x40000, 3, 0x41001), (0x41000, 3, 0x42001), (0x42000, 1, 0x07),
    (0x42008, 3, 0x43001), (0x43000, 3, 0x44027), (0x43008, 3, 0x45047), (0x43010, 3, 0x46067), (0x44000, 1, 1), (0x44018, 1, 1), (0x45000, 1, 2),
    (0x45018, 1, 1), (0x46000, 1, 3)] : List (Nat × Nat × Nat)).foldl (fun s x => State.poke x.1 (natLe x.2.2 x.2.1) s) State.reset).mem

/-- A task of one job on core 0 of partition 0, for function 0. -/
def tblTask : Task :=
  { id := 0, vf := 0, part := 0, r := ⟨0, 0, 0, 1, 0, false, 0, 0, [], 0, 0, true, [0], [⟨0, 8, 1⟩]⟩, jobs := 8, nextJob := 1, cores := [(0, .running)],
    doms := [], lastServed := [], residue := false, text := [], discarded := 0, outcome := none, failCore := 0, age := 0 }

/-- A context of function 0 running on core 0 of the live partition 0, with core 1 idle, the module up, and every address mapped to itself. -/
def base : State :=
  let c := Core.init
  let s : State := { State.reset with
    core := { c with place := { c.place with run := .running, task := some 0, job := 1, first := 1, stride := 1, count := 3 }, regs := { c.regs with s1tb := 0x40001 } }
    others := [{ c with place := { c.place with num := 1, site := 1 } }]
    mem := tblMem
    mgmt := { State.reset.mgmt with step := 7, sessions := [⟨0, .hyp, 0⟩] }
    disp := { State.reset.disp with tasks := [tblTask], nextTask := 1 } }
  (s.setPart 0 fun p => { p with st := .live, sites := [0, 1], used := true, emask := 0x7FFF, xbCount := 16, scrCount := 16, parkCount := 4, slots := 4 }).setVf 0
    fun v => { v with part := some 0, weight := 1, s2root := 0x10000, s1tb := 0x40001 }

/-- Engine e of the context. -/
def on (e : Engine) (s : State) : State := { s with act := e }
/-- Its handler mode on. -/
def inH (s : State) : State := s.onRegs fun r => { r with hmode := true }

theorem ready_of {e : Engine} {len : Nat} {b : Bool} {s : State}
    (h : (s.act == e && !s.core.regs.hmode && !s.me.done && !s.core.slips e len) = true) : Ready e none none len b s s := by
  simp only [Bool.and_eq_true, beq_iff_eq, Bool.not_eq_true'] at h
  obtain ⟨⟨⟨h1, h2⟩, h3⟩, h4⟩ := h
  exact ⟨h1, fun h => by rw [h2] at h; exact absurd h (by decide), h3, .inl h4, rfl, fun d hd => by cases hd⟩

theorem readyC_of {e : Engine} {len : Nat} {b : Bool} {s : State}
    (h : (s.act == e && !s.core.regs.hmode && !s.core.slips e len && decide (s.core.mat.ops = [] ∧ s.core.mat.word = none)) = true) :
    ReadyControl e len b s := by
  simp only [Bool.and_eq_true, beq_iff_eq, Bool.not_eq_true', decide_eq_true_eq] at h
  exact ⟨h.1.1.1, fun x => by rw [h.1.1.2] at x; exact absurd x (by decide), .inl h.1.2, fun _ => h.2⟩

/-- An answer of one kind, from a test on what it is. -/
def okB {ε α σ : Type} (p : α → σ → Bool) (r : Except ε α × σ) : Bool := match r with
  | (.ok a, s) => p a s
  | (.error _, _) => false
theorem okB_of {ε α σ : Type} {p : α → σ → Bool} {r : Except ε α × σ} (h : okB p r = true) : ∃ a s, r = (.ok a, s) ∧ p a s = true := by
  match r, h with
  | (.ok a, s), h => exact ⟨a, s, rfl, h⟩
theorem some_of {α : Type} {p : α → Bool} {o : Option α} (h : (o.any p) = true) : ∃ a, o = some a ∧ p a = true := by
  match o, h with
  | some a, h => exact ⟨a, rfl, h⟩

def stepB (p : State → Bool) (o : Host.Outcome State Fault Refusal) : Bool := match o with
  | .next t => p t
  | _ => false
theorem step_of {p : State → Bool} {o : Host.Outcome State Fault Refusal} (h : stepB p o = true) : ∃ t, o = .next t ∧ p t = true := by
  match o, h with
  | .next t, h => exact ⟨t, rfl, h⟩
def exB {ε α : Type} (p : α → Bool) (r : Except ε α) : Bool := match r with
  | .ok a => p a
  | .error _ => false
theorem ex_of {ε α : Type} {p : α → Bool} {r : Except ε α} (h : exB p r = true) : ∃ a, r = .ok a ∧ p a = true := by
  match r, h with
  | .ok a, h => exact ⟨a, rfl, h⟩
theorem none_of {α : Type} {o : Option α} (h : o.isNone = true) : o = none := Option.isNone_iff_eq_none.mp h

/-- The engine that moves at text index n. -/
def atPc (n : Nat) (s : State) : State := s.onEng s.act fun x => { x with pc := n }
/-- A text. -/
def withText (l : List (Nat × W32)) (s : State) : State := s.onWalk fun w => { w with text := l }
/-- K registers in every view. -/
def withK (k : KR) (v : W32) (s : State) : State := s.onRegs fun r => { r with k := r.k.map fun a => a.set k ⟨v, 0, Mark.empty⟩ }
/-- An X register. -/
def withX (r : XR) (v : W64) (s : State) : State := s.onRegs fun y => { y with x := y.x.set r ⟨v, 0, Mark.empty⟩ }
/-- Eight call entries. -/
def deep : List Frame := List.replicate 8 (.call 3)

theorem test_hyps_StepRuns :
    (∃ (s : State) (i : Instr), s.agenda = .engine s.core.id .s :: [] ∧ s.mgmt.pins ≠ .off ∧
      let v := { s with agenda := [], ticks := s.ticks + 1, act := .s }
      v.mayMove .s = true ∧ (Engine.s = .m → v.core.mat.sigs = []) ∧ offEnd .s v.core.regs.hmode v.me.pc v.curWord = false ∧ ownsWord .s v.curWord = true ∧ v.atBreakpoint = false ∧
      decodeWord v.curWord (v.core.wordAt (v.me.pc + 1)) = .ok i) ∧
    (∃ (s : State) (j : LaneJob) (i : Instr), s.agenda = .lane 0 :: [] ∧ s.mgmt.pins ≠ .off ∧
      let v := { s with agenda := [], ticks := s.ticks + 1, lane := 0 }
      v.laneJob 0 = some j ∧ decodeErrand ((j.pkt.code.getD []).getD j.pkt.pc 0) = .ok i) ∧
    (∃ (s : State) (i : Instr), s.agenda = .event i :: [] ∧ s.mgmt.pins ≠ .off ∧ isEvent i = true ∧ i.wellFormed = true) := by
  refine ⟨?_, ?_, ⟨{ base with agenda := [.event .slotGrant] }, .slotGrant, by decide +kernel⟩⟩
  · obtain ⟨i, h, -⟩ := ex_of (p := fun _ => true) (r := decodeWord 0x00010004 0) (by decide +kernel)
    exact ⟨base.placeWord 0x00010004, i, by decide +kernel, by decide +kernel, by decide +kernel, (fun x => by cases x), by decide +kernel, by decide +kernel, by decide +kernel, h⟩
  · obtain ⟨j, h, -⟩ := some_of (p := fun _ => true) (o := (base.placeErrand 0x3000).laneJob 0) (by decide +kernel)
    have e : (((base.placeErrand 0x3000).laneJob 0).map fun j => (j.pkt.code.getD []).getD j.pkt.pc 0) = some 0x3000 := by decide +kernel
    rw [h] at e
    simp only [Option.map_some, Option.some.injEq] at e
    obtain ⟨i, hi, -⟩ := ex_of (p := fun _ => true) (r := decodeErrand 0x3000) (by decide +kernel)
    exact ⟨base.placeErrand 0x3000, j, i, by decide +kernel, by decide +kernel, h, by rw [e]; exact hi⟩

theorem test_hyps_EncodingRoundTrip :
    (∃ (i : Instr) (w : W32) (x : Option W32), i.wellFormed = true ∧ encodeText i = some (w, x)) ∧
    (∃ (i : Instr) (h : W16), i.wellFormed = true ∧ encodeErrand i = some h) :=
  ⟨⟨.addImm none (some .p) 31 31 0xFFFFFFFF, 0x0281FFC0 + 0x00400000, some 0xFFFFFFFF, by decide +kernel⟩, ⟨.jz 15, 0xD00F, by decide +kernel⟩⟩

theorem test_hyps_MemoryFormKept : ∃ s t : State, Memory.wf s.mem = true ∧ step s = .next t := by
  obtain ⟨t, h, -⟩ := step_of (p := fun _ => true) (o := step { base with agenda := [.cycle] }) (by decide +kernel)
  exact ⟨_, t, by decide +kernel, h⟩

theorem test_hyps_WordTokens :
    ((on .s base).takeWait (some .a) = none ∧ base.core.regs.hmode = false ∧ (on .s base).me.done = false ∧ base.core.slips .s 2 = false) ∧
    (∃ v : State, v.core.tokRoom v.act .p = false) ∧ (∃ u, ((on .a base).onCore (Core.addTok .p .a fun _ => 1)).takeWait (some .p) = some u) := by
  refine ⟨⟨none_of (by decide +kernel), by decide +kernel, by decide +kernel, by decide +kernel⟩,
    ⟨(on .s base).onCore (Core.addTok .s .p fun _ => 15), by decide +kernel⟩, ?_⟩
  obtain ⟨u, h, -⟩ := some_of (p := fun _ => true) (o := ((on .a base).onCore (Core.addTok .p .a fun _ => 1)).takeWait (some .p)) (by decide +kernel)
  exact ⟨u, h⟩

theorem test_hyps_JumpsCallsLoops :
    let s := atPc 16382 (on .v base)
    let l := withText [(16382, 0xE0020000)] (atPc 16381 (on .v base))
    let full := l.setStack deep
    (ReadyControl .v 1 true s ∧ ReadyControl .v 1 false s ∧ ReadyControl .v 2 false s ∧ s.kAhead = false) ∧
    -- JMP, BR.K and CALL to the last word, and past it
    ((s.me.pc : Int) + (1#15).toInt = 16383 ∧ (s.me.pc : Int) + (2#15).toInt = 16384 ∧ ((atPc 0 s).me.pc : Int) + (-1#15).toInt < 0) ∧
    (kccHolds .eq (s.k 0).val = true ∧ (s.me.pc : Int) + (1#9).toInt = 16383 ∧ (s.me.pc : Int) + (2#9).toInt = 16384 ∧
      kccHolds .ne (s.k 0).val = false ∧ s.me.pc + 1 < 16384) ∧
    ((s.setStack (deep.take 7)).me.stack.length < 8 ∧ 8 ≤ (s.setStack deep).me.stack.length) ∧
    -- RET of a call entry, and with none
    ((s.setStack deep).me.stack = .call 3 :: deep.take 7 ∧ 3 < 16384 ∧ ReadyControl .v 1 false (s.setStack deep) ∧ s.me.stack = []) ∧
    -- LOOP to the ENDL after it, with count 0, with a count, at depth 8, and one that names no ENDL
    (ReadyControl .v 1 false l ∧ l.kAhead = false ∧ l.me.pc + 1 + 1 < 16384 ∧ l.core.wordAt (l.me.pc + 1) = 0xE0020000 ∧ (l.k 0).val = 0 ∧
      ((withK 0 1 l).k 0).val ≠ 0 ∧ l.me.stack.length < 8 ∧ ReadyControl .v 1 false full ∧ 8 ≤ full.me.stack.length ∧
      l.core.wordAt (l.me.pc + 2) ≠ 0xE0020000) ∧
    (ReadyControl .v 2 false (atPc 16380 l) ∧ (atPc 16380 l).core.wordAt ((atPc 16380 l).me.pc + 2) = 0xE0020000 ∧ (0 : W32) = 0) ∧
    -- ENDL with passes left and on the last pass, and with no entry
    ((s.setStack [.loop 5 16382 2]).me.stack = .loop 5 16382 2 :: [] ∧ (2 : W32) ≠ 1 ∧ 5 < 16384 ∧ (s.setStack [.loop 5 16382 2]).me.pc = 16382 ∧ s.me.pc + 1 < 16384) ∧
    -- BRK out of one loop, with none, and not taken
    (∃ t : State, ReadyControl .v 1 false t ∧ t.kAhead = false ∧ kccHolds .eq (t.k 0).val = true ∧ t.me.stack[0]? = some (.loop 5 16382 2) ∧ 16382 + 1 < 16384) ∧
    (kccHolds .always (s.k 0).val = true ∧ s.me.stack.length ≤ 0) := by
  refine ⟨⟨readyC_of (by decide +kernel), readyC_of (by decide +kernel), readyC_of (by decide +kernel), by decide +kernel⟩, by decide +kernel, by decide +kernel,
    by decide +kernel, ⟨by decide +kernel, by decide, readyC_of (by decide +kernel), by decide +kernel⟩,
    ⟨readyC_of (by decide +kernel), by decide +kernel, by decide +kernel, by decide +kernel, by decide +kernel, by decide +kernel, by decide +kernel,
      readyC_of (by decide +kernel), by decide +kernel, by decide +kernel⟩, ⟨readyC_of (by decide +kernel), by decide +kernel⟩, by decide +kernel,
    ⟨(atPc 7 (on .v base)).setStack [.loop 5 16382 2], readyC_of (by decide +kernel), by decide +kernel⟩, by decide +kernel⟩

theorem test_hyps_HaltPointJobnext :
    let s := (on .m base).onWalk fun w => { w with decisions := [(0, false)], jobGives := [⟨0, some 2⟩] }
    let h := (on .m base).onWalk fun w => { w with decisions := [(0, true)] }
    ReadyControl .m 1 false s ∧ ReadyControl .m 1 false h ∧ ReadyControl .s 1 false (on .s s) ∧ (s.core.eng .p).blk ≠ .atHalt ∧
    s.core.walk.decisions.find? (fun d => d.1 == s.me.six) = some (0, false) ∧ s.me.pc + 1 < 16384 ∧ (∀ p ∈ s.core.walk.points, p.pos ≠ s.me.six) ∧
    h.core.walk.decisions.find? (fun d => d.1 == h.me.six) = some (0, true) ∧
    (s.curTask = some tblTask ∧ s.core.walk.jobGives.find? (fun d => d.pos == s.me.six) = some ⟨0, some 2⟩ ∧ (on .s s).core.journalRoom 4 = true) := by
  exact ⟨readyC_of (by decide +kernel), readyC_of (by decide +kernel), readyC_of (by decide +kernel), by decide +kernel⟩

theorem reaches_of {cls : AClass} {wr rd sync : Bool} {align lg : Nat} {ocl : Ocl} {ea : W64} {s : State} {q : Target → Loc → State → Bool}
    (h : (decide (ea.toNat % align = 0) && okB (fun t v => match t.loc with
      | some l => !v.locBad l (2 ^ lg) && (!sync || !v.mustWait ocl (l.keys (2 ^ lg))) && (!rd || (v.locPoison l (2 ^ lg)).isNone) &&
          q t l (v.noteAccess ocl (l.keys (2 ^ lg)))
      | none => false) (s.translate s.who cls wr ea)) = true) :
    ∃ t l v, Reaches cls wr rd sync align lg ocl ea t l s v ∧ q t l v = true := by
  simp only [Bool.and_eq_true, decide_eq_true_eq] at h
  obtain ⟨t, v, hf, hp⟩ := okB_of h.2
  cases hl : t.loc with
  | none => simp [hl] at hp
  | some l =>
    simp only [hl, Bool.and_eq_true, Bool.not_eq_true', Bool.or_eq_true] at hp
    obtain ⟨⟨⟨h1, h2⟩, h3⟩, h4⟩ := hp
    exact ⟨t, l, _, ⟨fun _ => h.1, hl, v, hf, rfl, h1, fun hs => by simpa [hs] using h2, fun hr => by simpa [hr] using h3⟩, h4⟩

def turnsB (p : State → Bool) (l : Loc) (s : State) (bs : List Byte := []) : Bool :=
  (s.turnAt s.core.place.part (s.accessWho 0) l).any fun r => p (r.accessOut r.core.id l 1 bs false true)
theorem turns_of {p : State → Bool} {l : Loc} {s : State} {bs : List Byte} (h : turnsB p l s bs = true) : ∃ v, Turns l s v bs ∧ p v = true := by
  obtain ⟨r, hv, hp⟩ := some_of h
  exact ⟨_, ⟨r, hv, rfl⟩, hp⟩

def isWin : Loc → Bool
  | .win .. => true
  | .mem .. => false
theorem win_of {l : Loc} (h : isWin l = true) : ∃ a b c, l = .win a b c := by
  cases l with
  | mem a b => exact absurd h (by simp [isWin])
  | win a b c => exact ⟨a, b, c, rfl⟩
theorem reaches_mem {cls : AClass} {wr rd sync : Bool} {align lg : Nat} {ocl : Ocl} {ea : W64} {s : State} {q : Nat → Nat → State → Bool} {bs : State → List Byte}
    (h : (decide (ea.toNat % align = 0) && okB (fun t v => match t with
      | .mem a f sum _ => !sum && !v.locBad (.mem a f) (2 ^ lg) && (!sync || !v.mustWait ocl ((Loc.mem a f).keys (2 ^ lg))) &&
          (!rd || (v.locPoison (.mem a f) (2 ^ lg)).isNone) && turnsB (q a f) (.mem a f) (v.noteAccess ocl ((Loc.mem a f).keys (2 ^ lg)))
            (bs (v.noteAccess ocl ((Loc.mem a f).keys (2 ^ lg))))
      | _ => false) (s.translate s.who cls wr ea)) = true) :
    ∃ a f e v r, Reaches cls wr rd sync align lg ocl ea (.mem a f false e) (.mem a f) s v ∧ Turns (.mem a f) v r (bs v) ∧ q a f r = true := by
  simp only [Bool.and_eq_true, decide_eq_true_eq] at h
  obtain ⟨t, v, hf, hp⟩ := okB_of h.2
  match t, hf, hp with
  | .mem a f sum e, hf, hp =>
    simp only [Bool.and_eq_true, Bool.not_eq_true', Bool.or_eq_true] at hp
    obtain ⟨⟨⟨⟨h0, h1⟩, h2⟩, h3⟩, h4⟩ := hp
    obtain ⟨r, hr, hq⟩ := turns_of h4
    subst h0
    exact ⟨a, f, e, _, r, ⟨fun _ => h.1, rfl, v, hf, rfl, h1, fun hs => by simpa [hs] using h2, fun hr => by simpa [hr] using h3⟩, hr, hq⟩

theorem test_hyps_STwoOperandForms : Ready .s none none 1 true (on .s base) (on .s base) ∧ Ready .s none none 2 true (on .s base) (on .s base) :=
  ⟨ready_of (by decide +kernel), ready_of (by decide +kernel)⟩
/-- The same forms in the handler. -/
theorem test_hyps_handler : Ready .s none none 1 true (inH (on .s base)) (inH (on .s base)) :=
  ⟨by decide +kernel, fun _ _ => by decide +kernel, by decide +kernel, .inl (by decide +kernel), rfl, fun d hd => by cases hd⟩
/-- And with a token taken and a token to give. -/
theorem test_hyps_tokens : ∃ s u, Ready .s (some .a) (some .p) 1 false s u := by
  obtain ⟨u, h, hr⟩ := some_of (p := fun u => u.core.tokRoom .s .p)
    (o := ((on .s base).onCore (Core.addTok .a .s fun _ => 1)).takeWait (some .a)) (by decide +kernel)
  exact ⟨_, u, by decide +kernel, fun h => absurd h (by decide +kernel), by decide +kernel, .inl (by decide +kernel), h, fun d hd => by cases hd; exact hr⟩

theorem test_hyps_SRemainingForms : Ready .s none none 1 true (on .s base) (on .s base) ∧ Ready .s none none 2 true (on .s base) (on .s base) ∧
    (0 : Fin 64).val + (63 : Fin 64).val < 64 := ⟨ready_of (by decide +kernel), ready_of (by decide +kernel), by decide⟩
theorem test_hyps_KWrites : (on .s base).core.journalRoom 1 = true ∧ Ready .s none none 1 false (on .s base) (on .s base) ∧
    Ready .s none none 2 false (on .s base) (on .s base) := ⟨by decide +kernel, ready_of (by decide +kernel), ready_of (by decide +kernel)⟩

theorem local_none {s : State} (h : s.core.port.pend = [] ∧ s.core.port.early = none) (l : Loc) (n : Nat) (c : Ocl) : s.loadLocal l n c = none := by
  cases l with
  | mem a f => simp [State.loadLocal, forwarded, h.1, h.2]
  | win a b d => rfl
/-- S with a store of two bytes that has not performed. -/
def storing : State := (on .s base).onPort fun p => { p with pend := [⟨.s, 3, 0, none, [.store (.mem 0x9000 0) [1, 2] Mark.empty], 0, Mark.empty, false⟩] }
def forwardedAt (l : Loc) (p : List Pend) : Option (List Byte × Mark) := match l with
  | .mem a _ => forwarded a 1 p
  | .win .. => none
theorem local_some {s : State} {a f : Nat} {c : Ocl} {bs : List Byte} {m : Mark} (hc : Config.choice s.ticks 7 % 2 = 1)
    (h : forwarded a 1 s.core.port.pend.reverse = some (bs, m)) : s.loadLocal (.mem a f) 1 c = some (bs, (s.pageMark f).union m) := by
  simp [State.loadLocal, State.pick, hc, h]

/-- A load of the last doubleword of a page, of a word of the core's own window, of a byte of a store still to perform; a store of a byte. (Whether a
load takes the bytes of a store that has not performed is a free value, so its witness names the value.) -/
theorem test_hyps_LoadsAndStores :
    Ready .s none none 1 true (on .s base) (on .s base) ∧ Ready .s none none 2 true (on .s base) (on .s base) ∧
    (∃ t l v r, Reaches .ls false true false 8 3 15 0xFFF8 t l (on .s base) v ∧ (on .s base).loadLocal l 8 15 = none ∧
      v.mustWait 15 (l.keys 8) = false ∧ Turns l v r) ∧
    (∃ t v r c row o, Reaches .ls false true false 4 2 0 0x400000FC t (.win c row o) (on .s base) v ∧ (on .s base).loadLocal (.win c row o) 4 0 = none ∧
      v.mustWait 0 ((Loc.win c row o).keys 4) = false ∧ Turns (.win c row o) v r) ∧
    (Config.choice storing.ticks 7 % 2 = 1 → ∃ t l v bs m, Reaches .ls false true false 1 0 3 0x9001 t l storing v ∧
      storing.loadLocal l 1 3 = some (bs, m)) ∧
    (∃ t l v, Reaches .ls true false false 1 0 15 0xFFFF t l (on .s base) v) := by
  refine ⟨ready_of (by decide +kernel), ready_of (by decide +kernel), ?_, ?_, ?_, ?_⟩
  · obtain ⟨t, l, v, h, hq⟩ := reaches_of (q := fun _ l v => turnsB (fun _ => true) l v && !v.mustWait 15 (l.keys 8)) (s := on .s base) (cls := .ls) (wr := false)
      (rd := true) (sync := false) (align := 8) (lg := 3) (ocl := 15) (ea := 0xFFF8) (by decide +kernel)
    rw [Bool.and_eq_true, Bool.not_eq_true'] at hq
    obtain ⟨r, hr, -⟩ := turns_of hq.1
    exact ⟨t, l, v, r, h, local_none (by decide +kernel) l 8 15, hq.2, hr⟩
  · obtain ⟨t, l, v, h, hq⟩ := reaches_of (q := fun _ l v => turnsB (fun _ => isWin l) l v && !v.mustWait 0 (l.keys 4)) (s := on .s base) (cls := .ls) (wr := false) (rd := true)
      (sync := false) (align := 4) (lg := 2) (ocl := 0) (ea := 0x400000FC) (by decide +kernel)
    rw [Bool.and_eq_true, Bool.not_eq_true'] at hq
    obtain ⟨r, hr, hw⟩ := turns_of hq.1
    obtain ⟨a, b, c, rfl⟩ := win_of hw
    exact ⟨t, v, r, a, b, c, h, rfl, hq.2, hr⟩
  · intro (hc : Config.choice storing.ticks 7 % 2 = 1)
    obtain ⟨t, l, v, h, hq⟩ := reaches_of (q := fun _ l _ => decide (forwardedAt l [⟨.s, 3, 0, none, [.store (.mem 0x9000 0) [1, 2] Mark.empty], 0, Mark.empty, false⟩] = some ([2], Mark.empty)))
      (s := storing)
      (cls := .ls) (wr := false) (rd := true) (sync := false) (align := 1) (lg := 0) (ocl := 3) (ea := 0x9001) (by decide +kernel)
    cases l with
    | mem a f => exact ⟨t, _, v, _, _, h, local_some hc (of_decide_eq_true hq)⟩
    | win c r o => exact absurd (of_decide_eq_true hq) (by simp [forwardedAt])
  · obtain ⟨t, l, v, h, -⟩ := reaches_of (q := fun _ _ _ => true) (s := on .s base) (cls := .ls) (wr := true) (rd := false) (sync := false)
      (align := 1) (lg := 0) (ocl := 15) (ea := 0xFFFF) (by decide +kernel)
    exact ⟨t, l, v, h⟩

theorem test_hyps_Atomics : Ready .s none none 1 true (on .s base) (on .s base) ∧ Ready .s none none 2 true (on .s base) (on .s base) ∧
    (∃ a f e v r, Reaches .home true true true 4 2 15 0xFFFC (.mem a f false e) (.mem a f) (on .s base) v ∧
      Turns (.mem a f) v r (natLe ((v.x 1).val.toNat % 2 ^ 32) 4)) ∧
    (∃ a f e v r, Reaches .home true true true 8 3 0 0xFFF8 (.mem a f false e) (.mem a f) (on .s base) v ∧
      Turns (.mem a f) v r (natLe ((v.x 1).val.toNat % 2 ^ 64) 8 ++ natLe ((v.x 2).val.toNat % 2 ^ 64) 8)) := by
  refine ⟨ready_of (by decide +kernel), ready_of (by decide +kernel), ?_, ?_⟩
  · obtain ⟨a, f, e, v, r, h, hr, -⟩ := reaches_mem (q := fun _ _ _ => true) (bs := fun v => natLe ((v.x 1).val.toNat % 2 ^ 32) 4) (s := on .s base)
      (cls := .home) (wr := true) (rd := true) (sync := true) (align := 4) (lg := 2) (ocl := 15) (ea := 0xFFFC) (by decide +kernel)
    exact ⟨a, f, e, v, r, h, hr⟩
  · obtain ⟨a, f, e, v, r, h, hr, -⟩ := reaches_mem (q := fun _ _ _ => true) (s := on .s base) (cls := .home) (wr := true) (rd := true) (sync := true) (align := 8) (lg := 3)
      (bs := fun v => natLe ((v.x 1).val.toNat % 2 ^ 64) 8 ++ natLe ((v.x 2).val.toNat % 2 ^ 64) 8) (ocl := 0) (ea := 0xFFF8) (by decide +kernel)
    exact ⟨a, f, e, v, r, h, hr⟩

/-- An accepted store of S in class 3. -/
def stored : Pend := ⟨.s, 3, 0, none, [.store (.mem 0x9000 0) [1, 2] Mark.empty], 0, Mark.empty, false⟩

theorem test_hyps_FencesAndWaits :
    let s := (on .s base).onPort fun p => { p with pend := [stored] }
    let w := (on .s base).onWaits fun x => { x with waitm := some ⟨0x2000, none, Mark.empty, some 3⟩ }
    (Ready .s none none 2 false s s ∧ (8 : W16) ≠ 0 ∧ (0xFFF7 : W16) ≠ 0 ∧ ∀ p ∈ s.core.port.pend, p.eng = .s → (0xFFF7 : W16).toNat / 2 ^ p.cls.val % 2 = 0) ∧
    (Ready .s none none 1 true (on .s base) (on .s base) ∧ (on .s base).core.waits.waitm = none ∧
      (∃ t l v r hpa frame, Reaches .home false true true 8 3 0 0 t l (on .s base) v ∧ Turns l v r ∧ l = .mem hpa frame ∧
        BitVec.ofNat 64 (leNat (r.readLoc l 8).1) = (r.x 0).val) ∧
      (∃ t l v r, Reaches .home false true true 8 3 0 0x10000 t l (on .s base) v ∧ Turns l v r ∧ BitVec.ofNat 64 (leNat (r.readLoc l 8).1) ≠ (r.x 0).val)) ∧
    (Ready .s none none 2 true w w ∧ w.core.waits.waitm = some ⟨0x2000, none, Mark.empty, some 3⟩) := by
  refine ⟨⟨ready_of (by decide +kernel), by decide +kernel⟩, ⟨ready_of (by decide +kernel), by decide +kernel, ?_, ?_⟩, ready_of (by decide +kernel), by decide +kernel⟩
  · obtain ⟨a, f, e, v, r, h, hr, hq⟩ := reaches_mem (bs := fun _ => []) (q := fun a f r => decide (BitVec.ofNat 64 (leNat (r.readLoc (.mem a f) 8).1) = (r.x 0).val)) (s := on .s base) (cls := .home)
      (wr := false) (rd := true) (sync := true) (align := 8) (lg := 3) (ocl := 0) (ea := 0) (by decide +kernel)
    exact ⟨_, _, v, r, a, f, h, hr, rfl, of_decide_eq_true hq⟩
  · obtain ⟨a, f, e, v, r, h, hr, hq⟩ := reaches_mem (bs := fun _ => []) (q := fun a f r => decide (BitVec.ofNat 64 (leNat (r.readLoc (.mem a f) 8).1) ≠ (r.x 0).val)) (s := on .s base) (cls := .home)
      (wr := false) (rd := true) (sync := true) (align := 8) (lg := 3) (ocl := 0) (ea := 0x10000) (by decide +kernel)
    exact ⟨_, _, v, r, h, hr, of_decide_eq_true hq⟩

/-- A barrier object at 0x8000, and a level that counts n cores. -/
def barMem (arrived expect state : Nat) (s : State) : State := s.poke 0x8000 (natLe arrived 4 ++ natLe 7 4 ++ natLe expect 4 ++ natLe state 1)
def domOf (n : W64) (s : State) : State := s.onRegs fun r => { r with dom := Vector.replicate 5 n }
/-- BAR's access of it, and what the object then holds. -/
abbrev barMet (s : State) (q : Nat → State → Prop) : Prop :=
  Ready .s none none 1 false s s ∧ s.core.waits.bar = none ∧ s.domCount .group ≠ 0 ∧ s.core.storesIn 0xFFFF = false ∧
  ∃ a f e v r, Reaches .home true true true 16 4 0 (s.x 1).val (.mem a f false e) (.mem a f) s v ∧ Turns (.mem a f) v r ∧ q a r

theorem bar_of {q : Nat → State → Bool} {s : State} (h0 : (s.act == .s && !s.core.regs.hmode && !s.me.done && !s.core.slips .s 1) = true)
    (h1 : s.core.waits.bar = none ∧ s.domCount .group ≠ 0 ∧ s.core.storesIn 0xFFFF = false)
    (h : (decide ((s.x 1).val.toNat % 16 = 0) && okB (fun t v => match t with
      | .mem a f sum _ => !sum && !v.locBad (.mem a f) (2 ^ 4) && (!true || !v.mustWait 0 ((Loc.mem a f).keys (2 ^ 4))) &&
          (!true || (v.locPoison (.mem a f) (2 ^ 4)).isNone) && turnsB (q a) (.mem a f) (v.noteAccess 0 ((Loc.mem a f).keys (2 ^ 4)))
      | _ => false) (s.translate s.who .home true (s.x 1).val)) = true) : barMet s fun a r => q a r = true := by
  obtain ⟨a, f, e, v, r, h, hr, hq⟩ := reaches_mem (bs := fun _ => []) (q := fun a _ => q a) h
  exact ⟨ready_of h0, h1.1, h1.2.1, h1.2.2, a, f, e, v, r, h, hr, hq⟩

theorem test_hyps_Barriers :
    let s := domOf 0x300000000 (withX 1 0x8000 (on .s base))
    barMet (barMem 2 3 1 s) (fun a r => decide ((r.barObj a).state = 1) = true) ∧
    barMet (barMem 1 4 0 s) (fun a r => decide ((r.barObj a).state ≠ 1 ∧ (r.barObj a).arrived ≠ 0 ∧ (r.barObj a).expect ≠ s.domCount .group) = true) ∧
    barMet (barMem 0 0 0 s) (fun a r => decide ((r.barObj a).state ≠ 1 ∧ (r.barObj a).arrived = 0 ∧ (r.barObj a).arrived + 1 ≠ s.domCount .group) = true) ∧
    barMet (barMem 2 3 0 s) (fun a r => decide ((r.barObj a).state ≠ 1 ∧ (r.barObj a).expect = s.domCount .group ∧ (r.barObj a).arrived + 1 = s.domCount .group) = true) ∧
    (let t := s.onWaits fun x => { x with bar := some ⟨0x8000, 0, 7, Mark.empty, some (2, 8), false⟩ }
     Ready .s none none 1 false t t ∧ t.core.waits.bar = some ⟨0x8000, 0, 7, Mark.empty, some (2, 8), false⟩) ∧
    -- a BAR that goes on after a stop: its object killed, in another generation, in the same
    (∀ p ∈ [(1, 7), (0, 6), (0, 7)], let x : BarState := ⟨0x8000, 0, BitVec.ofNat 32 p.2, Mark.empty, none, true⟩
      let t := (barMem 2 3 p.1 s).onWaits fun w => { w with bar := some x }
      (t.core.waits.bar = some x ∧ t.poisoned 0x8000 16 = false) ∧ ∃ z, Turns (.mem 0x8000 0) t z ∧
        decide ((z.barObj 0x8000).state = p.1 ∧ ((z.barObj 0x8000).gen = x.gen ↔ p.2 = 7)) = true) ∧
    Ready .s none none 2 false s s := by
  refine ⟨bar_of (by decide +kernel) (by decide +kernel) (by decide +kernel), bar_of (by decide +kernel) (by decide +kernel) (by decide +kernel),
    bar_of (by decide +kernel) (by decide +kernel) (by decide +kernel),
    bar_of (by decide +kernel) (by decide +kernel) (by decide +kernel), ⟨ready_of (by decide +kernel), by decide +kernel⟩, ?_, ready_of (by decide +kernel)⟩
  intro p hp
  have hp : p = (1, 7) ∨ p = (0, 6) ∨ p = (0, 7) := by simpa using hp
  rcases hp with rfl | rfl | rfl <;> exact ⟨by decide +kernel, turns_of (bs := []) (by decide +kernel)⟩

theorem test_hyps_SchedulingAndFeeding :
    let s := on .s base
    let last := s.onPlace fun p => { p with cursor := 3 }
    let full := s.setVf 0 fun v => { v with launch := List.replicate 256 ⟨0, none, 0⟩ }
    (Ready .s none none 1 false s s ∧ s.curTask = some tblTask ∧ tblTask.r.static = true ∧ s.core.journalRoom 4 = true ∧
      min (s.core.place.cursor + 1) s.core.place.count < s.core.place.count) ∧
    (Ready .s none none 1 false last last ∧ last.curTask = some tblTask ∧ last.core.place.count ≤ min (last.core.place.cursor + 1) last.core.place.count) ∧
    (Ready .s none none 1 true s s ∧ (s.x 0).val.toNat % 128 = 0 ∧ s.core.storesIn 0xFFFF = false ∧ (s.vfAt s.core.place.vf).launch.length < 256) ∧
    (Ready .s none none 1 true full full ∧ (full.x 0).val.toNat % 128 = 0 ∧ full.core.storesIn 0xFFFF = false ∧ 256 ≤ (full.vfAt full.core.place.vf).launch.length) ∧
    (s.core.q.fq.length < 8 ∧ fmtwOk ((s.x 0).val.extractLsb' 0 32) = true ∧ Ready .s none none 2 false s s ∧ fmtwOk 0x7FFFFF99 = true) := by
  exact ⟨⟨ready_of (by decide +kernel), by decide +kernel⟩, ⟨ready_of (by decide +kernel), by decide +kernel⟩, ⟨ready_of (by decide +kernel), by decide +kernel⟩,
    ⟨ready_of (by decide +kernel), by decide +kernel⟩, by decide +kernel, by decide +kernel, ready_of (by decide +kernel), by decide +kernel⟩

theorem test_hyps_InCoreHandler :
    let s := (on .s base).onRegs fun r => { r with hvec := 0x80003FFF }
    (Ready .s none none 1 false s s ∧ s.core.regs.hmode = false ∧ bit s.core.regs.hvec 31 = true) ∧
    ((inH s).act = .s ∧ (inH s).core.regs.hmode = true) := ⟨⟨ready_of (by decide +kernel), by decide +kernel⟩, by decide +kernel⟩

theorem test_hyps_SystemRegisters :
    let s := on .s base
    Ready .s none none 1 true s s ∧ (0x100 ≤ (0x100#11).toNat ∧ 0x100 ≤ (0x7FF#11).toNat) ∧
    ((0x0FF#11).toNat < 0x100 ∧ s.sysReg 0x0FF = none ∧ (0x013#11).toNat < 0x100 ∧ s.sysReg 0x013 = none) ∧
    ((0x002#11).toNat < 0x100 ∧ (0x002#11) ∉ ([0x001, 0x006, 0x010, 0x012] : List (BitVec 11))) ∧
    (s.core.regs.bkpt.getLsbD 27 = false ∧ (s.onRegs fun r => { r with bkpt := 0x08000000 }).core.regs.bkpt.getLsbD 27 = true) ∧
    (s.core.journalRoom 1 = true ∧ after (s.core.eng .a).six (s.core.eng .s).six = false) := ⟨ready_of (by decide +kernel), by decide +kernel⟩

theorem test_hyps_PortAccepts : base.abuf.counted = false ∧ (base.onPort fun p => { p with abuf := some ⟨true, [], 0, Mark.empty, 0, none⟩ }).abuf.counted = true := by decide +kernel

/-- Tensor 1: one dimension of 3 rows of a dense FP32 tensor in blocks of 2, its one tile at 0x60000; its table at 0x50000 (R270 to R278). -/
def tensed (s : State) : State :=
  (((s.poke 0x50020 (natLe 0x52000 8 ++ natLe 0x53000 8 ++ natLe 1 4 ++ natLe 1 4)).poke 0x52004 ([0, 1, 2, 0] ++ natLe 3 4)).poke 0x53000 (natLe 0x60001 3)).onRegs
    fun r => { r with ttb := 0x50001, ttbA := 0x50001 }
/-- Entries in a store queue and in a load queue. -/
def withSq (q : Fin 2) (n : Nat) (s : State) : State := s.onCore (Core.setSq q (List.replicate n ⟨5, 0, Mark.empty⟩))

/-- The block of rows 2 and 3: one inside, one outside. -/
def wT : State := withSq 0 2 (withK 0 2 (tensed (on .a base)))

/-- A copy of it that was accepted and then faulted: the plan of the copy stands. -/
def planned (s : State) : State := match planCopy 0 1 .strict s with
  | (.ok p, v) => v.onPort fun q => { q with abuf := some ⟨true, [], 0, Mark.empty, 0, some { p with rows := [some (0, 0), none] }⟩ }
  | (.error _, _) => s

theorem test_hyps_TensorCopies :
    (Ready .a none none 2 false wT wT ∧ wT.kAhead = false ∧ wT.core.portFull = false ∧ wT.lqBound 3 = false ∧ wT.sqBound 0 = false ∧
      wT.core.port.abuf.bind ABuf.plan = none) ∧
    (∃ p l v r, issued (planCopy 0 1 .strict) wT = (.ok p, v) ∧ landRows p.t false p.rowsA v = (.ok l, r) ∧ (8126 : RowIx).val + max 1 p.t.brows ≤ 8128) ∧
    (∃ p l v r, issued (planCopy 0 1 .segment) wT = (.ok p, v) ∧ landRows p.t true p.rowsB v = (.ok l, r) ∧ (8126 : RowIx).val + max 1 p.t.brows ≤ 8128) ∧
    (∃ p l v r, issued (planCopy 0 1 .strict) wT = (.ok p, v) ∧ p.t.brows ≤ (v.popInto 0 p.t.brows).abuf.popped.length ∧
      landRows p.t true p.rowsB (v.popInto 0 p.t.brows) = (.ok l, r)) ∧
    (∃ a b cs km ra rb ma mb la lb v2 v3 v4 v5 v6 r, getTensors 1 1 wT = (.ok (a, b), v2) ∧
      (a.fmt = b.fmt ∧ a.rank = b.rank ∧ a.brows = b.brows ∧ a.ragged = b.ragged) ∧ coords 0 a.rank v2 = (.ok (cs, km), v3) ∧
      classify a cs .strict v3 = (.ok (ra, ma), v4) ∧ classify b cs .strict v4 = (.ok (rb, mb), v5) ∧
      landRows a false ((bothRows ra rb).map fun x => x.map Prod.fst) v5 = (.ok la, v6) ∧
      landRows b true ((bothRows ra rb).map fun x => x.map Prod.snd) v6 = (.ok lb, r)) ∧
    (∃ a b cs km e0 me x y v2 v3 v4 v5 r, getTensors 1 1 wT = (.ok (a, b), v2) ∧ coords 0 a.rank v2 = (.ok (cs, km), v3) ∧
      (if a.pitch0 = 0 then extent0 a else tryRet (0, Mark.empty)) v3 = (.ok (e0, me), v4) ∧
      landRow a 65536 false (linearRow a cs e0 (cs.getD 0 0) / 256 * 256) v4 = (.ok x, v5) ∧
      landRow b 65536 true (linearRow a cs e0 (cs.getD 0 0) / 256 * 256) v5 = (.ok y, r)) ∧
    (Ready .a none none 2 false (planned wT) (planned wT) ∧ (planned wT).kAhead = false ∧ (planned wT).core.portFull = false ∧
      (∃ p la lb v r, (planned wT).core.port.abuf.bind ABuf.plan = some p ∧ landRows p.t false p.rowsA (planned wT) = (.ok la, v) ∧
        landRows p.u true p.rowsB v = (.ok lb, r)) ∧
      (∃ p lin k rest x y v r, (planned wT).core.port.abuf.bind ABuf.plan = some p ∧ p.rows = some (lin, k) :: rest ∧
        landRow p.t 65536 false lin (planned wT) = (.ok x, v) ∧ landRow p.u 65536 true lin v = (.ok y, r))) := by
  refine ⟨⟨ready_of (by decide +kernel), by decide +kernel⟩, ?_, ?_, ?_, ?_, ?_, ready_of (by decide +kernel), by decide +kernel, by decide +kernel, ?_, ?_⟩
  · obtain ⟨p, v, h, hq⟩ := okB_of (p := fun (p : Plan) (v : State) => okB (fun (_ : List (Option Landed)) (_ : State) => decide ((8126 : RowIx).val + max 1 p.t.brows ≤ 8128)) (landRows p.t false p.rowsA v))
      (r := issued (planCopy 0 1 .strict) wT) (by decide +kernel)
    obtain ⟨l, r, hl, hb⟩ := okB_of hq
    exact ⟨p, l, v, r, h, hl, of_decide_eq_true hb⟩
  · obtain ⟨p, v, h, hq⟩ := okB_of (p := fun (p : Plan) (v : State) => okB (fun (_ : List (Option Landed)) (_ : State) => decide ((8126 : RowIx).val + max 1 p.t.brows ≤ 8128)) (landRows p.t true p.rowsB v))
      (r := issued (planCopy 0 1 .segment) wT) (by decide +kernel)
    obtain ⟨l, r, hl, hb⟩ := okB_of hq
    exact ⟨p, l, v, r, h, hl, of_decide_eq_true hb⟩
  · obtain ⟨p, v, h, hq⟩ := okB_of (p := fun (p : Plan) (v : State) => okB (fun (_ : List (Option Landed)) (_ : State) => decide (p.t.brows ≤ (v.popInto 0 p.t.brows).abuf.popped.length))
      (landRows p.t true p.rowsB (v.popInto 0 p.t.brows))) (r := issued (planCopy 0 1 .strict) wT) (by decide +kernel)
    obtain ⟨l, r, hl, hb⟩ := okB_of hq
    exact ⟨p, l, v, r, h, of_decide_eq_true hb, hl⟩
  · obtain ⟨⟨a, b⟩, v2, h2, hq⟩ := okB_of (p := fun (t : Tensor × Tensor) (v2 : State) =>
      decide (t.1.fmt = t.2.fmt ∧ t.1.rank = t.2.rank ∧ t.1.brows = t.2.brows ∧ t.1.ragged = t.2.ragged) &&
      okB (fun (x : List Int × Mark) (v3 : State) => okB (fun (y : List (Option Int) × Mark) (v4 : State) => okB (fun (z : List (Option Int) × Mark) (v5 : State) =>
        okB (fun (_ : List (Option Landed)) (v6 : State) => okB (fun (_ : List (Option Landed)) (_ : State) => true)
          (landRows t.2 true ((bothRows y.1 z.1).map fun x => x.map Prod.snd) v6))
        (landRows t.1 false ((bothRows y.1 z.1).map fun x => x.map Prod.fst) v5)) (classify t.2 x.1 .strict v4)) (classify t.1 x.1 .strict v3)) (coords 0 t.1.rank v2))
      (r := getTensors 1 1 wT) (by decide +kernel)
    rw [Bool.and_eq_true] at hq
    obtain ⟨x, v3, h3, hr⟩ := okB_of hq.2
    obtain ⟨y, v4, h4, hr⟩ := okB_of hr
    obtain ⟨z, v5, h5, hr⟩ := okB_of hr
    obtain ⟨la, v6, h6, hr⟩ := okB_of hr
    obtain ⟨lb, r, h7, -⟩ := okB_of hr
    exact ⟨a, b, x.1, x.2, y.1, z.1, y.2, z.2, la, lb, v2, v3, v4, v5, v6, r, h2, of_decide_eq_true hq.1, h3, h4, h5, h6, h7⟩
  · obtain ⟨⟨a, b⟩, v2, h2, hq⟩ := okB_of (p := fun (t : Tensor × Tensor) (v2 : State) => okB (fun (x : List Int × Mark) (v3 : State) =>
        okB (fun (e : Nat × Mark) (v4 : State) => okB (fun (_ : Landed) (v5 : State) => okB (fun (_ : Landed) (_ : State) => true)
        (landRow t.2 65536 true (linearRow t.1 x.1 e.1 (x.1.getD 0 0) / 256 * 256) v5)) (landRow t.1 65536 false (linearRow t.1 x.1 e.1 (x.1.getD 0 0) / 256 * 256) v4))
        ((if t.1.pitch0 = 0 then extent0 t.1 else tryRet (0, Mark.empty)) v3)) (coords 0 t.1.rank v2)) (r := getTensors 1 1 wT) (by decide +kernel)
    obtain ⟨x, v3, h3, hr⟩ := okB_of hq
    obtain ⟨e, v4, h4, hr⟩ := okB_of hr
    obtain ⟨y, v5, h5, hr⟩ := okB_of hr
    obtain ⟨z, r, h6, -⟩ := okB_of hr
    exact ⟨a, b, x.1, x.2, e.1, e.2, y, z, v2, v3, v4, v5, r, h2, h3, h4, h5, h6⟩
  · obtain ⟨p, h, hq⟩ := some_of (p := fun (p : Plan) => okB (fun (_ : List (Option Landed)) (v : State) => okB (fun (_ : List (Option Landed)) (_ : State) => true)
      (landRows p.u true p.rowsB v)) (landRows p.t false p.rowsA (planned wT))) (o := (planned wT).core.port.abuf.bind ABuf.plan) (by decide +kernel)
    obtain ⟨la, v, h1, hq⟩ := okB_of hq
    obtain ⟨lb, r, h2, -⟩ := okB_of hq
    exact ⟨p, la, lb, v, r, h, h1, h2⟩
  · obtain ⟨p, h, hq⟩ := some_of (p := fun (p : Plan) => decide (p.rows = some (0, 0) :: [none]) && okB (fun (_ : Landed) (v : State) => okB (fun (_ : Landed) (_ : State) => true)
      (landRow p.u 65536 true 0 v)) (landRow p.t 65536 false 0 (planned wT))) (o := (planned wT).core.port.abuf.bind ABuf.plan) (by decide +kernel)
    rw [Bool.and_eq_true, decide_eq_true_eq] at hq
    obtain ⟨x, v, h1, hr⟩ := okB_of hq.2
    obtain ⟨y, r, h2, -⟩ := okB_of hr
    exact ⟨p, 0, 0, _, x, y, v, r, h, hq.1, h1, h2⟩

theorem pair_of {α β : Type} {f : α × β} {P : α → Prop} (h : P f.1) : ∃ l r, f = (l, r) ∧ P l := ⟨f.1, f.2, rfl, h⟩

/-- Elements of an index row of zeros, at the last row below the carry tile. -/
theorem test_hyps_GatherScatter :
    let u := withSq 1 1 (on .a base)
    (Ready .a none none 2 false u u ∧ u.kAhead = false ∧ u.core.portFull = false ∧ (8127 : RowIx).val < 8128 ∧ u.rowBusy 8127 = false ∧ u.core.port.abuf = none ∧
      u.lqBound 0 = false ∧ u.sqBound 1 = false ∧ u.core.q.sq[(1 : Fin 2)] = ⟨5, 0, Mark.empty⟩ :: []) ∧
    (∃ l r, checkElems false 4 (u.kp 0).val (u.core.row 8127).val 0 (elemCount 4) 0 u = (l, r) ∧ chosen l = none) ∧
    (∃ l r, checkElems true 8 (u.kp 14).val (u.core.row 8127).val 0 (elemCount 8) 0 u = (l, r) ∧ chosen l = none) ∧
    (∃ l r, checkElems true 1 (u.kp 0).val (u.core.row 8127).val 0 (elemCount 1) 0 (u.onCore (Core.setSq 1 [])) = (l, r) ∧ chosen l = none) ∧
    -- a word that goes on after a fault, 17 of its elements done
    (let b : ABuf := ⟨true, [], 0x155, Mark.empty, 0x1FFFF, none⟩
     let h := u.onPort fun p => { p with abuf := some b }
     Ready .a none none 2 false h h ∧ h.kAhead = false ∧ h.core.portFull = false ∧ h.rowBusy 8127 = false ∧ h.core.port.abuf = some b ∧
      (∃ l r, checkElems false 4 (h.kp 0).val (h.core.row 8127).val b.done (elemCount 4) 0 h = (l, r) ∧ chosen l = none) ∧
      (∃ l r, checkElems true 4 (h.kp 0).val (h.core.row 8127).val b.done (elemCount 4) 0 h = (l, r) ∧ chosen l = none)) := by
  exact ⟨⟨ready_of (by decide +kernel), by decide +kernel⟩, pair_of (by decide +kernel), pair_of (by decide +kernel), pair_of (by decide +kernel),
    ready_of (by decide +kernel), by decide +kernel, by decide +kernel, by decide +kernel, by decide +kernel, pair_of (by decide +kernel),
    pair_of (by decide +kernel)⟩

theorem test_hyps_RowsAndReferences :
    let u := withK 3 0x1FC0 (withSq 1 1 (on .a base))
    (Ready .a none none 1 false u u ∧ Ready .a none none 2 false u u ∧ u.kAhead = false) ∧
    (namedRow 8127 none u < 8128 ∧ namedRow 8191 (some 3) u = 8127 ∧ u.lqBound 2 = false ∧ u.rowBusy 8127 = false ∧ u.core.rowsPending = false ∧
      u.core.pushesPending 2 = false ∧ (u.core.q.lq[(2 : Fin 4)]).length < 16) ∧
    (u.sqBound 1 = false ∧ u.core.q.sq[(1 : Fin 2)] = ⟨5, 0, Mark.empty⟩ :: []) ∧
    (let ref : W64 := ((0 : BitVec 13) ++ (0x4007F100 : W32)).setWidth 64
     fld ref 0 4 = 0 ∧ (∀ x ∈ refRows ref, x < 8128) ∧ u.groupBusy (refGroup ref) = false ∧ u.core.q.ma.length < 8 ∧ u.core.q.mb.length < 8) := by
  exact ⟨⟨ready_of (by decide +kernel), ready_of (by decide +kernel), by decide +kernel⟩, by decide +kernel, by decide +kernel, by decide +kernel⟩

theorem test_hyps_TagWaits :
    let u := (withK 4 0x80000000 (withK 5 0x80000000 (on .a base))).onRegs fun r => { r with ctags := 0xFFFFFFFF80000000 }
    (Ready .a none none 1 false u u ∧ Ready .a none none 2 false u u ∧ u.kAhead = false) ∧
    ((u.kp 4).val ≠ 0 ∧ u.core.regs.ctags &&& (u.kp 4).val ≠ 0 ∧ u.core.regs.ctags &&& (u.kp 4).val = (u.kp 4).val) ∧
    (let m : W64 := (0x80000000 : W32) ++ (0 : W32)
     (u.core.regs.ctags &&& m).getLsbD 63 = true ∧ ∀ j, j < 63 → (u.core.regs.ctags &&& m).getLsbD j = false) ∧
    (u.ffrHeld = none ∧ u.lqBound 3 = false ∧ u.core.rowsPending = false ∧ u.core.pushesPending 3 = false ∧ (u.core.q.lq[(3 : Fin 4)]).length < 16) ∧
    (let h := u.onPort fun p => { p with abuf := some ⟨true, [⟨9, 0, Mark.empty⟩], 0, Mark.empty, 0, none⟩ }
     Ready .a none none 1 false h h ∧ h.ffrHeld = some 9 ∧ h.core.rowsPending = false ∧ h.core.pushesPending 3 = false ∧ (h.core.q.lq[(3 : Fin 4)]).length < 16) := by
  exact ⟨⟨ready_of (by decide +kernel), ready_of (by decide +kernel), by decide +kernel⟩, by decide +kernel, by decide +kernel, by decide +kernel,
    ready_of (by decide +kernel), by decide +kernel⟩

/-- An accumulate to a plain page, and to a sum region: its translation, its entry, and the carry space it takes or the addend it meets. -/
abbrev accMet (ea : W32) (sum : Bool) (q : Core → Option Nat) (u : State) : Prop :=
  Ready .a none none 1 false u u ∧ Ready .a none none 2 false u u ∧ u.kAhead = false ∧ u.sqBound 0 = false ∧ u.core.portFull = false ∧
  (u.kp 2).val = ea.setWidth 64 ∧ (ea.toNat % 512 = 0) ∧
  ∃ hpa frame e v ix, u.translate u.who .aacc true (u.kp 2).val = (.ok (.mem hpa frame sum e), v) ∧ v.core.q.sq[(0 : Fin 2)] = ⟨5, 0, Mark.empty⟩ :: [] ∧
    v.locBad (.mem hpa frame) (if sum then 512 else 256) = false ∧ hpa = ea.toNat ∧ q (v.core.setSq 0 []) = some ix
def accB (a : Nat) (sum : Bool) (q : Core → Option Nat) (r : Except TrErr Target × State) : Bool := okB (fun t v => match t with
  | .mem h f x _ => x == sum && decide (v.core.q.sq[(0 : Fin 2)] = ⟨5, 0, Mark.empty⟩ :: [] ∧ h = a) && !v.locBad (.mem h f) (if sum then 512 else 256) &&
      (q (v.core.setSq 0 [])).isSome
  | _ => false) r
theorem acc_of {a : Nat} {sum : Bool} {q : Core → Option Nat} {r : Except TrErr Target × State} (h : accB a sum q r = true) :
    ∃ hpa frame e v ix, r = (.ok (.mem hpa frame sum e), v) ∧ v.core.q.sq[(0 : Fin 2)] = ⟨5, 0, Mark.empty⟩ :: [] ∧
      v.locBad (.mem hpa frame) (if sum then 512 else 256) = false ∧ hpa = a ∧ q (v.core.setSq 0 []) = some ix := by
  obtain ⟨t, v, hr, hp⟩ := okB_of h
  cases t with
  | mem b f x e =>
    simp only [Bool.and_eq_true, beq_iff_eq, decide_eq_true_eq, Bool.not_eq_true'] at hp
    obtain ⟨⟨⟨rfl, h2, h3⟩, h4⟩, h5⟩ := hp
    obtain ⟨ix, hx⟩ := Option.isSome_iff_exists.mp h5
    exact ⟨b, f, e, v, ix, hr, h2, h4, h3, hx⟩
  | _ => exact absurd hp Bool.false_ne_true
/-- An accumulate that meets none, takes space; and one that meets a carried one. -/
def alone (a : Nat) (sum : Bool) (c : Core) : Option Nat := if c.mergeWith a sum 15 = none then c.carrySpace (if sum then 2 else 1) else none
theorem acc_met {ea : W32} {sum : Bool} {q : Core → Option Nat} {u : State}
    (h0 : (u.act == .a && !u.core.regs.hmode && !u.me.done && !u.core.slips .a 1 && !u.core.slips .a 2) = true)
    (h1 : u.kAhead = false ∧ u.sqBound 0 = false ∧ u.core.portFull = false ∧ (u.kp 2).val = ea.setWidth 64 ∧ ea.toNat % 512 = 0)
    (h : accB ea.toNat sum q (u.translate u.who .aacc true (u.kp 2).val) = true) : accMet ea sum q u := by
  simp only [Bool.and_eq_true] at h0
  exact ⟨ready_of (by simp only [Bool.and_eq_true]; exact h0.1), ready_of (by simp only [Bool.and_eq_true]; exact ⟨h0.1.1, h0.2⟩), h1.1, h1.2.1, h1.2.2.1, h1.2.2.2.1,
    h1.2.2.2.2, acc_of h⟩
/-- An accumulate to the reduction window of node 0, with and without a reservation of its group. -/
def redWin (held : Bool) : State :=
  let u := withK 2 0x40400000 (withSq 0 1 (on .a base))
  if held then (u.onXr fun x => { x with resv := [⟨9, 0, 0, 1, [255], true⟩] }).onPort fun p => { p with redCredits := [(9, 3)] } else u
theorem test_hyps_Accumulates :
    accMet 0x10000 false (alone 0x10000 false) (withK 2 0x10000 (withSq 0 1 (on .a base))) ∧
    accMet 0x20000200 true (alone 0x20000200 true) (withK 2 0x20000200 (withSq 0 1 (on .a base))) ∧
    accMet 0x10000 false (Core.mergeWith 0x10000 false 15)
      ((withK 2 0x10000 (withSq 0 1 (on .a base))).onCore (Core.setCarry 5 { CarryEntry.free with valid := true, hpa := 0x10000, tags := [7], cls := 15 })) ∧
    (∀ held : Bool, let u := redWin held
      Ready .a none none 1 false u u ∧ Ready .a none none 2 false u u ∧ u.kAhead = false ∧ u.sqBound 0 = false ∧ u.core.portFull = false ∧ (u.kp 2).val.toNat % 512 = 0 ∧
      ∃ y nodes gpa v ix, u.translate u.who .aacc true (u.kp 2).val = (.ok (.red y nodes gpa), v) ∧ v.core.q.sq[(0 : Fin 2)] = ⟨5, 0, Mark.empty⟩ :: [] ∧
        (v.groupResv v.core.place.part (groupKey nodes) ≠ [] ↔ held = true) ∧ (held = true → (v.payer v.core.place.part (groupKey nodes)).isSome = true) ∧
        (v.core.setSq 0 []).carrySpace (if y.sum then 2 else 1) = some ix) := by
  refine ⟨acc_met (by decide +kernel) (by decide +kernel) (by decide +kernel), acc_met (by decide +kernel) (by decide +kernel) (by decide +kernel),
    acc_met (by decide +kernel) (by decide +kernel) (by decide +kernel), fun held => ⟨ready_of (by cases held <;> decide +kernel), ready_of (by cases held <;> decide +kernel),
      by cases held <;> decide +kernel, by cases held <;> decide +kernel, by cases held <;> decide +kernel, by cases held <;> decide +kernel, ?_⟩⟩
  obtain ⟨t, v, h, hq⟩ := okB_of (p := fun (t : Target) (v : State) => match t with
    | .red y nodes _ => decide (v.core.q.sq[(0 : Fin 2)] = ⟨5, 0, Mark.empty⟩ :: [] ∧ (v.groupResv v.core.place.part (groupKey nodes) ≠ [] ↔ held = true) ∧
        (held = true → (v.payer v.core.place.part (groupKey nodes)).isSome = true)) && ((v.core.setSq 0 []).carrySpace (if y.sum then 2 else 1)).isSome
    | _ => false) (r := (redWin held).translate (redWin held).who .aacc true ((redWin held).kp 2).val) (by cases held <;> decide +kernel)
  cases t with
  | red y nodes gpa =>
    simp only [Bool.and_eq_true, decide_eq_true_eq] at hq
    obtain ⟨ix, hx⟩ := Option.isSome_iff_exists.mp hq.2
    exact ⟨y, nodes, gpa, v, ix, h, hq.1.1, hq.1.2.1, hq.1.2.2, hx⟩
  | _ => exact absurd hq Bool.false_ne_true

/-- A carried addend that waits, in the last entry. -/
def carried (s : State) : State := s.onCore (Core.setCarry 63 { CarryEntry.free with valid := true, hpa := 0x4000, tags := [7], cls := 2 })

/-- SUMST of the first 256 KiB of a sum region, MCAST to a window of the group, PREF at the last bytes of a page. -/
theorem test_hyps_FlushSumMulticast :
    (let u := carried (on .a base)
     Ready .a none none 1 false u u ∧ u.core.carriedIx = [63] ∧ ∀ i ∈ u.core.carriedIx, i < 64) ∧
    (let u := withK 2 0x20000000 (on .a base)
     Ready .a none none 1 false u u ∧ Ready .a none none 2 false u u ∧ u.kAhead = false ∧ u.lqBound 1 = false ∧ u.core.portFull = false ∧
     (u.kp 2).val.toNat % 262144 = 0 ∧ ∃ l v, sumPieces 64 (u.kp 2).val u = (.ok l, v)) ∧
    (let u := withK 2 0x40200000 (withSq 0 1 (on .a base))
     Ready .a none none 1 false u u ∧ u.kAhead = false ∧ u.sqBound 0 = false ∧ u.core.portFull = false ∧ (u.kp 2).val.toNat % 256 = 0 ∧
     ∃ row cores nodes v, u.translate u.who .mcast true (u.kp 2).val = (.ok (.rows row cores nodes true), v) ∧ v.core.q.sq[(0 : Fin 2)] = ⟨5, 0, Mark.empty⟩ :: []) := by
  refine ⟨⟨ready_of (by decide +kernel), by decide +kernel⟩, ⟨ready_of (by decide +kernel), ready_of (by decide +kernel), by decide +kernel, by decide +kernel,
    by decide +kernel, by decide +kernel, ?_⟩, ⟨ready_of (by decide +kernel), by decide +kernel, by decide +kernel, by decide +kernel, by decide +kernel, ?_⟩⟩
  · obtain ⟨l, v, h, -⟩ := okB_of (p := fun _ _ => true) (r := sumPieces 64 ((withK 2 0x20000000 (on .a base)).kp 2).val (withK 2 0x20000000 (on .a base)))
      (by decide +kernel)
    exact ⟨l, v, h⟩
  · obtain ⟨t, v, h, hq⟩ := okB_of (p := fun (t : Target) (v : State) => (match t with
      | .rows _ _ _ x => x
      | _ => false) && decide (v.core.q.sq[(0 : Fin 2)] = ⟨5, 0, Mark.empty⟩ :: []))
      (r := (withK 2 0x40200000 (withSq 0 1 (on .a base))).translate (withK 2 0x40200000 (withSq 0 1 (on .a base))).who .mcast true
        ((withK 2 0x40200000 (withSq 0 1 (on .a base))).kp 2).val) (by decide +kernel)
    rw [Bool.and_eq_true, decide_eq_true_eq] at hq
    match t, h, hq with
    | .rows a b c true, h, hq => exact ⟨a, b, c, v, h, hq.2⟩

/-- Core 1 runs the same task, and V has passed the word at which A stands. -/
def paired (s : State) : State :=
  let s := s.onDisp fun d => { d with tasks := [{ tblTask with r := { tblTask.r with cores := 2 }, cores := [(0, .running), (1, .running)] }] }
  let s := s.onEng .v fun x => { x with six := 1 }
  { s with others := s.others.map fun c => { c with place := { c.place with run := .running, task := some 0 } } }

theorem test_hyps_PublishAndBind :
    (Ready .a none none 1 false wT wT ∧ wT.core.storesLeft = false ∧
      ∃ b m v hpa frame sum e x i, getEntry (1 : Fin 256).val wT = (.ok (b, m), v) ∧ entryBad b = false ∧
        v.translate v.who .home true (BitVec.ofNat 64 (leAt b 0 8)) = (.ok (.mem hpa frame sum e), x) ∧ x.mustWait 3 (linesOf hpa 4) = false ∧
        x.turnAt x.core.place.part (x.accessWho 0) (.mem hpa frame) = some i) ∧
    (let u := paired (on .a base)
     Ready .a none none 1 false u u ∧ u.vPassed = true ∧ u.peerState 1 = .runs ∧ u.sqBound 0 = false ∧ u.core.q.sq[(0 : Fin 2)] = [] ∧ 1 ≠ u.core.place.num ∧
     (∃ k, u.coreAt ⟨u.core.place.part, 1⟩ = some k ∧ k.q.boundFrom[(3 : Fin 4)] = none) ∧ u.core.q.bound[(0 : Fin 2)] = none) ∧
    (let u := (paired (on .a base)).onQ fun q => { q with bound := q.bound.set 0 (some ⟨1, 3, 16⟩) }
     Ready .a none none 1 false u u ∧ u.vPassed = true ∧ u.core.q.bound[(0 : Fin 2)] = some ⟨1, 3, 16⟩) := by
  refine ⟨⟨ready_of (by decide +kernel), by decide +kernel, ?_⟩, ⟨ready_of (by decide +kernel), by decide +kernel, by decide +kernel, by decide +kernel,
    by decide +kernel, by decide +kernel, ?_, by decide +kernel⟩, ⟨ready_of (by decide +kernel), by decide +kernel⟩⟩
  · obtain ⟨b, v, h, hq⟩ := okB_of (p := fun (b : List Byte × Mark) (v : State) => !entryBad b.1 && okB (fun (t : Target) (x : State) => match t with
      | .mem a f .. => !x.mustWait 3 (linesOf a 4) && (x.turnAt x.core.place.part (x.accessWho 0) (.mem a f)).isSome
      | _ => false) (v.translate v.who .home true (BitVec.ofNat 64 (leAt b.1 0 8)))) (r := getEntry (1 : Fin 256).val wT) (by decide +kernel)
    rw [Bool.and_eq_true, Bool.not_eq_true'] at hq
    obtain ⟨t, x, hr, ht⟩ := okB_of hq.2
    cases t with
    | mem a f c d =>
      rw [Bool.and_eq_true, Bool.not_eq_true'] at ht
      obtain ⟨i, hi⟩ := Option.isSome_iff_exists.mp ht.2
      exact ⟨b.1, b.2, v, a, f, c, d, x, i, h, hq.1, hr, ht.1, hi⟩
    | _ => exact absurd ht Bool.false_ne_true
  · obtain ⟨k, h, hq⟩ := some_of (p := fun (k : Core) => (k.q.boundFrom[(3 : Fin 4)]).isNone) (o := (paired (on .a base)).coreAt ⟨(paired (on .a base)).core.place.part, 1⟩)
      (by decide +kernel)
    exact ⟨k, h, none_of hq⟩

/-- V with 61 active lanes in segments, and formats 0, 7 and 2. -/
def vsh (v : W32) : State := (on .v base).onRegs fun r => { r with vsh := v }
theorem test_hyps_VectorLanes : Ready .v none none 1 false (vsh 0x8830) (vsh 0x8830) ∧ Ready .v none none 2 false (vsh 0) (vsh 0) :=
  ⟨ready_of (by decide +kernel), ready_of (by decide +kernel)⟩
theorem test_hyps_VectorCompares : (Ready .v none none 1 false (vsh 0) (vsh 0) ∧ (vsh 0).vFmt = 0) ∧ (Ready .v none none 2 false (vsh 7) (vsh 7) ∧ (vsh 7).vFmt = 7) ∧
    (Ready .v none none 1 false (vsh 2) (vsh 2) ∧ Ready .v none none 2 false (vsh 2) (vsh 2) ∧ (vsh 2).vFmt ≠ 0 ∧ (vsh 2).vFmt ≠ 7) :=
  ⟨⟨ready_of (by decide +kernel), by decide +kernel⟩, ⟨ready_of (by decide +kernel), by decide +kernel⟩, ready_of (by decide +kernel), ready_of (by decide +kernel), by decide +kernel⟩
theorem test_hyps_CompareConditions : (val32 0x7F800001).isNan = true ∧ (val32 0x7F800000).isNan = false ∧ (val32 0x80000000).isNan = false := by decide +kernel
/-- Finite lanes at the ends of their range, NaNs, infinities, zeros; scales; a row with an outlier; factors of a K-step. -/
theorem test_hyps_RoundedArithmetic :
    ((val32 1).isFin = true ∧ (val32 0x7F7FFFFF).isFin = true ∧ (val32 0x80000000).isFin = true ∧ (val32 0x7F800001).isNan = true ∧
      val32 0xFF800000 = .inf true ∧ (val32 0x7F7FFFFF).isNan = false ∧ (val32 0x80000000).isZero = true ∧ (val32 0xFF800000).isInf = true) ∧
    ((val32 0x80000001).num < 0 ∧ (val32 1).num = 1 ∧ 128 * 2 ^ 149 ≤ (val32 0x43000000).num ∧ (val32 0xC3180000).num < -151 * 2 ^ 149 ∧
      (val32 0x3F800000).num = ((150 : Int) - 149) * 2 ^ 149 ∧ ((149 : Int) - 149) * 2 ^ 149 ≤ (val32 0x3F000000).num ∧ (val32 0x3F000000).num < ((149 : Int) - 148) * 2 ^ 149 ∧
      (2 : Int) ^ 0 ≤ (val32 1).num ∧ (val32 1).num < 2 ^ 1) ∧
    ((elemFV 0 0x7F800001).isNan = true ∧ (elemFV 2 0x7C00).isInf = true ∧ (elemFV 7 0x80000000).isFin = true ∧ (elemFV 0 0x3F800000).num.natAbs ≤ fp16.maxNum ∧
      2 * fp16.maxNum ≤ (elemFV 0 0x7F7FFFFF).num.natAbs) ∧
    ((fp16.decode 0x7C00).isFin = false ∧ (fp16.decode 0).num = 0 ∧ (fp16.decode 0x3C00).isFin = true ∧ (fp16.decode 0xBC00).num < 0 ∧
      (val32 0x40E00000).num.natAbs ≤ 7 * (fp16.decode 0x3C00).num.natAbs ∧ 8 * (fp16.decode 0x3C00).num.natAbs ≤ (val32 0x41000000).num.natAbs ∧
      (val32 0x43E00000).num.natAbs ≤ 448 * (fp16.decode 0x3C00).num.natAbs) ∧
    (let one : FV := val32 0x3F800000
     let dot : Int := (([one].zip [one]).map fun x => x.1.num * x.2.num).sum
     one.isFin = true ∧ dot + (val32 0x3F800000).num * 2 ^ 149 ≠ 0 ∧ (dot + (val32 0x3F800000).num * 2 ^ 149).natAbs ≤ f32.maxNum * 2 ^ 149 ∧
      (∀ t ∈ [(val32 0x3F800000).num * 2 ^ 149, one.num * one.num], ∀ u ∈ [(val32 0x3F800000).num * 2 ^ 149, one.num * one.num],
        t % 2 ^ (Nat.log2 u.natAbs - 50) = 0) ∧
      dot * one.num * one.num + (val32 0x3F800000).num * 2 ^ 447 ≠ 0 ∧
      (dot * one.num * one.num + (val32 0x3F800000).num * 2 ^ 447).natAbs ≤ f32.maxNum * 2 ^ 447 ∧ (val32 0x7FC00000).isNan = true) := by
  decide +kernel

theorem test_hyps_VectorConversions : Ready .v none none 1 false (vsh 7) (vsh 7) ∧ Ready .v none none 2 false (vsh 7) (vsh 7) ∧ (7 : Fin 10).val < 8 ∧ (30 : VR).val % 2 = 0 :=
  ⟨ready_of (by decide +kernel), ready_of (by decide +kernel), by decide⟩
theorem test_hyps_VectorSegments : (Ready .v none none 1 false (vsh 0x8BF0) (vsh 0x8BF0) ∧ (vsh 0x8BF0).vFmt = 0) ∧
    (Ready .v none none 1 false (vsh 0x9FFF7) (vsh 0x9FFF7) ∧ (vsh 0x9FFF7).vFmt = 7) :=
  ⟨⟨ready_of (by decide +kernel), by decide +kernel⟩, ready_of (by decide +kernel), by decide +kernel⟩

theorem test_hyps_VectorQueues :
    let u := (on .v base).onCore (Core.setLq 3 (List.replicate 16 ⟨5, 0, Mark.empty⟩))
    let f := (on .v base).onCore (Core.setSq 1 (List.replicate 15 ⟨5, 0, Mark.empty⟩))
    let b := (on .v base).onQ fun q => { q with bound := q.bound.set 1 (some ⟨1, 3, 1⟩) }
    (Ready .v none none 1 false u u ∧ u.core.q.lq[(3 : Fin 4)] = ⟨5, 0, Mark.empty⟩ :: List.replicate 15 ⟨5, 0, Mark.empty⟩ ∧ u.core.q.boundFrom[(3 : Fin 4)] = none) ∧
    (let x := (paired u).onQ fun q => { q with boundFrom := q.boundFrom.set 3 (some ⟨1, 0⟩) }
     Ready .v none none 1 false x x ∧ x.core.q.lq[(3 : Fin 4)] = ⟨5, 0, Mark.empty⟩ :: List.replicate 15 ⟨5, 0, Mark.empty⟩ ∧ x.core.q.boundFrom[(3 : Fin 4)] = some ⟨1, 0⟩ ∧
       1 ≠ x.core.place.num ∧ ∃ k, x.coreAt ⟨x.core.place.part, 1⟩ = some k ∧ k.runsTask (x.core.place.task.getD 0) = true) ∧
    (Ready .v none none 1 false f f ∧ f.core.q.binds = [] ∧ f.core.q.bound[(1 : Fin 2)] = none ∧ (f.core.q.sq[(1 : Fin 2)]).length < 16) ∧
    (Ready .v none none 1 false b b ∧ b.core.q.binds = [] ∧ b.core.q.bound[(1 : Fin 2)] = some ⟨1, 3, 1⟩) ∧
    (Ready .v none none 2 false u u ∧ u.kAhead = false) ∧
    (let v : W32 := 0x3EBF7
     fld v 0 4 < 8 ∧ fld v 11 2 < 2 ∧ fld v 10 1 = 0 ∧ fld v 18 14 = 0) :=
  ⟨⟨ready_of (by decide +kernel), by decide +kernel⟩, ⟨ready_of (by decide +kernel), by decide +kernel, by decide +kernel, by decide +kernel, some_of (by decide +kernel)⟩,
    ⟨ready_of (by decide +kernel), by decide +kernel⟩, ⟨ready_of (by decide +kernel), by decide +kernel⟩, ⟨ready_of (by decide +kernel), by decide +kernel⟩, by decide +kernel⟩

/-- One operation's entries: a mode change, FP8 with K = 128 in tile 2, one-row tiles of groups 0 and 1. -/
def fed (s : State) : State := s.onQ fun q => { q with
  fq := [⟨0x80000001, 0, Mark.empty⟩, ⟨0x207F0033, 0, Mark.empty⟩]
  ma := [⟨0, 0, Mark.empty⟩]
  mb := [⟨0x40000000, 0, Mark.empty⟩] }
def opB (p : MatOp → Bool) (i : Issue) : Bool := match i with
  | .op o .. => p o
  | .bad .. => false
theorem op_of {p : MatOp → Bool} {i : Issue} (h : opB p i = true) : ∃ o mode fq ma mb, i = .op o mode fq ma mb ∧ p o = true := by
  match i, h with
  | .op o a b c d, h => exact ⟨o, a, b, c, d, rfl, h⟩

theorem test_hyps_MatrixIssue :
    let u := { fed (on .m base) with gcc := 0x1FFFFFFFF }
    (u.mReady = true ∧ Ready .m none none 1 false u u ∧ Ready .m none none 2 false u u ∧ u.core.q.ma ≠ [] ∧ u.core.q.mb ≠ [] ∧ (0xFFFFFFFF : W32) = u.gcc.setWidth 32) ∧
    (∀ trans stamped : Bool, ∃ o mode fq ma mb, u.issue trans stamped (some .v) = .op o mode fq ma mb) ∧
    ((0x7FFFFFFE : W32) ≠ u.gcc.setWidth 32 ∧ ((0x7FFFFFFE : W32) - u.gcc.setWidth 32).toNat < 2 ^ 31) := by
  refine ⟨⟨by decide +kernel, ready_of (by decide +kernel), ready_of (by decide +kernel), by decide +kernel⟩, ?_, by decide +kernel⟩
  intro trans stamped
  obtain ⟨o, a, b, c, d, h, -⟩ := op_of (p := fun _ => true) (i := State.issue trans stamped (some .v) { fed (on .m base) with gcc := 0x1FFFFFFFF })
    (by revert trans stamped; decide +kernel)
  exact ⟨o, a, b, c, d, h⟩

theorem test_hyps_MatrixWords :
    (Ready .m none none 1 false (on .m base) (on .m base) ∧ (on .m base).core.mat.word = none ∧ (on .m base).core.mat.ops = [] ∧ (7680 : RowIx).val % 256 = 0 ∧
      (7680 : RowIx).val ≠ 7936) ∧
    (∀ x ∈ ([.zero 7, .load 0 7680, .save 5 0, .prog 1] : List MWord),
      let s := { base.onMat fun m => { m with word := some (x, 5) } with gcc := 5 + BitVec.ofNat 64 x.cycles }
      s.core.mat.word = some (x, 5) ∧ s.core.place.run = .running ∧ x.cycles ≤ (s.gcc - 5).toNat ∧
      tokField .m (fld (s.core.wordAt (s.core.eng .m).pc) 23 3) = .ok none ∧ Sparse.wf zeroRow s.core.port.spad = true) ∧
    -- a word with a signal to V
    (let s := withText [(0, 0x019F0000)] (on .m base)
     tokField .m (fld (s.core.wordAt (s.core.eng .m).pc) 23 3) = .ok (some .v) ∧ s.core.tokRoom .m .v = true) :=
  ⟨⟨ready_of (by decide +kernel), by decide +kernel⟩, by decide +kernel, by decide +kernel⟩

/-- M waits at a stamped word for cycle 9, which has come; the word's operation is fed. -/
def stampedAt (w : W32) : State := { (withText [(0, w), (1, 9)] (fed (on .m base))).onEng .m fun x => { x with popped := true } with gcc := 9 }
/-- The operation fed, with a signal, at its first or at its last K-step. -/
def kOp (g : Tok) (last : Bool) : Option MatOp := match State.issue false false g (fed base) with
  | .op o .. => some { o with kdone := if last then o.steps - 1 else 0 }
  | .bad .. => none
/-- The state where its interval is over. -/
def kAt (o : MatOp) : State := { base.onMat fun m => { m with ops := [o] } with gcc := BitVec.ofNat 64 ((o.kdone + 1) * o.cycles + 6) }
theorem test_hyps_KStepsAndStamps :
    (∀ g ∈ ([none, some .v] : List Tok), ∀ last ∈ [false, true], (kOp g last).any (fun o =>
      let s := kAt o
      decide (s.core.mat.ops = o :: [] ∧ s.core.place.run = .running ∧ o.kdone < o.stopAt ∧ (o.kdone + 1) * o.cycles + 6 ≤ (s.gcc - o.issue).toNat ∧ o.sig = g ∧
        (if last then o.steps ≤ o.kdone + 1 else o.kdone + 1 < o.steps) ∧ Sparse.wf 0 ((s.core.mat.acc[fwAcc o.fw]).live s.gen).rows = true) &&
      (pairRule (fwA o.fw) (fwB o.fw)).any fun x =>
        let rd (r : Nat) : QEntry := Sparse.get zeroRow (s.core.kRows o) r
        decide ((stepSide rd o.ra (fwA o.fw) (o.span x.2 o.kdone).1 (o.span x.2 o.kdone).2).elems.length ≤ 128 ∧
          (stepSide rd o.rb (fwB o.fw) (o.span x.2 o.kdone).1 (o.span x.2 o.kdone).2).elems.length ≤ 128)) = true) ∧
    (base.core.tokRoom .m .v = true ∧ base.core.mat.sigs = [] ∧ (base.onCore (Core.addTok .m .v fun _ => 15)).core.tokRoom .m .v = false) ∧
    (∀ p ∈ ([(0x60410000, false, .mmaStamp none none 9), (0x60420000, true, .mmatStamp none none 9)] : List (W32 × Bool × Instr)),
      let s := stampedAt p.1
      s.core.stampWaited = some (s.gcc.setWidth 32) ∧ { s with act := .m }.mayMove .m = true ∧
      Ready .m none none 2 false { s with act := .m } { s with act := .m } ∧ State.mReady { s with act := .m } = true ∧
      decodeWord (s.core.wordAt (s.core.eng .m).pc) (s.core.wordAt ((s.core.eng .m).pc + 1)) = .ok p.2.2 ∧
      ∃ o mode fq ma mb, State.issue p.2.1 true none { s with act := .m } = .op o mode fq ma mb) := by
  refine ⟨by decide +kernel, by decide +kernel, ?_⟩
  · intro p hp
    have h2 : p = (0x60410000, false, .mmaStamp none none 9) ∨ p = (0x60420000, true, .mmatStamp none none 9) := by simpa using hp
    rcases h2 with rfl | rfl <;> exact ⟨by decide +kernel, by decide +kernel, ready_of (by decide +kernel), by decide +kernel, by decide +kernel,
      (op_of (p := fun _ => true) (by decide +kernel)).imp fun o h => h.imp fun a h => h.imp fun b h => h.imp fun c h => h.imp fun d h => h.1⟩

/-- A template with two beats of payload at 0xFC0, at 0x8000. -/
def template (s : State) : State := s.poke 0x8000 ([0, 0, 0, 0, 1] ++ List.replicate 45 0 ++ [0x12, 0, 0, 0, 3, 4] ++ List.replicate 40 0 ++ natLe 0xFC0 8)
def aPacket : Packet :=
  { dst := 0, src := 0, tc := 1, vc := 0, esc := false, part := 0, vfn := 0, mark := Mark.empty, budget := 250, visits := 0, clone := false, cld := 2, msg := true,
    w := Vector.replicate 4 7, places := Vector.replicate 4 2, sp := 0, pc := 0, next := 0, nv := true, came := 6, nbead := 0, gen := 0, score := 0, dcore := 0, dbead := 0,
    daddr := 0x10000, code := some (List.replicate 16 0x3000), payload := [] }

def reachB (cls : AClass) (wr rd sync : Bool) (align lg : Nat) (ocl : Ocl) (ea : W64) (q : Loc → State → Bool) (s : State) : Bool :=
  decide (ea.toNat % align = 0) && okB (fun t v => match t.loc with
    | some l => !v.locBad l (2 ^ lg) && (!sync || !v.mustWait ocl (l.keys (2 ^ lg))) && (!rd || (v.locPoison l (2 ^ lg)).isNone) &&
        q l (v.noteAccess ocl (l.keys (2 ^ lg)))
    | none => false) (s.translate s.who cls wr ea)
theorem reach_of {cls : AClass} {wr rd sync : Bool} {align lg : Nat} {ocl : Ocl} {ea : W64} {s : State} {q : Loc → State → Bool}
    (h : reachB cls wr rd sync align lg ocl ea q s = true) : ∃ t l v, Reaches cls wr rd sync align lg ocl ea t l s v ∧ q l v = true :=
  reaches_of (q := fun _ l v => q l v) h
def memOnly (k : Nat → Nat → Bool) (l : Loc) : Bool := match l with
  | .mem a f => k a f
  | .win .. => false
theorem memOnly_of {k : Nat → Nat → Bool} {l : Loc} (h : memOnly k l = true) : ∃ a f, l = .mem a f ∧ k a f = true := by
  cases l with
  | mem a f => exact ⟨a, f, rfl, h⟩
  | win a b c => exact absurd h (by simp [memOnly])
/-- The access takes its turn and asks over the ring. -/
def askB (p : State → Bool) (hpa frame n : Nat) (s : State) (bs : List Byte := []) : Bool :=
  (s.turnAt s.core.place.part (s.accessWho 0) (.mem hpa frame)).any fun r => p (r.ringAsk r.core.id hpa n bs)
theorem asks_of {p : State → Bool} {a f n : Nat} {s : State} {bs : List Byte} (h : askB p a f n s bs = true) : ∃ v, AsksHome a f n s v bs ∧ p v = true := by
  obtain ⟨r, hv, hp⟩ := some_of h
  exact ⟨_, ⟨r, hv, rfl⟩, hp⟩
/-- And both: an access of P that reaches memory. -/
abbrev asksMet (wr rd : Bool) (lg : Nat) (ea : W64) (q : Nat → Nat → State → Bool) (s : State) (bs : List Byte := []) : Prop :=
  ∃ tg hpa frame v r, Reaches .home wr rd true (2 ^ lg) lg 0 ea tg (.mem hpa frame) s v ∧ AsksHome hpa frame (2 ^ lg) v r bs ∧ q hpa frame r = true
def asksB (wr rd : Bool) (lg : Nat) (ea : W64) (q : Nat → Nat → State → Bool) (s : State) (bs : List Byte := []) : Bool :=
  reachB .home wr rd true (2 ^ lg) lg 0 ea (fun l v => memOnly (fun a f => askB (q a f) a f (2 ^ lg) v bs) l) s
theorem asked_of {wr rd : Bool} {lg : Nat} {ea : W64} {q : Nat → Nat → State → Bool} {s : State} {bs : List Byte} (h : asksB wr rd lg ea q s bs = true) :
    asksMet wr rd lg ea q s bs := by
  obtain ⟨t, l, v, hr, hq⟩ := reach_of h
  obtain ⟨a, f, rfl, hb⟩ := memOnly_of hq
  obtain ⟨r, ha, hp⟩ := asks_of hb
  exact ⟨t, a, f, v, r, hr, ha, hp⟩

def beatsB : Nat → W64 → State → Bool
  | 0, _, _ => true
  | n + 1, ea, s => reachB .home false false false 64 6 0 ea (fun l v => memOnly (fun _ _ => beatsB n (ea + 64) v) l) s
theorem beats_of (n : Nat) : ∀ (ea : W64) (s : State), beatsB n ea s = true → ∃ l r, Beats n ea s l r := by
  induction n with
  | zero => exact fun ea s _ => ⟨[], s, .done ea s⟩
  | succ n ih =>
    intro ea s h
    obtain ⟨t, l, v, hr, hq⟩ := reach_of h
    obtain ⟨a, f, rfl, hb⟩ := memOnly_of hq
    obtain ⟨l, r, hb⟩ := ih (ea + 64) _ hb
    exact ⟨_, r, .more hr hb⟩

/-- A packet the port of P sends from slot 7, its last beat still to read, and with none left. -/
def sending (l : List (Nat × Nat)) (s : State) : State :=
  s.onPort fun p => { p with pend := [⟨.p, 0, 0, none, [.send 7 aPacket (some 15) l], 0, Mark.empty, false⟩] }

theorem test_hyps_PacketSending :
    (let u := withK 2 0x8000 (template (on .p base))
     Ready .p none none 1 false u u ∧ u.kAhead = false ∧ u.core.holdsSlot 0 = false ∧
       asksMet false true 7 (u.kp 2).val (fun a _ r => !templateBad (r.seen r.core.place.part a 128)) u) ∧
    (let u := (on .p base).onWaits fun x => { x with stage := x.stage.set 7 (some ⟨aPacket, 2, 0xFC0⟩) }
     Ready .p none none 1 false u u ∧ u.core.waits.stage[(7 : Fin 8)] = some ⟨aPacket, 2, 0xFC0⟩ ∧
       ∃ l v, Beats 2 0xFC0 u l v) ∧
    ((sending [] base).core.port.pend[0]? = some ⟨.p, 0, 0, none, [.send 7 aPacket (some 15) []], 0, Mark.empty, false⟩ ∧
      ∀ j ∈ (sending [] base).core.port.pend.take 0, j.before .p 0 [] = false) ∧
    (let v := sending [(0xFC0, 0)] base
     v.core.port.pend[0]? = some ⟨.p, 0, 0, none, [.send 7 aPacket (some 15) [(0xFC0, 0)]], 0, Mark.empty, false⟩ ∧
      (∀ j ∈ v.core.port.pend.take 0, j.before .p 0 (linesOf 0xFC0 64) = false) ∧
      ∃ r, v.turnAt v.core.place.part (v.accessWho 0) (.mem 0xFC0 0) = some r ∧ r.poisoned 0xFC0 64 = false) := by
  refine ⟨⟨ready_of (by decide +kernel), by decide +kernel, by decide +kernel, asked_of (by decide +kernel)⟩,
    ⟨ready_of (by decide +kernel), by decide +kernel, beats_of _ _ _ (by decide +kernel)⟩, by decide +kernel, by decide +kernel, by decide +kernel, ?_⟩
  obtain ⟨r, h, hp⟩ := some_of (p := fun r : State => !r.poisoned 0xFC0 64) (o := (sending [(0xFC0, 0)] base).turnAt
    (sending [(0xFC0, 0)] base).core.place.part ((sending [(0xFC0, 0)] base).accessWho 0) (.mem 0xFC0 0)) (by decide +kernel)
  exact ⟨r, h, by simpa using hp⟩

/-- Two headers wait for P, of which one was dropped, and bead counter 15 stands at 2. -/
def received (s : State) : State := ((s.setRx 0 0 ⟨[aPacket, aPacket], true⟩).addBead 0 0 15).addBead 0 0 15
theorem test_hyps_PacketReceiving :
    let u := withK 2 0x1040 (withK 4 2 (received (on .p base)))
    (Ready .p none none 1 false u u ∧ Ready .p none none 2 false u u ∧ u.kAhead = false ∧ (u.k 4).val.toNat ≤ (u.myBead 15).toNat ∧
      (2 : W32).toNat ≤ (u.myBead 15).toNat ∧ Sparse.wf 0 u.xr.beads = true) ∧
    (u.myRx.hdrs = aPacket :: [aPacket] ∧ asksMet true false 6 (u.kp 2).val (fun _ _ _ => true) u aPacket.header) :=
  ⟨⟨ready_of (by decide +kernel), ready_of (by decide +kernel), by decide +kernel⟩, by decide +kernel, asked_of (by decide +kernel)⟩

/-- A block of an all-reduce over the group of the multicast window, at 0x8000; and with ROOT 1, and with OP 9, and of no group. -/
def block (op root : Byte) (group : Nat) (s : State) : State :=
  withK 2 0x8000 (s.poke 0x8000 ([op, 7, 0, 1, 0, 3, root, 0] ++ natLe group 8 ++ natLe 0x10000 8 ++ natLe 0x20000 8 ++ natLe 16 8))
/-- The block read, and the state after it. -/
def blkBytes (v : State) (a : Nat) : List Byte := v.seen v.core.place.part a 128
def blkRead (v : State) (a : Nat) : State := v.afterRead v.core.place.part a 128
abbrev collMet (u : State) (q : Option (List Nat) → List Byte → State → Bool) : Prop :=
  Ready .p none none 1 false u u ∧ u.kAhead = false ∧ u.allPerformed = true ∧
  ∃ tg hpa frame v a grp r, Reaches .home false true true 128 7 0 (u.kp 2).val tg (.mem hpa frame) u v ∧ AsksHome hpa frame 128 v a ∧
    (blkRead a hpa).groupOf (blkRead a hpa).who (BitVec.ofNat 64 (leAt (blkBytes a hpa) 8 8)) = (.ok grp, r) ∧ q grp (blkBytes a hpa) r = true
def blkB (q : Option (List Nat) → List Byte → State → Bool) (v : State) (a : Nat) : Bool :=
  okB (fun g r => q g (blkBytes v a) r) ((blkRead v a).groupOf (blkRead v a).who (BitVec.ofNat 64 (leAt (blkBytes v a) 8 8)))
theorem blk_of {q : Option (List Nat) → List Byte → State → Bool} {v : State} {a : Nat} (h : blkB q v a = true) :
    ∃ g r, (blkRead v a).groupOf (blkRead v a).who (BitVec.ofNat 64 (leAt (blkBytes v a) 8 8)) = (.ok g, r) ∧ q g (blkBytes v a) r = true := okB_of (by unfold blkB at h; exact h)
theorem coll_of {u : State} {q : Option (List Nat) → List Byte → State → Bool} (h0 : (u.act == .p && !u.core.regs.hmode && !u.me.done && !u.core.slips .p 1) = true)
    (h1 : u.kAhead = false ∧ u.allPerformed = true) (h : asksB false true 7 (u.kp 2).val (fun a _ v => blkB q v a) u = true) : collMet u q := by
  obtain ⟨t, a, f, v, x, hr, ha, hb⟩ := asked_of h
  obtain ⟨g, r, hg, hp⟩ := blk_of hb
  exact ⟨ready_of h0, h1.1, h1.2, t, a, f, v, x, g, r, hr, ha, hg, hp⟩

theorem test_hyps_CollectiveBlocks :
    collMet (block 0 0 0x1000 (on .p base)) (fun g _ _ => g == none) ∧
    collMet (block 9 0 0x40200000 (on .p base)) (fun g b _ => g.isSome && blockBad b) ∧
    collMet (block 1 1 0x40200000 (on .p base)) (fun g b _ => g.any fun n => decide (n.length ≤ leAt b 6 2)) ∧
    collMet ((block 0 0 0x40200000 (on .p base)).setVf 0 fun v => { v with colls := List.replicate 64 default })
      (fun g b r => !blockBad b && g.any (fun n => decide (leAt b 6 2 < n.length)) && decide (64 ≤ (r.vfAt r.core.place.vf).colls.length)) ∧
    -- the write of its STATUS included
    collMet ((block 1 0 0x40200000 (on .p base)).setVf 0 fun v => { v with colls := List.replicate 63 default, ticket := 0xFFFFFFFF })
      (fun g b r => !blockBad b && g.any (fun n => decide (leAt b 6 2 < n.length)) && decide ((r.vfAt r.core.place.vf).colls.length < 64 ∧ r.core.place.vf < 192) &&
        asksB true false 3 (0x8000 + 0x28) (fun _ _ _ => true) r (natLe 0xFF 8)) :=
  ⟨coll_of (by decide +kernel) (by decide +kernel) (by decide +kernel), coll_of (by decide +kernel) (by decide +kernel) (by decide +kernel),
    coll_of (by decide +kernel) (by decide +kernel) (by decide +kernel), coll_of (by decide +kernel) (by decide +kernel) (by decide +kernel),
    coll_of (by decide +kernel) (by decide +kernel) (by decide +kernel)⟩

/-- A packet of the function parked in slot 63. -/
def parked : ParkSlot := ⟨⟨aPacket, .user 9, 0, 77, none⟩, 0, [], false⟩
theorem test_hyps_ParkBay :
    let u := withK 2 0x8000 ((on .p base).setBay 63 (some parked))
    ((63 : BitVec 8).toNat < 64 ∧ u.nameSlot (63 : BitVec 8).toNat = (some parked, u) ∧ parked.busy = false ∧ Ready .p none none 1 false u u ∧ Ready .p none none 2 false u u ∧
      u.kAhead = false ∧ ((u.kp 2).val.toNat < 2 ^ 57 ∧ (u.kp 2).val.toNat % 128 = 0) ∧
      asksMet true false 7 (u.kp 2).val (fun _ _ _ => true) u (parkRecord parked.p) ∧ asksMet false true 4 (u.kp 2).val (fun _ _ _ => true) u ∧
      u.oldestPark = some (63 : BitVec 8).toNat) ∧
    -- an empty slot, a busy one named and by 0xFF, a bay whose one slot this core has read
    ((0 : BitVec 8).toNat < 64 ∧ u.nameSlot (0 : BitVec 8).toNat = (none, u)) ∧
    (let b := u.setBay 63 (some { parked with busy := true })
     b.nameSlot (63 : BitVec 8).toNat = (some { parked with busy := true }, b) ∧ b.oldestPark = some (63 : BitVec 8).toNat) ∧
    (u.setBay 63 (some { parked with read := [0] })).oldestPark = none := by
  exact ⟨⟨by decide, by decide +kernel, by decide, ready_of (by decide +kernel), ready_of (by decide +kernel), by decide +kernel, by decide +kernel,
    asked_of (by decide +kernel), asked_of (by decide +kernel), by decide +kernel⟩, by decide +kernel⟩

/-- A packet on lane 0 whose stack holds l, bottom first, at instruction 14 or n. -/
def laneJobOf (l : List W32) (n : Nat) : LaneJob :=
  ⟨{ aPacket with places := Vector.ofFn fun i => l.getD i.val 0, sp := l.length, pc := n }, [], none⟩
def laneOf (l : List W32) (n : Nat) (s : State) : State := s.setLane 0 (some (laneJobOf l n))
def stackB (p : Packet) (l : List W32) : Bool := decide (p.sp = l.length ∧ ∀ i, i < l.length → p.places[i]? = l[i]?)
theorem stack_of {p : Packet} {l : List W32} (h : stackB p l = true) : StackIs p l := by
  rw [stackB, decide_eq_true_eq] at h
  exact h
/-- The job is on the lane, not at its last instruction, and its stack is as it says. -/
abbrev laneMet (s : State) (l : List W32) : Prop :=
  s.laneJob s.lane = some (laneJobOf l 14) ∧ (laneJobOf l 14).pkt.pc + 1 < 16 ∧ StackIs (laneJobOf l 14).pkt l
theorem lane_of {s : State} {l : List W32} (h : (decide (s.laneJob s.lane = some (laneJobOf l 14)) && stackB (laneJobOf l 14).pkt l) = true) : laneMet s l := by
  rw [Bool.and_eq_true, decide_eq_true_eq] at h
  exact ⟨h.1, (by decide : 14 + 1 < 16), stack_of h.2⟩

/-- A push onto three places, DUP and a pair of operands on two, a conditional jump on the fourth; a class that is not permitted, a stack too short, and one too
full. -/
theorem test_hyps_ErrandStackWords :
    (laneMet (laneOf [1, 2, 3] 14 base) ([1, 2, 3] ++ []) ∧ laneMet (laneOf [1, 2, 3] 14 base) ([1, 2] ++ [3]) ∧ laneMet (laneOf [1, 2, 3, 4] 14 base) ([1, 2] ++ [3, 4]) ∧
      laneMet (laneOf [1, 2, 3, 4] 14 base) ([1, 2, 3] ++ [4]) ∧ base.permits 0 0 = true ∧ 14 + (1 : Fin 16).val < 16) ∧
    (let s := (laneOf [1, 2, 3, 4] 14 base).setPart 0 fun p => { p with emask := 0 }
     s.laneJob s.lane = some (laneJobOf [1, 2, 3, 4] 14) ∧ s.permits 0 0 = false) ∧
    ((laneJobOf [] 14).pkt.sp < 1 ∧ 4 < (laneJobOf [1, 2, 3, 4] 14).pkt.sp - 1 + 2) :=
  ⟨⟨lane_of (by decide +kernel), lane_of (by decide +kernel), lane_of (by decide +kernel), lane_of (by decide +kernel), by decide +kernel⟩, by decide +kernel⟩

/-- The last counter of the window, and the last scratch word, by an index of 15 and by one that wraps. -/
theorem test_hyps_ErrandWindows :
    ((laneOf [1, 2, 3] 14 base).choose 3 0 0 (whoCode (laneJobOf [1, 2, 3] 14).pkt.score (laneJobOf [1, 2, 3] 14).pkt.vfn (laneJobOf [1, 2, 3] 14).pkt.visits)).isSome = true ∧
    (15 : Fin 2048).val < (base.limits 0).xbCount ∧ base.permits 0 1 = true ∧ base.permits 0 2 = true ∧ base.permits 0 3 = true ∧ base.permits 0 4 = true ∧
    base.permits 0 5 = true ∧ laneMet (laneOf [1, 2, 3] 14 base) ([1, 2, 3] ++ []) ∧ laneMet (laneOf [1, 2, 3, 4] 14 base) ([1, 2, 3] ++ [4]) ∧
    laneMet (laneOf [1, 2, 3, 15] 14 base) ([1, 2, 3] ++ [15]) ∧ laneMet (laneOf [1, 2, 15, 4] 14 base) ([1, 2] ++ [15, 4]) ∧
    laneMet (laneOf [1, 0xFFFFFFFF, 3, 4] 14 base) ([1] ++ [0xFFFFFFFF, 3, 4]) ∧
    ((15 : W32) + BitVec.ofNat 32 (0 : Fin 2048).val).toNat < (base.limits 0).scrCount ∧
    ((0xFFFFFFFF : W32) + BitVec.ofNat 32 (16 : Fin 2048).val).toNat < (base.limits 0).scrCount :=
  ⟨by decide +kernel, by decide +kernel, by decide +kernel, by decide +kernel, by decide +kernel, by decide +kernel, by decide +kernel, lane_of (by decide +kernel), lane_of (by decide +kernel),
    lane_of (by decide +kernel), lane_of (by decide +kernel), lane_of (by decide +kernel), by decide +kernel, by decide +kernel⟩

/-- A torus of 4 x 2 x 1 with its ports in the first two dimensions up, n credits on each channel, and function 0's task the last to have run on core 0. -/
def net (n : Nat) (s : State) : State :=
  let up (s : State) (p : Nat) : State := s.setPort p fun q => { q with up := true, credits := Vector.replicate 8 n }
  let s := (up (up (up (up s 0) 1) 2) 3).onMgmt fun m => { m with dims := (4, 2, 1) }
  s.onXr fun x => { x with owner := [(0, 1)] }
def toward (d : Nat) (j : LaneJob) : LaneJob := { j with pkt := { j.pkt with dst := d } }
theorem test_hyps_ErrandRoutes :
    (∀ d ∈ [0, 1, 2, 16], let s := (net 1 base).setLane 0 (some (toward d (laneJobOf [1, 2, 3] 14)))
      s.laneJob s.lane = some (toward d (laneJobOf [1, 2, 3] 14)) ∧ s.permits 0 7 = true ∧ s.permits 0 8 = true ∧ s.permits 0 9 = true ∧ s.permits 0 6 = true ∧
      ((s.dimOrder d).isSome = true → (bestPort (toward d (laneJobOf [1, 2, 3] 14)).pkt s).isSome = true)) ∧
    (∀ d, StackIs (toward d (laneJobOf [1, 2, 3] 14)).pkt [1, 2, 3]) ∧ laneMet (laneOf [1, 2, 3, 5] 14 base) ([1, 2, 3] ++ [5]) ∧ (5 : W32).toNat < 6 ∧
    (laneJobOf [1, 2, 3] 14).pkt.cld < 3 :=
  ⟨by decide +kernel, fun _ => (stack_of (by decide +kernel) : StackIs (laneJobOf [1, 2, 3] 14).pkt [1, 2, 3]), lane_of (by decide +kernel), by decide +kernel, by decide +kernel⟩

/-- A hop that lowers the distance with budget 1, and one that does not with budget 2. -/
theorem test_hyps_ErrandEnds :
    (∀ r ∈ [(1, 0, 1), (1, 1, 2), (1, 2, 2)],
      let j : LaneJob := { laneJobOf [1, 2, 3, 4] 15 with pkt := { (laneJobOf [1, 2, 3, 4] 15).pkt with dst := r.1, next := r.2.1, nv := true, budget := r.2.2 } }
      let s := (net 1 base).setLane 0 (some j)
      s.laneJob s.lane = some j ∧ j.pkt.sp ≤ 4 ∧ s.permits 0 11 = true ∧ s.permits 0 12 = true ∧ s.permits 0 13 = true ∧ s.permits 0 0 = true ∧ j.pkt.nv = true ∧
      r.2.2 = (if s.minimalHop j.pkt.dst j.pkt.next then 1 else 2) ∧ (s.endVisit.deliver j.pkt).isSome = true ∧ s.permits 0 10 = true ∧ s.portUp j.pkt.next = true ∧ r.2.2 ≤ j.pkt.budget) := by
  decide +kernel

theorem test_hyps_StopsAndTraps :
    -- words with and without the control tag
    (fld (on .s base).curWord 29 3 ≠ 7 ∧ fld (withText [(0, 0xE0000000)] (on .s base)).curWord 29 3 = 7 ∧ (on .v base).act ≠ .s) ∧
    -- breakpoints: not to be skipped, to be skipped, in a seal window
    (base.core.regs.bkpt.getLsbD 14 = false ∧ (∀ r, base.rotaOf base.core.id = some r → r.windowOpen = false) ∧
      (base.onRegs fun r => { r with bkpt := 0x80004000 }).core.regs.bkpt.getLsbD 14 = true ∧
      (let s := base.onDisp fun d => { d with rotas := [⟨0, 0, 0, [⟨none, 0, 0⟩], 0, 0, true, none⟩] }
       s.core.regs.bkpt.getLsbD 14 = false ∧ ∃ r, s.rotaOf s.core.id = some r ∧ r.windowOpen = true)) ∧
    -- the stop, for a resumable fault and for one that is not, and at a breakpoint
    (∀ c ∈ [Cause.stage2, .illegal], let s := base.onWalk fun w => { w with engs := w.engs.map (fun x => { x with blk := .faulted }), faults := [⟨c, .a, 5, 6, 7, 8, false, []⟩] }
      s.core.place.run = .running ∧ s.core.quiet = true ∧ s.core.walk.hardStop = false ∧ pickFault s.core.walk.faults = some ⟨c, .a, 5, 6, 7, 8, false, []⟩) ∧
    (Cause.stage2.resumable = true ∧ Cause.illegal.resumable = false) ∧
    (let s := base.onWalk fun w => { w with engs := w.engs.map (fun x => { x with blk := .faulted }), hit := some 16383 }
     s.core.place.run = .running ∧ s.core.quiet = true ∧ s.core.walk.hardStop = false ∧ s.core.walk.faults = [] ∧ s.core.walk.hit = some 16383) ∧
    -- the last cycle of a mutual stall, a record that waits for a place, a poisoned line
    (let s := base.onWalk fun w => { w with stall := 2 ^ 20, engs := w.engs.map fun x => { x with blk := .tokenWait } }
     s.core.place.run = .running ∧ 2 ^ 20 ≤ s.core.walk.stall ∧ s.core.stalled = true) ∧
    (let w : PageWait := ⟨⟨0x10000, 0x10000, false, true, false, false, 191, 0, 0, 1, 0, 0, 1, []⟩, ⟨0, 0⟩, 7⟩
     let s := base.setVf 191 fun v => { v with pageWait := [w] }
     (s.vfAt 191).pageWait = w :: [] ∧ w.pr.vfn = 191 ∧ w.pr.event = false ∧ (s.vfAt 191).reqQ = [] ∧ ∃ v, s.addRec w.pr (some (w.pr.core, w.task)) = some v) ∧
    lineOf 0x107F ∈ ({ base.mem with poison := [0x20] } : Memory).poison := by
  refine ⟨by decide +kernel, ⟨by decide +kernel, ?_, by decide +kernel, by decide +kernel, ?_⟩, by decide +kernel, by decide +kernel, by decide +kernel, by decide +kernel,
    ⟨by decide +kernel, by decide +kernel, by decide +kernel, by decide +kernel, ?_⟩, by decide +kernel⟩
  · intro r h
    exact absurd h (by rw [show base.rotaOf base.core.id = none from none_of (by decide +kernel)]; exact fun h => by cases h)
  · exact ⟨_, rfl, rfl⟩
  · obtain ⟨v, h, -⟩ := some_of (p := fun _ => true) (o := State.addRec ⟨0x10000, 0x10000, false, true, false, false, 191, 0, 0, 1, 0, 0, 1, []⟩ (some (0, 7))
      (base.setVf 191 fun v => { v with pageWait := [⟨⟨0x10000, 0x10000, false, true, false, false, 191, 0, 0, 1, 0, 0, 1, []⟩, ⟨0, 0⟩, 7⟩] })) (by decide +kernel)
    exact ⟨v, h⟩

theorem seat_of {s : State} {n : Nat} {k : Task} (hn : s.core.place.task = some n) (hk : s.taskAt n = some k) (h : k.seat s.core.place.num ≠ some .waiting) :
    ∀ n k, s.core.place.task = some n → s.taskAt n = some k → k.seat s.core.place.num ≠ some .waiting := by
  intro n' k' h1 h2
  cases hn.symm.trans h1
  cases hk.symm.trans h2
  exact h
def errB {ε α σ : Type} (p : ε → σ → Bool) (r : Except ε α × σ) : Bool := match r with
  | (.ok _, _) => false
  | (.error e, s) => p e s
theorem errB_of {ε α σ : Type} {p : ε → σ → Bool} {r : Except ε α × σ} (h : errB p r = true) : ∃ e s, r = (.error e, s) ∧ p e s = true := by
  match r, h with
  | (.error e, s), h => exact ⟨e, s, rfl, h⟩
theorem text_of {vf : Nat} {text : W64} {s : State} (h : (s.fetchGva vf text (min 65536 (4096 - text.toNat % 4096))).1.isSome = true) :
    ∃ t v, s.readText vf text = (some t, v) := by
  rcases e : s.fetchGva vf text (min 65536 (4096 - text.toNat % 4096)) with ⟨o, v⟩
  rw [e] at h
  cases o with
  | none => exact absurd h Bool.false_ne_true
  | some b => simp [State.readText, e]

/-- A launch queue whose second record, at 0x8000, is to be checked: one core, a nest record at 0x9000 of eight static jobs. -/
def launched (s : State) : State :=
  ((s.poke 0x8008 ([0, 0x90] ++ List.replicate 14 0 ++ [1])).poke 0x9000 ([1, 1] ++ List.replicate 10 0 ++ [8, 0, 0, 0, 1])).setVf 0
    fun v => { v with launch := [⟨0, some tblTask.r, 0⟩, ⟨0x8000, none, 1⟩] }
/-- A task that waits to start, beside a positive deficit. -/
def queued (s : State) : State := (s.setVf 0 fun v => { v with launch := [⟨0x8000, some tblTask.r, 4⟩], deficit := 1 }).setPart 0 fun p => { p with turns := [0], visited := 1 }
/-- The task of the context gives out its jobs, and the core has asked for one. -/
def asking (s : State) : State :=
  (s.onDisp fun d => { d with tasks := [{ tblTask with r := { tblTask.r with static := false } }] }).onWalk fun w => { w with jobReq := some 5 }
theorem test_hyps_TasksStartAndEnd :
    (let s := launched base
     (s.vfAt 0).part = some 0 ∧ (s.partAt 0).st = .live ∧ (s.vfAt 0).launch[1]? = some ⟨0x8000, none, 1⟩ ∧
      (∀ j x, j < 1 → (s.vfAt 0).launch[j]? = some x → x.checked ≠ none) ∧
      (∃ r v, s.checkRecord 0 (0x8000 : W64).toNat = (.ok r, v) ∧ (v.vfAt 0).launch = (s.vfAt 0).launch) ∧
      (∃ e v, (launched base |>.poke 0x801B [5]).checkRecord 0 (0x8000 : W64).toNat = (.error e, v) ∧ (v.vfAt 0).launch = (s.vfAt 0).launch)) ∧
    (let s := (base.setPart 47 fun p => { p with st := .gated }).setVf 191 fun v => { v with part := some 47, launch := [⟨0, none, 0⟩] }
     (s.partAt 47).st = .gated ∧ (s.vfAt 191).part = some 47 ∧ (s.vfAt 191).launch ≠ []) ∧
    (let s := queued base
     (s.vfAt 0).part = some 0 ∧ s.mayServe 0 = true ∧ s.candidate 0 = some (.fresh 0 tblTask.r 4) ∧ s.coresFor (s.grantFree 0) (.fresh 0 tblTask.r 4) = some [1] ∧
      tblTask.r.jobCount ≠ 0 ∧ ∃ text v, ((s.endTurn 0).setVf 0 fun v => { v with launch := v.launch.eraseIdx 0 }).readText 0 tblTask.r.text = (some text, v)) ∧
    (let s := asking base
     ∃ k v, s.coreAt ⟨0, 0⟩ = some s.core ∧ s.core.place.task = some 0 ∧ s.taskAt 0 = some k ∧ k.r.static = false ∧ 0 ∈ s.claims k ∧ s.watched 2 0 0 = false ∧
      s.nextClaim k = some 0 ∧ k.nextJob < k.jobs ∧ k.part = 0 ∧ s.choose 0 0 (s.core.place.site / 128) (whoCode 0 k.vf k.nextJob) = some v) ∧
    (let k := { tblTask with id := 5, cores := [(0, .released)] }
     let s := base.onDisp fun d => { d with tasks := [tblTask, k] }
     s.taskAt 5 = some k ∧ k.over = true ∧ s.taskLive 5 = false ∧ s.disp.saved = []) := by
  refine ⟨⟨by decide +kernel, by decide +kernel, by decide +kernel, ?_, ?_, ?_⟩, by decide +kernel, ⟨by decide +kernel, by decide +kernel, by decide +kernel,
    by decide +kernel, by decide +kernel, text_of (by decide +kernel)⟩, ?_, by decide +kernel⟩
  · intro j x hj hx
    obtain rfl : j = 0 := by omega
    rw [show ((launched base).vfAt 0).launch[0]? = some ⟨0, some tblTask.r, 0⟩ by decide +kernel] at hx
    cases hx
    exact fun h => by cases h
  · obtain ⟨r, v, h, hq⟩ := okB_of (p := fun (_ : TaskRec) (v : State) => decide ((v.vfAt 0).launch = ((launched base).vfAt 0).launch))
      (r := (launched base).checkRecord 0 (0x8000 : W64).toNat) (by decide +kernel)
    exact ⟨r, v, h, of_decide_eq_true hq⟩
  · obtain ⟨e, v, h, hq⟩ := errB_of (p := fun (_ : Nat × Option (W32 × W32)) (v : State) => decide ((v.vfAt 0).launch = ((launched base).vfAt 0).launch))
      (r := (launched base |>.poke 0x801B [5]).checkRecord 0 (0x8000 : W64).toNat) (by decide +kernel)
    exact ⟨e, v, h, of_decide_eq_true hq⟩
  · obtain ⟨v, h, -⟩ := some_of (p := fun _ => true) (o := (asking base).choose 0 0 ((asking base).core.place.site / 128) (whoCode 0 tblTask.vf tblTask.nextJob))
      (by decide +kernel)
    exact ⟨{ tblTask with r := { tblTask.r with static := false } }, v, by decide +kernel, by decide +kernel, by decide +kernel, by decide +kernel, by decide +kernel,
      by decide +kernel, by decide +kernel, by decide +kernel, by decide +kernel, h⟩

/-- The requests of a stop, on core 0. -/
def asked (grace soft hard kill : Bool) (s : State) : State := s.onWalk fun w => { w with grace := grace, softReq := soft, hardStop := hard, kill := kill }
/-- Core 0 free again, its context saved. -/
def away (s : State) : State := { s with core := s.core.cleared }.onDisp fun d => { d with saved := [s.core.savedImage] }
/-- Core 0 stands in a rota of two frames of 2^16 cycles, the second for function 0. -/
def inRota (ix : Nat) (s : State) : State :=
  s.onDisp fun d => { d with rotas := [⟨0, 0, 0, [⟨none, 1, 1⟩, ⟨some 0, 1, 1⟩], ix, 0x10000, false, none⟩] }
theorem test_hyps_TasksStopAndReturn :
    -- a visit to a function with a task to start, to one without, and the round's end
    (let s := (queued base).setPart 0 fun p => { p with turns := [], visited := 0 }
     (s.partAt 0).st = .live ∧ (s.partAt 0).isSealed = false ∧ 0 ∈ s.vfsOf 0 ∧ (s.partAt 0).visited ≤ 0 ∧ (∀ w ∈ s.vfsOf 0, (s.partAt 0).visited ≤ w → 0 ≤ w) ∧ (s.candidate 0).isSome = true ∧ 0 < (s.vfAt 0).weight ∧
       0 < (s.vfAt 0).deficit + (s.vfAt 0).weight * (s.partAt 0).quantum) ∧
    (0 ∈ base.vfsOf 0 ∧ (base.partAt 0).visited ≤ 0 ∧ (base.candidate 0).isSome = false) ∧
    (let s := base.setPart 0 fun p => { p with turns := [0], visited := 1 }
     (s.partAt 0).st = .live ∧ (s.partAt 0).isSealed = false ∧ (∀ v ∈ s.vfsOf 0, v < (s.partAt 0).visited) ∧ ∀ v ∈ (s.partAt 0).turns, s.served v = false) ∧
    (let s := base.setVf 1 fun v => { v with part := some 0, weight := 1, launch := [⟨0, some tblTask.r, 0⟩] }
     (s.vfAt 0).part = some 0 ∧ (s.vfAt 0).deficit ≤ 0 ∧ (s.partAt 0).isSealed = false ∧ 1 ∈ s.vfsOf 0 ∧ 0 < (s.vfAt 1).weight ∧ (s.candidate 1).isSome = true) ∧
    (let s := asked true false false false base
     s.core.walk.grace = true ∧ s.core.walk.softReq = false ∧ ∀ n k, s.core.place.task = some n → s.taskAt n = some k → k.seat s.core.place.num ≠ some .waiting) ∧
    (let s := asked true true false false base
     s.core.walk.grace = true ∧ s.core.walk.softReq = true ∧ s.core.walk.hardStop = false ∧ s.core.walk.timer ≤ s.mgmt.power.time) ∧
    (let s := asked false true true true base
     s.coreAt ⟨0, 0⟩ = some s.core ∧ s.core.walk.kill = true ∧ s.core.walk.hardStop = true ∧ s.core.walk.timer ≤ s.mgmt.power.time) ∧
    (let s := (asked true true false false base).onPlace fun p => { p with run := .stopped }
     s.core.maySave = true ∧ s.core.walk.faults = [] ∧ (s.partAt s.core.place.part).isSealed = false) ∧
    (let s := (away (base.setVf 0 fun v => { v with deficit := 1 })).setPart 0 fun p => { p with turns := [0], visited := 1 }
     (s.taskAt 0 = some tblTask ∧ s.mayServe tblTask.vf = true ∧ (s.partAt 0).isSealed = false ∧ s.candidate tblTask.vf = some (.resume tblTask) ∧ tblTask.id = 0 ∧
       s.coresFor (s.grantFree tblTask.vf) (.resume tblTask) = some [0]) ∧
     s.disp.saved.find? (fun c => c.id == ⟨tblTask.part, 0⟩ && c.runsTask tblTask.id) = some base.core.savedImage ∧ s.core.id = ⟨tblTask.part, 0⟩ ∧
       base.core.savedImage.waits.bar = none ∧ bit base.core.savedImage.regs.bkpt 27 = false) ∧
    (let s := { inRota 1 base with gcc := 0x10000 - 256 }
     s.rotaOf s.core.id = some ⟨0, 0, 0, [⟨none, 1, 1⟩, ⟨some 0, 1, 1⟩], 1, 0x10000, false, none⟩ ∧ s.reached ((0x10000 : W64) - BitVec.ofNat 64 (sealLen ⟨some 0, 1, 1⟩)) = true ∧
      ∀ n k, s.core.place.task = some n → s.taskAt n = some k → k.seat s.core.place.num ≠ some .waiting) ∧
    (let s := { inRota 1 (away base) with gcc := 0x10000 }
     s.rotaOf s.core.id = some ⟨0, 0, 0, [⟨none, 1, 1⟩, ⟨some 0, 1, 1⟩], 1, 0x10000, false, none⟩ ∧ s.reached 0x10000 = true ∧ s.core.place.task = none ∧ 2 ≤ 1 + 1) :=
  ⟨by decide +kernel, by decide +kernel, by decide +kernel, by decide +kernel, ⟨by decide +kernel, by decide +kernel, seat_of (k := tblTask) (n := 0) (by decide +kernel) (by decide +kernel) (by decide +kernel)⟩,
    by decide +kernel, by decide +kernel, by decide +kernel, by decide +kernel, ⟨by decide +kernel, by decide +kernel,
      seat_of (k := tblTask) (n := 0) (by decide +kernel) (by decide +kernel) (by decide +kernel)⟩, by decide +kernel⟩

def doneB (r : OpRes) : Bool := match r with
  | .done .. => true
  | _ => false
theorem done_of {r : OpRes} (h : doneB r = true) : ∃ buf m v, r = .done buf m v := by
  cases r with
  | done a b c => exact ⟨a, b, c, rfl⟩
  | _ => exact absurd h Bool.false_ne_true
/-- A store of S whose two bytes lie in two lines, and behind it one of another class. -/
def stores : List Pend := [⟨.s, 1, 0, none, [.store (.mem 0x107F 0) [7, 8] Mark.empty], 0, Mark.empty, false⟩, ⟨.s, 2, 0, none, [.store (.mem 0x2000 0) [9] Mark.empty], 0, Mark.empty, false⟩]
def leftB (r : OpRes) : Bool := match r with
  | .left .. => true
  | _ => false
theorem left_of {r : OpRes} (h : leftB r = true) : ∃ op v, r = .left op v := by
  cases r with
  | left a b => exact ⟨a, b, rfl⟩
  | _ => exact absurd h Bool.false_ne_true
/-- A load of A to a queue that is full. -/
def loads : Pend := ⟨.a, 2, 0, some 7, [.load 0x3000 0 (.lq 3) Mark.empty], 0, Mark.empty, false⟩
theorem test_hyps_AccessesApplied :
    let s := base.onPort fun p => { p with pend := stores }
    let q := (base.onPort fun p => { p with pend := [loads] }).onCore (Core.setLq 3 (List.replicate 16 ⟨5, 0, Mark.empty⟩))
    (Memory.wf s.mem = true ∧ s.core.port.pend = stores ∧ (stores.map fun p => p.gen) = [(s.partAt s.core.place.part).gen, 0] ∧
      s.watched 2 1 s.core.place.part = false ∧ s.watched 1 1 s.core.place.part = false) ∧
    (∃ p op buf m v, s.core.port.pend[1]? = some p ∧ p.ops[s.nextOp p.ops]? = some op ∧ op.homeSide = true ∧
      (∀ q ∈ s.core.port.pend.take 1, q.before p.eng p.cls op.keys = false) ∧ ∃ x, s.turnsAt s.core.place.part (s.accessWho ((p.tag.map Fin.val).getD 0)) op.turns = some x ∧
      x.applyOp (s.core.port.pend.take 1) (op.queue.isSome && (p.ops.take (s.nextOp p.ops)).any fun a => a.queue == op.queue) p op = .done buf m v) ∧
    (∃ p op r v, q.core.port.pend[0]? = some p ∧ p.ops[q.nextOp p.ops]? = some op ∧ (∀ x ∈ q.core.port.pend.take 0, x.before p.eng p.cls op.keys = false) ∧
      ∃ x, q.turnsAt q.core.place.part (q.accessWho ((p.tag.map Fin.val).getD 0)) op.turns = some x ∧ x.applyOp (q.core.port.pend.take 0) (op.queue.isSome && (p.ops.take (q.nextOp p.ops)).any fun a => a.queue == op.queue) p op = .left r v) := by
  refine ⟨by decide +kernel, ?_, ?_⟩
  · obtain ⟨x, hx, hd⟩ := some_of (p := fun x => doneB (State.applyOp (stores.take 1) false ⟨.s, 2, 0, none, [.store (.mem 0x2000 0) [9] Mark.empty], 0, Mark.empty, false⟩
      (.store (.mem 0x2000 0) [9] Mark.empty) x)) (o := State.turnsAt 0 (State.accessWho (base.onPort fun p => { p with pend := stores }) 0)
        (Micro.turns (.store (.mem 0x2000 0) [9] Mark.empty)) (base.onPort fun p => { p with pend := stores })) (by decide +kernel)
    obtain ⟨a, b, c, h⟩ := done_of hd
    exact ⟨_, _, a, b, c, rfl, rfl, rfl, by decide +kernel, x, hx, h⟩
  · obtain ⟨x, hx, hd⟩ := some_of (p := fun x => leftB (State.applyOp [] false loads (.load 0x3000 0 (.lq 3) Mark.empty) x))
      (o := State.turnsAt 0 (State.accessWho ((base.onPort fun p => { p with pend := [loads] }).onCore (Core.setLq 3 (List.replicate 16 ⟨5, 0, Mark.empty⟩))) 7)
        (Micro.turns (.load 0x3000 0 (.lq 3) Mark.empty)) ((base.onPort fun p => { p with pend := [loads] }).onCore (Core.setLq 3 (List.replicate 16 ⟨5, 0, Mark.empty⟩))))
      (by decide +kernel)
    obtain ⟨a, b, h⟩ := left_of hd
    exact ⟨_, _, a, b, rfl, rfl, by decide +kernel, x, hx, h⟩

/-- An accumulate of core 0 to slice 0, for carry entry 62. -/
def sumPkt : AaccPkt :=
  { core := ⟨0, 0⟩, gen := 0, cls := 0, hpa := 0x4000, frame := 0, fx := true, lanes := List.replicate 64 1, tries := 3, satf := 0, tags := [⟨0, ⟨0, 0⟩, 7, 5⟩],
    mark := Mark.empty, carryIx := some 62, red := none, hop := none, resv := none }
def entry62 (f : CarryEntry → CarryEntry) (s : State) : State := s.onCore (Core.setCarry 62 (f { CarryEntry.free with hpa := 0x4000, tags := [7] }))
theorem test_hyps_PortAndSliceEvents :
    (let s := base.onPort fun p => { p with compl := [63] }
     s.core.port.compl = 63 :: [] ∧ s.core.allHalted = false) ∧
    (let s := base.onGran fun g => { g with air := [sumPkt] }
     s.gran.air[0]? = some sumPkt ∧ s.mayArrive 0 sumPkt = true ∧ ∃ v, (s.onGran fun g => { g with air := g.air.eraseIdx 0 }).judge (sliceOf sumPkt.hpa) sumPkt = some v) ∧
    (let p := { sumPkt with carryIx := none }
     let s := (base.setSliceQ (sliceOf 0x4000) ⟨List.replicate 48 sumPkt, [], []⟩).onGran fun g => { g with air := [p] }
     s.gran.air[0]? = some p ∧ p.carryIx = none ∧ (∀ q ∈ s.gran.air.take 0, q.core = p.core → q.cls = p.cls → sliceOf q.hpa ≠ sliceOf p.hpa) ∧
      s.watched 1 2 p.core.part = false ∧ s.watched 2 2 p.core.part = false ∧ Sparse.wf SliceQ.init s.gran.queues = true ∧
      (s.sliceQ (sliceOf p.hpa)).waiting = [] ∧ (s.sliceQ (sliceOf p.hpa)).held = [] ∧ (s.sliceQ (sliceOf p.hpa)).occupied = 192 ∧
      (s.sliceQ (sliceOf p.hpa)).occupied + p.lines ≤ 256) ∧
    ((base.setSliceQ 255 ⟨[sumPkt], [], []⟩).sliceQ 255).q = sumPkt :: [] ∧
    (fld ({ base with gcc := 0x400 } : State).gcc 0 10 = 0 ∧ ({ base with gcc := 0x400 } : State).gran.window ≠ 0x400 ∧
      fld ({ base with gcc := 0x401 } : State).gcc 0 10 ≠ 0) ∧
    (let s := base.setSliceQ 0 ⟨List.replicate 63 sumPkt, [sumPkt], []⟩
     (s.sliceQ 0).waiting = sumPkt :: [] ∧ (s.sliceQ 0).occupied + sumPkt.lines ≤ 256 ∧ ((s.setSliceQ 0 { s.sliceQ 0 with waiting := [] }).takeTurn 0 0 sumPkt).isSome = true) ∧
    (let s := (entry62 (fun e => { e with busy := true, fx := true }) base).onGran fun g => { g with refusals := [sumPkt] }
     s.gran.refusals[0]? = some sumPkt ∧ sumPkt.carryIx = some 62 ∧ sumPkt.core = s.core.id ∧ (s.core.carry 62).busy = true ∧ Sparse.wf CarryEntry.free s.core.port.carry = true) ∧
    (let s := entry62 (fun e => { e with valid := true, timer := some 0 }) base
     (s.core.carry 62).timer = some 0 ∧ s.reached 0 = true ∧ (s.core.carry 62).valid = true ∧ (s.core.carry 62).busy = false ∧ (s.core.carry 62).pair2 = false) ∧
    (∀ e ∈ [MonEvent.write, .lost], let s := (base.onGran fun g => { g with monitors := [⟨5, ⟨0, 0⟩, some e⟩] }).onWaits fun w => { w with waitm := some ⟨640, none, Mark.empty, none⟩ }
      e ≠ .wake ∧ s.gran.monitors.find? (fun m => m.core == s.core.id) = some ⟨5, ⟨0, 0⟩, some e⟩ ∧
      (s.choose 4 s.core.id.part (s.logicalSlice s.core.id.part (sliceOf (5 * 128))) (whoCode s.core.id.num (s.vfOn s.core.id) (monStatus e))).isSome = true ∧
      s.core.waits.waitm = some ⟨640, none, Mark.empty, none⟩) ∧
    (let s := base.onWaits fun w => { w with waitm := some ⟨640, some 0, Mark.empty, none⟩ }
     s.core.waits.waitm = some ⟨640, some 0, Mark.empty, none⟩ ∧ s.reached 0 = true ∧
      (s.choose 4 s.core.id.part (s.logicalSlice s.core.id.part (sliceOf (((s.gran.monitors.find? fun m => m.core == s.core.id).map Monitor.line).getD 0 * 128)))
        (whoCode s.core.id.num (s.vfOn s.core.id) (((s.monWhy s.core.id).map monStatus).getD 3))).isSome = true) ∧
    -- rows from another module, the last of their multicast and not; rows for another module; rows of this one, in their cycle
    (let p : McastPkt := ⟨3, 5, 0, 0, ⟨0, 0⟩, 0, 0, 7, Mark.empty, 8127, [0, 1], none⟩
     let q : McastPkt := { p with die := 1 }
     let s := base.onGran fun g => { g with mcasts := [p, q] }
     s.gran.mcasts = p :: [q] ∧ p.fromNode ≠ s.mgmt.node ∧ p.node = s.mgmt.node ∧ (q.id = p.id ∧ q.src = p.src ∧ q.fromNode = p.fromNode) ∧
      (base.onGran fun g => { g with mcasts := [p] }).gran.mcasts = p :: []) ∧
    (let p : McastPkt := ⟨3, 0, 5, 3, ⟨0, 0⟩, 0, 0, 7, Mark.empty, 8127, [0, 1], some 40⟩
     let s := base.onGran fun g => { g with mcasts := [p] }
     s.gran.mcasts = p :: [] ∧ p.fromNode = s.mgmt.node ∧ p.node ≠ s.mgmt.node ∧ p.due.isSome = true ∧ p ∉ s.gran.mcastOut) ∧
    (let p : McastPkt := ⟨3, 0, 0, 3, ⟨0, 0⟩, 0, 0, 7, Mark.empty, 8127, [0, 1], some 40⟩
     let s := { base.onGran fun g => { g with mcasts := [p] } with gcc := 40 }
     s.gran.mcasts = p :: [] ∧ p.fromNode = s.mgmt.node ∧ p.node = s.mgmt.node ∧ p.due = some s.gcc) ∧
    (let b : BoundEntry := ⟨⟨0, 1⟩, 1, 0, 0, 3, ⟨7, 0, Mark.empty⟩⟩
     let s := base.onGran fun g => { g with boundAir := [b] }
     s.gran.boundAir = b :: [] ∧ s.taskAt b.task = some tblTask ∧ tblTask.seat b.peer = some .running ∧ s.core.id = ⟨b.src.part, b.peer⟩ ∧ s.core.runsTask b.task = true ∧
      s.core.lqFull b.plq = false) := by
  refine ⟨by decide +kernel, ⟨by decide +kernel, by decide +kernel, ?_⟩, by decide +kernel, by decide +kernel, ⟨by decide +kernel, by decide +kernel⟩,
    by decide +kernel, by decide +kernel, by decide +kernel, ⟨by decide +kernel, by decide +kernel⟩⟩
  obtain ⟨v, h, -⟩ := some_of (p := fun _ => true) (o := State.judge (sliceOf sumPkt.hpa) sumPkt ((base.onGran fun g => { g with air := [sumPkt] }).onGran
    fun g => { g with air := g.air.eraseIdx 0 })) (by decide +kernel)
  exact ⟨v, h⟩

/-- Two flits that wait at the last stop of the last die for its local port 5, and what its output has done before. -/
def aFlit (port pkt : Nat) : Flit := ⟨port, 0, pkt, 0, false, true, [125], none, none⟩
def meshWith (l : List Flit) (m : MeshOut) (s : State) : State :=
  (s.setMeshIn 3 15 l).onFab fun f => { f with mesh := Sparse.set MeshOut.init f.mesh (meshKey 3 15 5) m }
/-- A request of n lines of a partition's at slice 255. -/
def aReq (part lines : Nat) : SliceReq := ⟨255, part, lines, 0, 0, [], 0, 0, true, false⟩
theorem test_hyps_FabricEvents :
    (let s := base.onGran fun g => { g with reqs := [aReq 1 4, aReq 0 2] }
     (∀ q, q < 48 → qosGwt (s.partAt q).qos = 0) ∧ (∀ q, q < 0 → s.firstAt 255 q = none) ∧ (∃ r v, s.serve 255 0 = some (r, v)) ∧
      s.firstAt 255 0 = some (1, aReq 0 2) ∧ s.watched 1 6 0 = false ∧ s.watched 2 6 0 = false) ∧
    -- a partition of weight 4 waits, beside one of weight 0
    (let s := (base.setPart 0 fun p => { p with qos := 0x04000000 }).onGran fun g => { g with reqs := [aReq 1 4, aReq 0 2] }
     0 < qosGwt (s.partAt 0).qos ∧ (s.firstAt 255 0).isSome = true ∧ qosGwt (s.partAt 1).qos = 0 ∧ Sparse.wf 0 s.gran.deficits = true ∧ s.mgmt.replay.mode = 0) ∧
    (let s := { base.onFab fun f => { f with waiting := [(0, ⟨0, 1, aReq 0 1, false⟩), (3, ⟨102, 0, aReq 0 1, false⟩)] } with gcc := 0xFFFF }
     Sparse.get none s.fab.slots (ringLaneKey 3 (slotAt (stationPos 102) s.gcc) 3) = none ∧ s.ringOwner 3 (slotAt (stationPos 102) s.gcc) 3 = 0xFF ∧
      lowest (fun w : Nat × RingMsg => w.1 == 3 && w.2.src == 102) s.fab.waiting = some 1 ∧
      s.fab.waiting[1]? = some (3, ⟨102, 0, aReq 0 1, false⟩) ∧ stationCode 102 = 0x66) ∧
    (coreless 102 = false ∧ (Config.fiveSites = true → coreless 6 = true)) ∧
    (let m := { MeshOut.init with ages := [(9, 63)] }
     let s := { meshWith [aFlit 2 9, aFlit 4 10] m base with gcc := 5 }
     let n := (Sparse.get MeshOut.init s.fab.mesh (meshKey 3 15 5)).idle s.gcc
     (Sparse.get MeshOut.init s.fab.mesh (meshKey 3 15 5)).last ≠ some s.gcc ∧ s.mage 3 = 64 ∧
      s.meshCands 3 15 5 = [aFlit 2 9, aFlit 4 10] ∧ (n.choose 64 (s.meshCands 3 15 5)).flit = some (aFlit 2 9) ∧
      ({ n with ages := [(10, 64)] }.choose 64 (s.meshCands 3 15 5)).flit = some (aFlit 4 10) ∧ (n.choose 64 []).flit = none) ∧
    (let s := { meshWith [] { MeshOut.init with last := some 5 } base with gcc := 5 }
     (Sparse.get MeshOut.init s.fab.mesh (meshKey 3 15 5)).last = some s.gcc) ∧
    (base.meshCands 3 15 5 = [] ∧ (Sparse.get MeshOut.init base.fab.mesh (meshKey 3 15 5)).last ≠ some base.gcc) := by
  refine ⟨⟨by decide +kernel, fun q h => absurd h (by omega), ?_, by decide +kernel, by decide +kernel, by decide +kernel⟩, by decide +kernel, by decide +kernel,
    ⟨by simp [coreless, show ¬stationCode 102 < 96 by decide], fun h => by rw [coreless, h]; decide⟩, by decide +kernel, by decide +kernel, by decide +kernel⟩
  obtain ⟨x, h, -⟩ := some_of (p := fun _ => true) (o := State.serve 255 0 (base.onGran fun g => { g with reqs := [aReq 1 4, aReq 0 2] })) (by decide +kernel)
  exact ⟨x.1, x.2, h⟩

theorem next_of {α σ : Type} {p : α → σ → Bool} {r : Option α × σ} (h : (r.1.any fun a => p a r.2) = true) : ∃ a s, r = (some a, s) ∧ p a s = true := by
  match r, h with
  | (some a, s), h => exact ⟨a, s, rfl, h⟩

/-- A packet without code, toward a node, with a budget, and one that has reached this Crossroads behind it from another node. -/
def plain (dst budget : Nat) : Packet := { aPacket with dst := dst, budget := budget, code := none, msg := false, daddr := 0x40200000, payload := List.replicate 64 3 }
def reached2 (p : Packet) (n : Nat) (s : State) : State :=
  ((net n s).poke 0x45010 [0, 0, 0, 1]).onXr fun x => { x with arrived := [{ aPacket with src := 5 }, p] }
/-- No credit in one channel of a port, since cycle 0. -/
def dry (port ch : Nat) (s : State) : State := s.setPort port fun q => { q with credits := q.credits.setIfInBounds ch 0 }
/-- A packet of this function, second to have come, that is delivered here, with n headers before its own. -/
abbrev landsMet (p : Packet) (n : Nat) (s : State) : Prop :=
  s.entrant 1 = some p ∧ p.code = none ∧ s.dimOrder p.dst = none ∧ p.gen = (s.partAt p.part).gen ∧ p.dcore < (s.partAt p.part).sites.length ∧
    (s.partAt p.part).sites.length ≤ ({ p with dcore := 2 } : Packet).dcore ∧
  ∃ who nodes l v x, s.deliverWho p.part p.dcore = some who ∧ (s.takeArrived 1).groupNodes who p.daddr = some nodes ∧ p.src ∈ nodes ∧
    State.landBeats who p.daddr (p.payload.length / 64) (s.takeArrived 1) = (some l, v) ∧
    v.turnsAt p.part (whoCode p.score p.vfn p.visits) (l.map fun a => .mem a.1 a.2) = some x ∧
    (((x.writeBeats p.part p.gen p.mark l p.payload).meshDown ⟨p.part, p.dcore⟩ (.packet (p.payload.length / 64))).rxQueue p.part p.dcore).hdrs.length = n
def landsB (p : Packet) (n : Nat) (s : State) : Bool :=
  decide (s.entrant 1 = some p ∧ p.code = none ∧ s.dimOrder p.dst = none ∧ p.gen = (s.partAt p.part).gen ∧ p.dcore < (s.partAt p.part).sites.length ∧
    (s.partAt p.part).sites.length ≤ 2) &&
  (s.deliverWho p.part p.dcore).any fun who => (((s.takeArrived 1).groupNodes who p.daddr).any fun l => l.contains p.src) &&
    let r := State.landBeats who p.daddr (p.payload.length / 64) (s.takeArrived 1)
    r.1.any fun l => (r.2.turnsAt p.part (whoCode p.score p.vfn p.visits) (l.map fun a => .mem a.1 a.2)).any fun x =>
      decide ((((x.writeBeats p.part p.gen p.mark l p.payload).meshDown ⟨p.part, p.dcore⟩ (.packet (p.payload.length / 64))).rxQueue p.part p.dcore).hdrs.length = n)
theorem lands_of {p : Packet} {n : Nat} {s : State} (h : landsB p n s = true) : landsMet p n s := by
  rw [landsB, Bool.and_eq_true, decide_eq_true_eq] at h
  obtain ⟨⟨h1, h2, h3, h4, h5, h6⟩, h⟩ := h
  obtain ⟨who, hw, h⟩ := some_of h
  rw [Bool.and_eq_true] at h
  obtain ⟨nodes, hn, hm⟩ := some_of h.1
  obtain ⟨l, hl, h⟩ := some_of h.2
  obtain ⟨x, hx, h⟩ := some_of h
  exact ⟨h1, h2, h3, h4, h5, h6, who, nodes, l, _, x, hw, hn, List.contains_iff_mem.mp hm, Prod.ext hl rfl, hx, of_decide_eq_true h⟩
theorem test_hyps_CrossroadsEvents :
    ((reached2 aPacket 1 base).entrant 1 = some aPacket ∧ aPacket.code.isSome = true) ∧
    (∀ d ∈ [(1, 0), (2, 0), (16, 2)], ∀ b ∈ [0, 1], let s := reached2 (plain d.1 b) 1 base
      let ch := (⟨{ plain d.1 b with budget := b - 1 }, d.2, s.gcc, none⟩ : TxPkt).channel false s
      s.entrant 1 = some (plain d.1 b) ∧ s.dimOrder d.1 = some d.2 ∧ s.portUp d.2 = true ∧ 0 < (s.torusPort d.2).credit ch ∧ ch < 8 ∧
        s.releasesTo (some (s.neighbour d.2)) (fun _ => false) (plain d.1 b).mark = true ∧ ((reached2 (plain d.1 b) 0 base).torusPort d.2).credit ch = 0) ∧
    -- no message, a message into the last place of its core's queue, and one too many
    (∀ r ∈ [(false, 0), (true, 15), (true, 16)], let p : Packet := { plain 0 1 with msg := r.1 }
     let s := (reached2 p 1 base).setRx 0 0 ⟨List.replicate r.2 aPacket, false⟩
     s.entrant 1 = some p ∧ p.code = none ∧ s.dimOrder 0 = none ∧ p.gen = (s.partAt p.part).gen ∧ p.dcore < (s.partAt p.part).sites.length ∧
       (s.partAt p.part).sites.length ≤ ({ p with dcore := 2 } : Packet).dcore ∧
      ∃ who nodes l v x, s.deliverWho p.part p.dcore = some who ∧ (s.takeArrived 1).groupNodes who p.daddr = some nodes ∧ p.src ∈ nodes ∧
        State.landBeats who p.daddr (p.payload.length / 64) (s.takeArrived 1) = (some l, v) ∧
        v.turnsAt p.part (whoCode p.score p.vfn p.visits) (l.map fun a => .mem a.1 a.2) = some x ∧
        (((x.writeBeats p.part p.gen p.mark l p.payload).meshDown ⟨p.part, p.dcore⟩ (.packet (p.payload.length / 64))).rxQueue p.part p.dcore).hdrs.length = r.2) ∧
    (let s := { (dry 0 2 (net 1 base)).onXr fun x => { x with tx := [⟨plain 1 1, 0, 0, none⟩, ⟨plain 1 1, 3, 5, none⟩] } with gcc := 0x10005 }
     let x : TxPkt := ⟨plain 1 1, 0, 0, none⟩
     s.xr.tx[0]? = some x ∧ s.dryFor 0 (x.channel false s) 256 = true ∧ s.portUp 0 = true ∧ s.dimOrder 1 = some 0 ∧ 0 < (s.torusPort 0).credit (x.channel true s) ∧
      s.releasesTo (some (s.neighbour 0)) (fun _ => false) x.pkt.mark = true ∧ s.xr.tx[1]? = some ⟨plain 1 1, 3, 5, none⟩ ∧ 65536 ≤ (s.gcc - 5).toNat ∧ s.dimOrder 1 ≠ some 3) ∧
    (∀ n ∈ [4, 0], let s := (base.setPart 0 fun p => { p with parkBase := 60, parkCount := n }).onXr fun x => { x with parks := [⟨aPacket, .user 255, 0, 7, none⟩], beads := [(0, 0xFFFFFFFF)] }
      s.xr.parks[0]? = some ⟨aPacket, .user 255, 0, 7, none⟩ ∧ Sparse.wf 0 s.xr.beads = true ∧ Sparse.wf none s.xr.bay = true ∧
        s.freePark 0 = (if n = 0 then none else some 60) ∧ (s.choose 3 0 ((s.freePark 0).getD 64) (whoCode 0 0 (ParkReason.user 255).code)).isSome = true) := by
  refine ⟨by decide +kernel, by decide +kernel, ?_, by decide +kernel, by decide +kernel⟩
  have h (m : Bool) (n : Nat) (h : m = false ∧ n = 0 ∨ m = true ∧ (n = 15 ∨ n = 16)) : landsB { plain 0 1 with msg := m } n
      ((reached2 { plain 0 1 with msg := m } 1 base).setRx 0 0 ⟨List.replicate n aPacket, false⟩) = true := by
    rcases h with ⟨rfl, rfl⟩ | ⟨rfl, rfl | rfl⟩ <;> decide +kernel
  intro r hr
  have hr : r = (false, 0) ∨ r = (true, 15) ∨ r = (true, 16) := by simpa using hr
  rcases hr with rfl | rfl | rfl
  · exact lands_of (h false 0 (.inl ⟨rfl, rfl⟩))
  · exact lands_of (h true 15 (.inr ⟨rfl, .inl rfl⟩))
  · exact lands_of (h true 16 (.inr ⟨rfl, .inr rfl⟩))

/-- A reduction packet that has left its core, for group 1 of nodes 0 and 1, and slot 255 with a packet of its sum. -/
def redKey (home : Nat) : RedKey := ⟨0, 3, home, 0, 0x4000, some 0, none⟩
def redPkt (home : Nat) : AaccPkt := { sumPkt with carryIx := none, red := some (redKey home), resv := some 6 }
def redSlot (expect : Nat) : Slot := ⟨0, 3, expect, 0, some (redKey 1), true, 1, List.replicate 64 1, 0, Mark.empty, []⟩
def redState (home : Nat) (z : Option Slot) (s : State) : State := ((net 1 s).setSlot 255 z).onXr fun x => { x with redIn := [redPkt home], resv := [⟨6, 0, 0, 3, [255], false⟩] }
def booking (group home : Nat) (granted : List Nat) (wait : Option Nat) : Booking := ⟨9, 0, 0, group, 4, home, granted, wait, true, false, 0⟩
theorem test_hyps_CombiningAndReservations :
    (∀ h ∈ [0, 1], let s := redState h none base
      s.xr.redIn[0]? = some (redPkt h) ∧ (redPkt h).red = some (redKey h) ∧ s.redSent (redPkt h) = true ∧ s.slotFor (redKey h) (redPkt h).gen = none ∧
        s.redMay (redPkt h) (redKey h).home = true ∧ (redKey h).coll = none ∧ (s.passTurn (redKey h) (redPkt h)).isSome = true) ∧
    -- one that a port has counted as its first away, and whose reservation does not stand here
    (let p := { redPkt 1 with carryIx := some 62, resv := some 7 }
     let s := ((redState 1 none base).onXr fun x => { x with redIn := [p] }).onPort fun q => { q with pend := [⟨.a, 0, 0, some 7, [.away 62 0 0 false], 0, Mark.empty, false⟩] }
     s.xr.redIn[0]? = some p ∧ s.redSent p = true ∧ s.passes (redKey 1) p = true ∧ s.redMay p (redKey 1).home = true ∧
      (s.passTurn (redKey 1) p).isSome = true) ∧
    (∀ e ∈ [2, 3], let s := redState 1 (some (redSlot e)) base
      let z := (redSlot e).combine (redKey 1) (redPkt 1)
      s.xr.redIn[0]? = some (redPkt 1) ∧ s.passes (redKey 1) (redPkt 1) = false ∧ s.slotFor (redKey 1) (redPkt 1).gen = some 255 ∧ s.slot 255 = some (redSlot e) ∧
        (s.choose 3 0 255 (s.aaccWho (redPkt 1) 0)).isSome = true ∧ (if e = 3 then z.got < z.expect else z.expect ≤ z.got ∧ s.redMay (z.packet (redKey 1) (s.resvOf 255)) 1 = true)) ∧
    (let s := (net 1 base).onColl fun c => { c with bookings := [booking 3 1 [] none, booking 3 1 [0] none] }
     s.coll.bookings[0]? = some (booking 3 1 [] none) ∧ (s.resvNodes 3 1 false).find? (fun n => !([] : List Nat).contains n) = some 0 ∧ (s.resvNodes 3 1 true).find? (fun n => !([] : List Nat).contains n) = some 1 ∧ s.coll.bookings[1]? = some (booking 3 1 [0] none) ∧
      (s.resvNodes 3 1 false).find? (fun n => !([0] : List Nat).contains n) = some 1 ∧ s.mgmt.node = 0) ∧
    (let q : SlotReq := ⟨9, 5, 0, 0, 3, 4, 1, true, false⟩
     let z := (redSlot 2).emptied
     let s := ((net 1 base).setSlot 255 (some z)).onXr fun x => { x with requests := [q, { q with id := 8, stamp := 6 }] }
     firstReq s.xr.requests = some q ∧ q.stamp ≠ s.gcc ∧ Sparse.wf none s.xr.slots = true ∧ s.slot 255 = some z ∧ z.key = none) ∧
    (let q : SlotReq := ⟨9, 5, 0, 0, 3, 4, 1, true, false⟩
     let s := (net 1 base).onXr fun x => { x with requests := [q, { q with id := 8, stamp := 6 }] }
     firstReq s.xr.requests = some q ∧ q.stamp ≠ s.gcc ∧ s.fits q = true ∧ Sparse.wf none s.xr.slots = true ∧ (s.choose 3 q.part 256 (whoCode 0 q.vf q.count)).isSome = true) ∧
    base.xr.requests = [] ∧
    (let c := { (default : Coll) with bookings := [(0, 9)] }
     let s := (base.onColl fun c => { c with bookings := [booking 3 1 [] none] }).setVf 0 fun v => { v with colls := [c] }
     s.coll.bookings[0]? = some (booking 3 1 [] none) ∧ (booking 3 1 [] none).leased = true ∧ (booking 3 1 [] none).deadline ≤ s.mgmt.power.time ∧ s.bookedColl 9 = some c) := by
  decide +kernel

/-- A collective of nodes 0 and 1 of op, by the ring, at the head of function 0's queue, at an act of its plan. -/
def collBlk (op : Nat) : CollBlock :=
  { ticket := 1, key := ⟨0, 0, 3, 0⟩, core := ⟨0, 0⟩, addr := 0x8000, op := op, dtype := 7, red := 0, algo := 1, fallback := 0, nslot := 0, bead := 15, root := 0,
    group := 0x40200000, members := [0, 1], send := 0x10000000, recv := 0x11000000, count := 4 }
def coll (op pos : Nat) (planned : Bool) (o : Option Nat) : Coll := ⟨collBlk op, planned, 1, false, [], [], pos, 0, false, [], [], [], o⟩
def heading (c : Coll) (s : State) : State := s.setVf 0 fun v => { v with colls := [c] }
/-- Three members, by halving-doubling. -/
def three : CollBlock := { collBlk 0 with members := [0, 1, 2], algo := 2 }
/-- The chunk of node 1 that an act waits for. -/
def aChunk (phase piece : Nat) : Chunk := ⟨1, 0, ⟨0, 0, 3, 0⟩, phase, piece, ⟨List.replicate 8 0, Mark.empty, []⟩⟩
theorem test_hyps_CollectiveEvents :
    (∀ p ∈ [(collBlk 0).posted 1, (collBlk 5).posted 1], let s := (heading (coll 0 0 false none) base).onColl fun c => { c with blocks := [p] }
      s.headColl 0 = some (coll 0 0 false none) ∧ ∀ n ∈ (collBlk 0).members.filter (· != s.mgmt.node), s.peerOf (collBlk 0).key n = some p) ∧
    ({ (collBlk 0).posted 1 with node := 0 } = (collBlk 0).posted 0 ∧ { (collBlk 5).posted 1 with node := 0 } ≠ (collBlk 0).posted 0) ∧
    (let c := { coll 0 0 false none with blk := three }
     let s := (heading c base).onColl fun c => { c with blocks := [three.posted 1, three.posted 2] }
     s.headColl 0 = some c ∧ (∀ n ∈ three.members.filter (· != s.mgmt.node), (s.peerOf three.key n).isSome = true) ∧
       (∀ n ∈ three.members.filter (· != s.mgmt.node), ∀ p ∈ (s.peerOf three.key n).toList, { p with node := 0 } = three.posted 0) ∧
       three.members.length ≠ 2 ^ Nat.log2 three.members.length) ∧
    (let s := heading (coll 0 0 true none) base
     s.mayStep 0 = true ∧ s.headColl 0 = some (coll 0 0 true none) ∧ s.nextAct (coll 0 0 true none) = some (.send 8 [1] ⟨8, 8⟩) ∧ 0 < (s.collRound 0).collDeficit 0 ∧
      ∃ w v r, (s.collRound 0).collPiece 0 (coll 0 0 true none) ⟨8, 8⟩ = (.ok w, v) ∧ v.choose 7 0 0 (whoCode 0 0 0) = some r ∧ r.headColl 0 = some (coll 0 0 true none)) ∧
    (let s := (heading (coll 0 1 true none) base).onColl fun k => { k with chunks := [aChunk 8 0] }
     s.mayStep 0 = true ∧ s.headColl 0 = some (coll 0 1 true none) ∧ s.nextAct (coll 0 1 true none) = some (.fold 8 1 ⟨0, 8⟩ false) ∧
       s.chunkFrom (coll 0 1 true none) 8 1 ⟨0, 8⟩ = some (aChunk 8 0) ∧ ∃ w v, s.collPiece 0 (coll 0 1 true none) ⟨0, 8⟩ = (.ok w, v)) ∧
    (let s := (heading (coll 0 3 true none) base).onColl fun k => { k with chunks := [aChunk 9 8] }
     s.mayStep 0 = true ∧ s.headColl 0 = some (coll 0 3 true none) ∧ s.nextAct (coll 0 3 true none) = some (.take 9 1 ⟨8, 8⟩) ∧
       s.chunkFrom (coll 0 3 true none) 9 1 ⟨8, 8⟩ = some (aChunk 9 8) ∧ ∃ w v, s.collPiece 0 (coll 0 3 true none) ⟨8, 8⟩ = (.ok w, v)) ∧
    (let s := heading (coll 0 5 true none) base
     s.mayStep 0 = true ∧ s.headColl 0 = some (coll 0 5 true none) ∧ s.nextAct (coll 0 5 true none) = some (.store ⟨8, 8⟩ 8) ∧
       ∃ w v l r, s.collPiece 0 (coll 0 5 true none) ⟨8, 8⟩ = (.ok w, v) ∧
         v.collPlaces 0 true (w.data.length / 4096 + 2) ((coll 0 5 true none).blk.recv.toNat + 8) w.data.length = (.ok l, r)) ∧
    (∀ c ∈ [coll 0 0 true (some 2), coll 0 7 true none], let s := heading c base
      s.headColl 0 = some c ∧ (∀ p ∈ c.misses, ∀ r ∈ (s.vfAt 0).reqQ, r.page ≠ p) ∧ (c.outcome = none → c.planned = true ∧ s.nextAct c = none) ∧
        ∃ l v, s.collPlaces 0 true 2 (c.blk.addr.toNat + 0x28) 8 = (.ok l, v)) := by
  refine ⟨by decide +kernel, by decide +kernel, by decide +kernel, ⟨by decide +kernel, by decide +kernel, by decide +kernel, by decide +kernel, ?_⟩,
    ⟨by decide +kernel, by decide +kernel, by decide +kernel, by decide +kernel, ?_⟩, ⟨by decide +kernel, by decide +kernel, by decide +kernel, by decide +kernel, ?_⟩,
    ⟨by decide +kernel, by decide +kernel, by decide +kernel, ?_⟩, ?_⟩
  · exact (okB_of (p := fun (_ : Work) (v : State) => (v.choose 7 0 0 (whoCode 0 0 0)).any fun r => decide (r.headColl 0 = some (coll 0 0 true none)))
      (by decide +kernel)).imp fun w h => h.imp fun v h => (some_of h.2).imp fun r hr => ⟨h.1, hr.1, of_decide_eq_true hr.2⟩
  · exact (okB_of (p := fun _ _ => true) (by decide +kernel)).imp fun w h => h.imp fun v h => h.1
  · exact (okB_of (p := fun _ _ => true) (by decide +kernel)).imp fun w h => h.imp fun v h => h.1
  · obtain ⟨w, v, h, hq⟩ := okB_of (p := fun (w : Work) (v : State) => okB (fun _ _ => true)
      (v.collPlaces 0 true (w.data.length / 4096 + 2) ((coll 0 5 true none).blk.recv.toNat + 8) w.data.length))
      (r := (heading (coll 0 5 true none) base).collPiece 0 (coll 0 5 true none) ⟨8, 8⟩) (by decide +kernel)
    obtain ⟨l, r, hl, -⟩ := okB_of hq
    exact ⟨w, v, l, r, h, hl⟩
  · intro c hc
    have h2 : c = coll 0 0 true (some 2) ∨ c = coll 0 7 true none := by simpa using hc
    rcases h2 with rfl | rfl <;> exact ⟨by decide +kernel, by decide +kernel, by decide +kernel,
      (okB_of (p := fun _ _ => true) (by decide +kernel)).imp fun l h => h.imp fun v h => h.1⟩

/-- Every site of the first two stops enabled, and no context on core 0. -/
def sited (s : State) : State := s.onMgmt fun m => { m with siteClass := ((List.range 7) ++ (List.range 7).map (· + 8)).map fun n => (n, 1) }
def idle (s : State) : State := { s with core := s.core.cleared }.onDisp fun d => { d with tasks := [] }
theorem accepts_of {h : CmdHdr} {e : Bool} {s : State} (x : (decide (s.mgmt.pins ≠ .fatal ∧ 6 ≤ s.mgmt.step ∧ s.mgmt.journal = []) && s.inSession h) = true) :
    Accepts h e s := by
  simp only [Bool.and_eq_true, decide_eq_true_eq] at x
  exact ⟨x.1.1, fun _ => x.1.2.1, x.2, fun c hc => by rw [x.1.2.2] at hc; cases hc⟩
def hypCmd : CmdHdr := ⟨.hyp, 7, 0, 0, 0, 0⟩
def vfCmd : CmdHdr := ⟨.vf 0, 7, 0, 0, 0, 0⟩
/-- The last row of grants, two store ways of four. -/
def lastGrant : GrantReq := ⟨255, 15, 2, 0x000F⟩
def noStore : GrantReq := ⟨255, 15, 0, 0x000F⟩
/-- Limits at the ends of their ranges. -/
def lastLimits : Limits := ⟨0x7FFF, 2048, 2048, 2 ^ 32 - 1, 1, 63, 1, 256, 0, 16, 0x0400⟩
def limited : Part := { (sited base).partAt 0 with
  emask := 0x7FFF, xbBase := 2048, xbCount := 2048, scrBase := 2 ^ 32 - 1, scrCount := 1, parkBase := 63, parkCount := 1, slots := 256, precfg := 0, slip := clampSlip 16
  qos := 0x0400 }
theorem test_hyps_PartitionCommands :
    (Accepts hypCmd false (sited base) ∧ hypCmd.issuer = .hyp ∧ NamesPart 0 (sited base)) ∧
    (let s := sited base
     (s.partAt 47).st = .free ∧ s.sitesOdd [14, 8] = false ∧ grantsOdd [lastGrant] = false ∧ s.grantsFit 47 [lastGrant] = true ∧ qosOdd 0x0400 = false ∧
      (∀ n ∈ [14, 8], s.siteUsed n = false) ∧ (s.partAt 47).used = false ∧
      (((s.setPart 47 fun _ => { Part.init with st := .live, gen := 0, used := true, qos := 0x0400, quantum := 7, isSealed := true, world := s.ticks * 64 + 47 + 1, cnt := (s.partAt 47).cnt }).addSites 47 [14, 8]).setGrants 47
          [lastGrant]).ringFits
        = true) ∧
    (base.bumpFree 0 = true ∧ (base.setPart 0 fun p => { p with gen := 63, stale := [0] }).bumpFree 0 = false) ∧
    (let s := sited base
     s.sitesOdd [8] = false ∧ [1].Nodup ∧ [1].length ≤ (s.partAt 0).sites.length ∧ (∀ n ∈ [1], n ∈ (s.partAt 0).sites.drop ((s.partAt 0).sites.length - [1].length)) ∧ s.siteUsed 8 = false ∧
      (∀ n, (s.partAt 0).sites.length - [1].length ≤ n → n < (s.partAt 0).sites.length → s.coreBusy ⟨0, n⟩ = false) ∧ s.storeChanges 0 [noStore] = false ∧ (sited (idle base)).partBusy 0 = false ∧
      s.grantsFit 0 [noStore] = true ∧ s.grantsFit 0 [lastGrant] = true ∧
      (((((s.setPart 0 fun p => { p with sites := [0] }).dropStrays).addSites 0 [8]).setGrants 0 [noStore]).dropWide 0).ringFits = true) ∧
    (limitsOdd lastLimits = false ∧ ((sited base).setPart 0 fun _ => limited).ringFits = true) ∧
    (((idle base).partAt 0).st = .live ∧ (idle base).partBusy 0 = false ∧ base.partBusy 0 = true) ∧
    (let s := base.setPart 47 fun p => { p with st := .draining }
     (s.partAt 47).st = .draining ∧ (s.partAt 47).doomed = none ∧ s.nothingFrom (fun c => c.part == 47) = true) ∧
    ((base.partAt 0).st = .live ∧ base.core.place.part = 0 ∧ base.core.place.run ≠ .scrubbing ∧
      base.nothingFrom (fun c => ((base.coreAt c).map fun k => k.place.part == 0 && k.place.run == .scrubbing).getD false) = true) := by
  refine ⟨⟨accepts_of (by decide +kernel), by decide +kernel, ⟨by decide +kernel, by decide +kernel, by decide +kernel⟩⟩, by decide +kernel, by decide +kernel,
    ⟨by decide +kernel, by decide, by decide +kernel, by decide +kernel, by decide +kernel, ?_, by decide +kernel⟩, by decide +kernel, by decide +kernel, by decide +kernel,
    by decide +kernel⟩
  intro n h1 h2
  rw [show ((sited base).partAt 0).sites = [0, 1] by decide +kernel] at h1 h2
  obtain rfl : n = 1 := by simp at h1 h2; omega
  decide +kernel

/-- A context of function 0 at a breakpoint, and a page of the function that carries label 5. -/
def atBreak (s : State) : State := s.onPlace fun p => { p with run := .debug }
def labelled (s : State) : State := s.setPageMark 0 ⟨[5], false⟩
/-- A page request of function 0 for its second page, and the reply to it. -/
def aRec : PageRec := ⟨0x10000, 0x10000, false, true, false, false, 0, 0, 0, 1, 0, 0, 1, [0]⟩
def aReply : PageReplyRec := ⟨0x10000, 0, 0, 0, 0, 0, false, false⟩
/-- A block of the image of core 0's context whose tag is not that of its bytes. -/
def altered (k : WorldKeys) : AlteredBlock := ⟨⟨0, 0⟩, 0, 0, [1], Config.tag k.mac 0 [1] + 1⟩
theorem fails_of (k : WorldKeys) (s : State) (h : (s.vfAt 0).keys = some k) (ha : s.disp.altered = [altered k]) : s.imageFails 0 ⟨0, 0⟩ 0 = true := by
  rw [State.imageFails, h, ha]
  simp [altered, AlteredBlock.failsFor]
/-- A sealed function's context whose stored image has that block. -/
theorem test_hyps_image_fails :
    let s := (base.setVf 0 fun v => { v with keys := some ⟨1, 2, 3⟩ }).onDisp fun d => { d with altered := [altered ⟨1, 2, 3⟩] }
    (s.contexts 0).find? (fun c => c.place.num == 0) = some base.core ∧ s.imageFails 0 base.core.id (base.core.place.task.getD 0) = true :=
  ⟨by decide +kernel, fails_of ⟨1, 2, 3⟩ _ (by decide +kernel) rfl⟩
theorem test_hyps_FunctionCommands :
    ((∀ early : Bool, Accepts hypCmd early base ∧ Accepts vfCmd early base) ∧ base.assignOdd 191 0 255 (some 0x10000) 0x1000 12 = false ∧ NamesPart 0 base ∧ (base.vfAt 191).part = none) ∧
    (NamesVf vfCmd 0 base ∧ NamesVf hypCmd 0 base ∧ vfCmd.issuer = .vf vfCmd.vfn ∧ hypCmd.issuer = .hyp ∧ Entitled vfCmd 0 base ∧ Entitled hypCmd 0 base) ∧
    (fld (0x0000FFFFFFFFF001 : W64) 48 16 = 0 ∧ fld (0x0000FFFFFFFFF001 : W64) 1 11 = 0 ∧ (2 ^ 64 - 128) % 128 = 0 ∧ (base.vfAt 0).launch.length < 256 ∧
      256 ≤ ((base.setVf 0 fun v => { v with launch := List.replicate 256 ⟨0, none, 0⟩ }).vfAt 0).launch.length) ∧
    (base.disp.tasks.find? (fun t => t.vf == 0 && t.r.addr.toNat == 0 && t.outcome.isNone) = some tblTask ∧
      base.disp.tasks.find? (fun t => t.vf == 0 && t.r.addr.toNat == 0x8000 && t.outcome.isNone) = none ∧
      lowest (fun l : Launch => l.addr.toNat == 0x8000) ((launched base).vfAt 0).launch = some 1 ∧ ((launched base).vfAt 0).launch[1]? = some ⟨0x8000, none, 1⟩ ∧
      ∀ l ∈ (base.vfAt 0).launch, l.addr.toNat ≠ 0x8000) ∧
    (∃ l v, base.guestPlaces 0 (2 / 65536 + 2) 0x1000FFFF 2 = (some l, v)) ∧ ((base.partAt 0).isSealed = false) ∧
    (∃ l v, base.guestPlaces 0 (2 / 65536 + 2) 0x1000FFFF 2 = (some l, v) ∧ (∃ m r, (v.guestPut 0 0 l [1, 2]).guestPlaces 0 ((0xFF + 2) / 65536 + 2) 0x1000FF00 (0xFF + 2) = (some m, r)) ∧
      (∀ x ∈ l, v.badBlock 0 (x.2.1.at x.1) x.2.2 = false ∧ v.poisoned (x.2.1.at x.1) x.2.2 = false) ∧
      (∀ x ∈ l, v.releases 0 (v.pageMark (x.2.1.frame x.1)) = true ∨ v.inReplay (x.2.1.at x.1) = true)) ∧
    (∃ l v, (labelled base).guestPlaces 0 (2 / 65536 + 2) 0x1000FFFF 2 = (some l, v) ∧
      (∀ x ∈ l, v.badBlock 0 (x.2.1.at x.1) x.2.2 = false ∧ v.poisoned (x.2.1.at x.1) x.2.2 = false) ∧ v.mgmt.stile = [] ∧
      ∃ x ∈ l, v.releases 0 (v.pageMark (x.2.1.frame x.1)) = false ∧ v.inReplay (x.2.1.at x.1) = false) ∧
    ((base.contexts 0).find? (fun c => c.place.num == 0) = some base.core ∧ base.core.place.run ≠ .debug ∧
      base.imageFails 0 base.core.id (base.core.place.task.getD 0) = false ∧
      ((atBreak base).contexts 0).find? (fun c => c.place.num == 0) = some (atBreak base).core ∧ (atBreak base).core.place.run = .debug) ∧
    -- VF.RESET: held back by a command that waits, with no tasks, with a task, and once its tasks are over
    (let s := base.onMgmt fun m => { m with waiting := [{ vfCmd with reqid := 6 }] }
     s.heldBehind vfCmd = true ∧ base.heldBehind vfCmd = false ∧ (base.vfAt 0).leaving ≠ some hypCmd.reqid ∧ (∃ k ∈ base.disp.tasks, k.vf = 0) ∧
       ∀ k ∈ (idle base).disp.tasks, k.vf ≠ 0) ∧
    (let s := (idle base).setVf 0 fun v => { v with leaving := some 7 }
     (s.vfAt hypCmd.vfn).leaving = some hypCmd.reqid ∧ (∀ k ∈ s.disp.tasks, k.vf ≠ hypCmd.vfn) ∧ Accepts hypCmd false s ∧ NamesVf hypCmd 0 s) ∧
    -- a world's image
    (let s := ((inRota 0 base).setPart 0 fun p => { p with isSealed := true }).onMgmt fun m => { m with sessions := [⟨0, .vf 0, 0⟩] }
     Accepts vfCmd false s ∧ NamesVf vfCmd 0 s ∧ Entitled vfCmd 0 s ∧ (s.partAt 0).isSealed = true ∧ s.framesAre 0 (frameLen ⟨some 0, 1, 1⟩) = true) ∧
    (fld (0xC0000FFFFFFFF000 : W64) 44 18 = 0 ∧ fld (0xC0000FFFFFFFF000 : W64) 0 12 = 0) ∧
    (let s := base.setVf 0 fun v => { v with reqQ := [aRec] }
     Accepts hypCmd false s ∧ replyOdd aReply = false ∧ replyMay hypCmd aReply = true ∧ aReply.kind = 0 ∧ aReply.status = 0 ∧ (s.vfAt 0).part = some 0 ∧ (s.partAt 0).st ≠ .draining ∧ s.replyRefused aReply = false ∧
      (∃ v, s.choose 5 0 0 (whoCode 0 0 (aReply.addr / 4096)) = some v) ∧ BitVec.ofNat 6 aReply.gen = (s.vfAt 0).gen ∧
      (s.vfAt 0).reqQ.find? (fun y => y.page == aReply.addr / 65536) = some aRec) := by
  refine ⟨⟨fun _ => ⟨accepts_of (by decide +kernel), accepts_of (by decide +kernel)⟩, by decide +kernel, ⟨by decide +kernel, by decide +kernel, by decide +kernel⟩, by decide +kernel⟩,
    ⟨⟨by decide +kernel, by decide +kernel, by decide +kernel⟩, ⟨by decide +kernel, by decide +kernel, by decide +kernel⟩, rfl, rfl, .inl rfl, .inr ⟨rfl, by decide +kernel⟩⟩,
    by decide +kernel, by decide +kernel, ?_, by decide +kernel, ?_, ?_, by decide +kernel, by decide +kernel,
    ?_, ?_, by decide +kernel,
    ⟨accepts_of (by decide +kernel), by decide +kernel, by decide +kernel, by decide, by decide, by decide +kernel, by decide +kernel, by decide +kernel, ?_, by decide +kernel⟩⟩
  · obtain ⟨l, v, h, -⟩ := next_of (p := fun _ _ => true) (r := base.guestPlaces 0 (2 / 65536 + 2) 0x1000FFFF 2) (by decide +kernel)
    exact ⟨l, v, h⟩
  · obtain ⟨l, v, h, hq⟩ := next_of (p := fun (l : List (Nat × S2 × Nat)) (v : State) =>
      ((v.guestPut 0 0 l [1, 2]).guestPlaces 0 ((0xFF + 2) / 65536 + 2) 0x1000FF00 (0xFF + 2)).1.isSome &&
      l.all (fun x => !v.badBlock 0 (x.2.1.at x.1) x.2.2 && !v.poisoned (x.2.1.at x.1) x.2.2) && l.all fun x => v.releases 0 (v.pageMark (x.2.1.frame x.1)))
      (r := base.guestPlaces 0 (2 / 65536 + 2) 0x1000FFFF 2) (by decide +kernel)
    simp only [Bool.and_eq_true, List.all_eq_true, Bool.not_eq_true'] at hq
    obtain ⟨⟨hm, hb⟩, hr⟩ := hq
    obtain ⟨m, r, hm, -⟩ := next_of (p := fun _ _ => true) (r := (v.guestPut 0 0 l [1, 2]).guestPlaces 0 ((0xFF + 2) / 65536 + 2) 0x1000FF00 (0xFF + 2))
      (by revert hm; cases ((v.guestPut 0 0 l [1, 2]).guestPlaces 0 ((0xFF + 2) / 65536 + 2) 0x1000FF00 (0xFF + 2)).1 <;> simp)
    exact ⟨l, v, h, ⟨m, r, hm⟩, hb, fun x hx => .inl (hr x hx)⟩
  · obtain ⟨l, v, h, hq⟩ := next_of (p := fun (l : List (Nat × S2 × Nat)) (v : State) =>
      l.all (fun x => !v.badBlock 0 (x.2.1.at x.1) x.2.2 && !v.poisoned (x.2.1.at x.1) x.2.2) && v.mgmt.stile.isEmpty &&
      l.any fun x => !v.releases 0 (v.pageMark (x.2.1.frame x.1)) && !v.inReplay (x.2.1.at x.1))
      (r := (labelled base).guestPlaces 0 (2 / 65536 + 2) 0x1000FFFF 2) (by decide +kernel)
    simp only [Bool.and_eq_true, List.all_eq_true, Bool.not_eq_true', List.any_eq_true, List.isEmpty_iff] at hq
    exact ⟨l, v, h, hq.1.1, hq.1.2, hq.2⟩
  · exact ⟨by decide +kernel, by decide +kernel, accepts_of (by decide +kernel), ⟨by decide +kernel, by decide +kernel, by decide +kernel⟩⟩
  · exact ⟨accepts_of (by decide +kernel), ⟨by decide +kernel, by decide +kernel, by decide +kernel⟩, .inl rfl, by decide +kernel, by decide +kernel⟩
  · obtain ⟨v, h, -⟩ := some_of (p := fun _ => true) (o := State.choose 5 0 0 (whoCode 0 0 (aReply.addr / 4096)) (base.setVf 0 fun v => { v with reqQ := [aRec] })) (by decide +kernel)
    exact ⟨v, h⟩

/-- Function 0's policy on the page of label 5, whose digest is bound. -/
def policy : PolicyRec := ⟨3, [5], 0, true, 0, 0x10000, 2 ^ 40, 0, true, [77], true⟩
def bound5 (s : State) : State := s.onMgmt fun m => { m with labels := [(5, 77)] }
/-- An empty sealed partition 0 of two cores. -/
def sealed (s : State) : State := (idle s).setPart 0 fun p => { p with isSealed := true }
theorem test_hyps_DeviceCommands :
    (∀ p ∈ [EvScope.part 0, .vf 0], match p with
      | .module => True
      | .part p => p < 48 ∧ (base.partAt p).st ≠ .free ∧ (base.partAt p).st ≠ .draining
      | .vf n => n < 192 ∧ ∃ p, (base.vfAt n).part = some p ∧ (base.partAt p).st ≠ .draining) ∧
    ((∀ x ∈ base.mgmt.labels, x.1 ≠ 255) ∧ (∃ x ∈ (bound5 base).mgmt.labels, x.1 = 5) ∧ (List.replicate 8 (0 : BitVec 256)).length ≤ 8 ∧
      ∀ b ∈ [(0, 3, 2), (1, 3071, 1), (2, 3071, 1), (3, 16383, 1), (4, 196607, 1)], ((List.range (b.2.1 + 1 - b.2.1)).mapM fun k => (sited base).telemetry b.1 (b.2.1 + k)).isSome = true) ∧
    (let s := bound5 base
     policyOdd vfCmd policy = false ∧ s.mgmt.stile = [] ∧ (policy.labels.map fun l => (s.mgmt.labels.find? fun x => x.1 == l).map Prod.snd) = policy.keyDigests.map some ∧
      policy.sigsOk = true ∧ s.mgmt.stile.length < 256) ∧
    (∃ x ∈ ((bound5 base).onMgmt fun m => { m with stile := [⟨policy, 9⟩] }).mgmt.stile, x.r.vfn = vfCmd.vfn ∧ x.r.policyId = 3) ∧
    (base.windowNodes (base.whoVf 0) .named 0x40200000 = some [0] ∧ 4 ≤ (base.limits 0).slots ∧
      (let b := { booking 1 0 [] none with leased := false }
       (base.onColl fun c => { c with bookings := [b, { b with group := 2 }] }).coll.bookings.filter (fun b => b.vf == vfCmd.vfn && b.group == groupKey [0] && !b.leased) = [b])) ∧
    (let s := sealed base
     Accepts hypCmd false s ∧ NamesPart 0 s ∧ s.rotaOdd 0 [⟨some 0, 1023, 255⟩, ⟨none, 0, 0⟩] = false ∧ (s.partAt 0).sites.length = 2 ∧ (s.partAt 0).isSealed = true ∧
      3300000 ≤ ((3300000 : W64) - s.gcc).toInt ∧ ∀ n ∈ [1, 0], s.coreBusy ⟨0, n⟩ = false) ∧
    (let s := (idle base).onMgmt fun m => { m with rbase := 0x10000, rsize := 2 }
     s.armOdd ⟨0x20000, 0x10000, 1, 0, 0xFF⟩ = false ∧ NamesPart 0 s ∧ s.partBusy 0 = false ∧ s.mgmt.replay.mode = 0) ∧
    (let s := (sited base).onMgmt fun m => { m with siteClass := Sparse.set 0 m.siteClass 6 2 }
     s.swapOdd ⟨1, 5, 6, 0⟩ = false ∧ s.swapSpent ⟨1, 5, 6, 0⟩ = false ∧ (s.cores.filter fun c => c.place.site == 5) = [] ∧ s.swapOdd ⟨2, 351, 353, 0⟩ = false ∧
      s.swapSpent ⟨2, 351, 353, 0⟩ = false ∧ s.swapOdd ⟨3, 4095, 1, 0⟩ = false ∧ s.swapSpent ⟨3, 4095, 1, 0⟩ = false ∧ s.swapOdd ⟨5, 0, 5, 0⟩ = false ∧ s.swapSpent ⟨5, 0, 5, 0⟩ = false) ∧
    (0 < Config.repairs 15 → base.swapOdd ⟨4, 511, 0, 9⟩ = false ∧ base.swapSpent ⟨4, 511, 0, 9⟩ = false) := by
  refine ⟨?_, ⟨by decide +kernel, by decide +kernel⟩, by decide +kernel, by decide +kernel, by decide +kernel,
    ⟨accepts_of (by decide +kernel), ⟨by decide +kernel, by decide +kernel, by decide +kernel⟩, by decide +kernel⟩,
    ⟨by decide +kernel, ⟨by decide +kernel, by decide +kernel, by decide +kernel⟩, by decide +kernel⟩, by decide +kernel,
    fun h => ⟨by simp [State.swapOdd, show base.mgmt.spares = [] by decide +kernel, Nat.pos_iff_ne_zero.mp h], rfl⟩⟩
  intro p hp
  have h2 : p = .part 0 ∨ p = .vf 0 := by simpa using hp
  rcases h2 with rfl | rfl
  · exact (by decide +kernel : 0 < 48 ∧ (base.partAt 0).st ≠ .free ∧ (base.partAt 0).st ≠ .draining)
  · exact ⟨by decide, 0, by decide +kernel, by decide +kernel⟩

def aPeer (ok : Bool) : LinkPeer := ⟨true, true, true, true, 77, ok, true⟩
def anEnv (rails test : Bool) (format : Nat) (memory : Bool := true) : BringUpEnv :=
  ⟨rails, test, ⟨format, (1, 0, 0), (2, 1, 1), 3200, 64, 9, 0, 0, true⟩, memory, aPeer true, 8, 1, 2⟩
theorem test_hyps_DeviceEvents :
    (let s := base.onMgmt fun m => { m with step := 6, anchors := [77] }
     6 ≤ s.mgmt.step ∧ (s.torusPort 5).up = false ∧ s.xr.tx = [] ∧ s.xr.notes = [] ∧ s.peerOk (aPeer true) = true ∧ s.peerOk (aPeer false) = false ∧
      (s.torusPort 5).retryAt ≤ s.mgmt.power.time ∧
      (let u := s.setPort 5 fun q => { q with retryAt := 1 }
       u.mgmt.power.time < (u.torusPort 5).retryAt ∧ (u.torusPort 5).up = false)) ∧
    (((net 1 base).torusPort 3).up = true ∧ 2 ^ 32 ≤ ((base.setPort 5 fun q => { q with outDir := { q.outDir with flits := 2 ^ 32 } }).torusPort 5).outDir.flits) ∧
    (base.mgmt.cores[(3 : Fin 6)] = .active ∧ base.mgmt.cores[(4 : Fin 6)] = .spare ∧ ∀ j : Fin 6, j < 4 → base.mgmt.cores[j] ≠ .spare) ∧
    ((base.coreAt ⟨0, 1⟩).isSome = true ∧ (away base).disp.saved.find? (fun x => x.id == ⟨0, 0⟩ && x.runsTask 0) = some base.core.savedImage) ∧
    (∀ x ∈ [Sensor.junction 4, .hbm 15, .outlet], throttleAt x ≤ throttleAt x ∧ x ∉ base.mgmt.power.throttled ∧ throttleAt x - 5 + 5 ≤ throttleAt x ∧ shutdownAt x ≤ shutdownAt x) ∧
    ((∀ r ∈ [(false, true, 1), (true, false, 1), (true, true, 0), (true, true, 1)], (anEnv r.1 r.2.1 r.2.2).railsOk = r.1 ∧ (anEnv r.1 r.2.1 r.2.2).selfTestOk = r.2.1 ∧
      (anEnv r.1 r.2.1 r.2.2).block.format = r.2.2) ∧
      (let e := anEnv true true 1 false
       e.block.reservedZero = true ∧ e.memoryOk = false) ∧ State.reset.mgmt.step = 0 ∧ (base.onMgmt fun m => { m with step := 5 }).mgmt.step = 5 ∧
      (let s := State.reset.onMgmt fun m => { m with anchors := [77] }
       s.mgmt.step = 0 ∧ s.controlOk (aPeer true) = true ∧ s.controlOk (aPeer false) = false)) ∧
    (let s := base.onMgmt fun m => { m with replay := { m.replay with mode := 2, begun := true, todo := [⟨0, 0, 0, 0, 0⟩], since := 0xFFFFFFFFFF000000 } }
     s.mgmt.replay.mode = 2 ∧ s.mgmt.replay.begun = true ∧ s.mgmt.replay.todo ≠ [] ∧ ∃ x ∈ s.mgmt.replay.todo, 16777216 ≤ (s.gcc - s.mgmt.replay.lastUse (recorder x.kind x.unit)).toNat) ∧
    (base.onMgmt fun m => { m with replay := { m.replay with mode := 2, begun := true } }).mgmt.replay.todo = [] ∧
    (isGroupPerm [3, 1, 0, 2] = true ∧ (idle base).core.isFree = true) := by
  decide +kernel

/-! ### Single steps of the manual's worked examples -/

/-- The word decodes, and its instruction takes a next state of which p holds. -/
def runs (nbits w : Nat) (s : State) (p : State → Bool) : Bool := match decodeTableWord nbits w with
  | some i => stepB p (exec i s)
  | none => false
def xIs (r : XR) (v : W64) (s : State) : Bool := s.core.regs.x[r].val == v
def kIs (k : KR) (v : W32) (s : State) : Bool := (s.k k).val == v

/-- Chapter 4's static core, pass 2: X6 takes the job index, and X5 adds it. -/
theorem test_step_movx : runs 32 0x00133000 (withK 0 4 (on .s base)) (xIs 6 4) = true := by decide +kernel
theorem test_step_add : runs 32 0x0001294C (withX 6 4 (withX 5 1 (on .s base))) (xIs 5 5) = true := by decide +kernel

/-- Chapter 4's static core: cursor 1 to 2 gives job 7, cursor 2 to 3 gives none. -/
def staticCore (cursor : Nat) (k0 : W32) : State :=
  let s := withK 0 k0 (on .s base)
  { s.onDisp fun d => { d with tasks := [{ tblTask with r := { tblTask.r with levels := [⟨0, 10, 1⟩] }, jobs := 10 }] } with
    core := { s.core with place := { s.core.place with first := 1, stride := 3, count := 3, cursor := cursor } } }
theorem test_step_cur_next : runs 32 0x00323800 (staticCore 1 4) (fun t => t.core.place.cursor == 2 && kIs 0 7 t && xIs 7 1 t) = true ∧
    runs 32 0x00323800 (staticCore 2 7) (fun t => t.core.place.cursor == 3 && kIs 0 7 t && xIs 7 0 t) = true := by decide +kernel

/-- Chapter 3's loop: past the ENDL at once with K2 = 0, into the body with K2 = 2. -/
def loopText (k2 : W32) : State := atPc 3 (withK 2 k2 (withText [(3, 0xE0012803), (6, 0xE0020000)] (on .v base)))
theorem test_step_loop : runs 32 0xE0012803 (loopText 0) (fun t => t.me.pc == 7) = true ∧ runs 32 0xE0012803 (loopText 2) (fun t => t.me.pc == 4) = true := by
  decide +kernel

/-- Chapter 6's ragged row. -/
def ragged : State := (on .v base).onRegs fun r => { r with
  vsh := 0x4B90
  v := (r.v.set 1 ⟨Row.ofLanes fun i => ([0x3F800000, 0x40000000, 0x40400000, 0x40A00000, 0x40A00000, 0x40C00000, 0x41100000] : List W32).getD i 0, 0, Mark.empty⟩).set 2
    ⟨Row.ofLanes fun i => ([0, 0, 0, 2, 2, 2, 3] : List W32).getD i 0, 0, Mark.empty⟩ }
def vIs (r : VR) (l : List W32) (rest : W32) (s : State) : Bool := (List.range 64).all fun i => s.core.regs.v[r].val.lane i == l.getD i rest
theorem test_step_vred_sum : runs 32 0x401C1840 ragged (vIs 3 [0x40C00000, 0, 0x41800000, 0x41100000] 0) = true := by decide +kernel
theorem test_step_vred_max : runs 32 0x401C2041 ragged (vIs 4 [0x40400000, 0xFF800000, 0x40C00000, 0x41100000] 0xFF800000) = true := by decide +kernel
theorem test_step_vsmax : runs 32 0x401F2840 ragged
    (vIs 5 [0x3E124925, 0x3E924925, 0x3F124925, 0x3E800000, 0x3E800000, 0x3F000000, 0x3F800000] 0) = true := by decide +kernel

/-- Chapter 2's Q4X row: the first ten elements, with VINV and QINV set. -/
def q4xRow : State := (on .v base).onRegs fun r => { r with
  v := r.v.set 1 ⟨Row.ofBytes fun j => if j < 5 then ([0xE3, 0x85, 0x8C, 0x83, 0x10] : List Byte).getD j 0 else if j = 65 then 0x34 else 0, 0, Mark.empty⟩ }
theorem test_step_vunpq : stepB (fun t => vIs 2 [0x3F400000, 0xBF000000, 0, 0x40C00000, 0, 0, 0, 0x3E000000, 0, 0x3E800000] 0 t && t.core.regs.nfl == 0x21)
    (exec (.vunpq none none 2 1) q4xRow) = true := by decide +kernel

/-- Chapter 2's K-step: 4096 and 64 products of 2^-12 give 4096.015625; chapter 7's: 64 products of 1 by 0.5 give 32. -/
def f8e4Step (acc : W32) (a b : Nat) : W32 × Bool :=
  let v (x : Nat) : FV := f8e4.decode x
  kElem (.exact false) .rne acc (List.replicate 64 (v a)) (List.replicate 64 (v b)) (.fin false 0 0) (.fin false 0 0)
theorem test_kstep_f8 : f8e4Step 0x45800000 0x08 0x08 = (0x45800020, false) ∧ f8e4Step 0 0x38 0x30 = (0x42000000, false) := by decide +kernel

/-- Chapter 5's sum: a half of the spacing is a tie to even, a whole one is kept. -/
theorem test_aacc_lane :
    let sum (a b : W64) : W64 := (addLanes false [a] [b]).1.getD 0 9
    sum 0x3F800000 0x33800000 = 0x3F800000 ∧ sum 0x3F800000 0x34000000 = 0x3F800001 ∧ sum 0x33800000 0x33800000 = 0x34000000 := by decide +kernel

/-- R348's tables. -/
def sixLoads : State :=
  let at2 (g : Nat) : Nat := g + 0x40000000
  let s := ([(0x110000, 0x40000007), (at2 0x10000, 0x11001), (at2 0x11008, 0x12001), (at2 0x12000, 0x13001), (at2 0x12008, 0x15101), (at2 0x13008, 0x14001),
    (at2 0x13010, 0x600003), (at2 0x14018, 0x805007), (at2 0x14080, 0x90000B), (at2 0x140B8, 0x90700B)] : List (Nat × Nat)).foldl (fun s x => s.poke x.1 (natLe x.2 8)) (on .s base)
  let s := s.poke 0x100000 (natLe 0x110001 8)
  { s.setVf 0 (fun v => { v with s2root := 0x100000 }) with core := { s.core with regs := { s.core.regs with s1tb := 0x10001 } } }
def leadsTo (a : W64) (hpa : Nat) : Bool := okB (fun t _ => match t with
  | .mem x _ _ _ => x == hpa
  | _ => false) (sixLoads.translate sixLoads.who .home false a)
/-- R349. -/
theorem test_translate_six_loads : leadsTo 0x8000203010 0x40805010 = true ∧ leadsTo 0x8000210008 0x40900008 = true ∧ leadsTo 0x8000217FF8 0x40907FF8 = true ∧
    leadsTo 0x8000456780 0x40656780 = true ∧ leadsTo 0x8000203FF8 0x40805FF8 = true := by decide +kernel
theorem test_translate_reserved_bit : (match (sixLoads.translate sixLoads.who .home false 0x8040000100).1 with
    | .error e => decide (e.cause = .reservedBit)
    | .ok _ => false) = true := by decide +kernel

/-- Chapter 8's errand at node (0,0,0) of a torus of 2 x 2 x 2, with n in XB(5) and l on the stack. -/
def seeking (n : W32) (l : List W32) (i : Nat) : State :=
  let s := (net 1 base).onMgmt fun m => { m with dims := (2, 2, 2) }
  let s := (s.setPart 0 fun p => { p with emask := 0x6903 }).onXr fun x => { x with xb := [(5, n)] }
  let j := laneJobOf l i
  s.setLane 0 (some { j with pkt := { j.pkt with dst := 17, budget := 3, next := 0, nv := true } })
def laneIs (p : Packet → Bool) (s : State) : Bool := (s.laneJob 0).any fun j => p j.pkt
theorem test_step_ctr_test : runs 16 0x8805 (seeking 0 [1] 1) (laneIs fun p => stackB p [0]) = true ∧
    runs 16 0x8805 (seeking 2 [1] 1) (laneIs fun p => stackB p [1]) = true := by decide +kernel
theorem test_step_dirmin : runs 16 0xB800 (seeking 0 [] 4) (laneIs fun p => stackB p [0] && p.next == 0) = true := by decide +kernel
theorem test_step_fwd : runs 16 0xF800 (seeking 0 [] 6) (fun t => (t.laneJob 0).isNone && t.xr.tx.length + t.xr.sent.length == 1 &&
    (t.xr.tx ++ t.xr.sent).all fun x => x.port == 0 && x.pkt.budget == 2) = true := by decide +kernel

end
end

/-! ### What a control word comes to (R119 to R123) -/

section
namespace Sys2Proof.Machine

/-- A control word whose body answers ILLEGAL raises it, and nothing else happens. -/
theorem runControl_illegal {e : Engine} {len : Nat} {inH : Bool} {s : State} {body : State → CtlRes}
    (h : ReadyControl e len inH s) (hb : body s = .illegal) : runControl len inH body s = .next (illegalControl s) := by
  have slipOk : ¬ ((s.core.slips s.act len && !(s.core.regs.hmode && s.act == Engine.s)) = true) := by
    obtain hs | ⟨hm, rfl⟩ := h.slip
    · simp [h.act, hs]
    · simp [h.act, hm]
  have idle : ¬ (s.act = Engine.m ∧ (s.core.mat.ops ≠ [] ∨ s.core.mat.word.isSome = true)) := by
    rintro ⟨hm, ho⟩
    obtain ⟨h1, h2⟩ := h.idle (h.act.symm.trans hm)
    simp [h1, h2] at ho
  unfold runControl
  simp only [if_neg slipOk, if_neg idle, hb, ite_self]

@[simp] theorem State.setStack_me_pc (l : List Frame) (s : State) : (s.setStack l).me.pc = s.me.pc := by
  simp [State.setStack, State.me, State.eng, State.onEng, State.onCore, Core.eng_onEng]

/-- A word that reads K runs its body once S has come as far as the word (R18). -/
theorem ctlK_eq {body : State → CtlRes} {s : State} (h : s.kAhead = false) : ctlK body s = body s := by simp [ctlK, h]

theorem condK_eq {c : Kcc} {body : State → CtlRes} {s : State} (h : c = .always ∨ s.kAhead = false) :
    (if c = .always then body else ctlK body) s = body s := by
  split
  · rfl
  · next hc => exact ctlK_eq (h.resolve_left hc)

/-! #### Branches (R121, R122) -/

theorem branchBy_inside {off : Int} {s : State} (h0 : 0 ≤ (s.me.pc : Int) + off) (h1 : (s.me.pc : Int) + off < 16384) :
    branchBy off s = .goto s ((s.me.pc : Int) + off).toNat := if_pos ⟨h0, h1⟩

theorem branchBy_outside {off : Int} {s : State} (h : (s.me.pc : Int) + off < 0 ∨ 16384 ≤ (s.me.pc : Int) + off) :
    branchBy off s = .illegal := by
  refine if_neg fun ⟨h0, (h1 : _ < (16384 : Int))⟩ => ?_
  omega

theorem toNat_lt_textWords {dest : Int} (h : dest < 16384) : dest.toNat < Config.textWords := by
  change dest.toNat < 16384
  omega

theorem callBody_inside {o : BitVec 15} {s : State} (hd : s.me.stack.length < 8) (h0 : 0 ≤ (s.me.pc : Int) + o.toInt)
    (h1 : (s.me.pc : Int) + o.toInt < 16384) :
    callBody o s = .goto (s.setStack (.call (s.me.pc + 1) :: s.me.stack)) ((s.me.pc : Int) + o.toInt).toNat := by
  have room : ¬ Config.stackDepth ≤ s.me.stack.length := Nat.not_le.mpr hd
  rw [← State.setStack_me_pc (.call (s.me.pc + 1) :: s.me.stack)] at h0 h1
  rw [callBody, if_neg room, branchBy_inside h0 h1, State.setStack_me_pc]

theorem callBody_illegal {o : BitVec 15} {s : State}
    (h : 8 ≤ s.me.stack.length ∨ (s.me.pc : Int) + o.toInt < 0 ∨ 16384 ≤ (s.me.pc : Int) + o.toInt) : callBody o s = .illegal := by
  unfold callBody
  split
  · rfl
  · next hd => exact branchBy_outside (by rw [State.setStack_me_pc]; exact h.resolve_left hd)

theorem retBody_call {back : Nat} {rest : List Frame} {s : State} (h : s.me.stack = .call back :: rest) :
    retBody s = .goto (s.setStack rest) back := by simp [retBody, h]

theorem retBody_illegal {s : State} (h : ∀ back rest, s.me.stack ≠ .call back :: rest) : retBody s = .illegal := by
  unfold retBody
  split
  · next hs => exact absurd hs (h _ _)
  · rfl

/-! #### LOOP and ENDL (R119) -/

section
variable {o : Fin 2048} {len : Nat} {c : W32} {s : State}

theorem loopBody_noEndl (h : o.val < len ∨ 16384 ≤ s.me.pc + o.val ∨ s.core.wordAt (s.me.pc + o.val) ≠ 0xE0020000) :
    loopBody o len c s = .illegal := if_pos h

section
variable (h1 : len ≤ o.val) (hp : s.me.pc + o.val + 1 < 16384) (hw : s.core.wordAt (s.me.pc + o.val) = 0xE0020000)
include h1 hp hw

theorem loopBody_endl : loopBody o len c s = if c = 0 then .goto s (s.me.pc + o.val + 1)
      else if 8 ≤ s.me.stack.length then .illegal
      else .goto (s.setStack (.loop (s.me.pc + len) (s.me.pc + o.val) c :: s.me.stack)) (s.me.pc + len) :=
  if_neg (by
    rintro (hl | (hi : 16384 ≤ _) | hn)
    · omega
    · omega
    · exact hn hw)

theorem loopBody_zero (hc : c = 0) : loopBody o len c s = .goto s (s.me.pc + o.val + 1) := by
  rw [loopBody_endl h1 hp hw, if_pos hc]

theorem loopBody_push (hc : c ≠ 0) (hd : s.me.stack.length < 8) :
    loopBody o len c s = .goto (s.setStack (.loop (s.me.pc + len) (s.me.pc + o.val) c :: s.me.stack)) (s.me.pc + len) := by
  rw [loopBody_endl h1 hp hw, if_neg hc, if_neg (Nat.not_le.mpr hd)]

theorem loopBody_full (hc : c ≠ 0) (hd : 8 ≤ s.me.stack.length) : loopBody o len c s = .illegal := by
  rw [loopBody_endl h1 hp hw, if_neg hc, if_pos hd]

end
end

theorem endlBody_again {body : Nat} {left : W32} {rest : List Frame} {s : State} (h : s.me.stack = .loop body s.me.pc left :: rest)
    (hl : left ≠ 1) : endlBody s = .goto (s.setStack (.loop body s.me.pc (left - 1) :: rest)) body := by
  have more : left - 1 ≠ 0 := sub_ne_zero.mpr hl
  simp only [endlBody, h, ne_eq, not_true_eq_false, if_false, if_pos more]

theorem endlBody_last {body : Nat} {rest : List Frame} {s : State} (h : s.me.stack = .loop body s.me.pc 1 :: rest) :
    endlBody s = .goto (s.setStack rest) (s.me.pc + 1) := by
  simp [endlBody, h]

theorem endlBody_illegal {s : State} (h : ∀ body left rest, s.me.stack ≠ .loop body s.me.pc left :: rest) : endlBody s = .illegal := by
  unfold endlBody
  split
  · next body fin left rest hs =>
    exact if_pos fun (hf : fin = s.me.pc) => h body left rest (hf ▸ hs)
  · rfl

/-! #### BRK (R120) -/

theorem breakOut_loops {n fin : Nat} {l : List Frame} (loops : ∀ i, i ≤ n → ∃ b f c, l[i]? = some (.loop b f c))
    (last : ∃ b c, l[n]? = some (.loop b fin c)) : breakOut n l = some (fin, l.drop (n + 1)) := by
  induction n generalizing l with
  | zero =>
    obtain ⟨b, c, hl⟩ := last
    cases l with
    | nil => cases hl
    | cons x rest =>
      obtain rfl : x = .loop b fin c := by simpa using hl
      rfl
  | succ n ih =>
    obtain ⟨b, f, c, hl⟩ := loops 0 (Nat.zero_le _)
    cases l with
    | nil => cases hl
    | cons x rest =>
      obtain rfl : x = .loop b f c := by simpa using hl
      exact ih (fun i hi => loops (i + 1) (Nat.succ_le_succ hi)) last

theorem breakOut_none {n : Nat} {l : List Frame} (h : l.length ≤ n ∨ ∃ i b, i ≤ n ∧ l[i]? = some (.call b)) : breakOut n l = none := by
  induction l generalizing n with
  | nil => simp [breakOut]
  | cons x rest ih =>
    cases x with
    | call b => simp [breakOut]
    | loop b f c =>
      cases n with
      | zero => simp at h
      | succ n =>
        refine ih (h.imp Nat.le_of_succ_le_succ ?_)
        rintro ⟨i, b, hi, hx⟩
        cases i with
        | zero => simp at hx
        | succ i => exact ⟨i, b, Nat.le_of_succ_le_succ hi, hx⟩

theorem brkBody_out {k : KR} {c : Kcc} {l : Fin 8} {s : State} {fin : Nat} {rest : List Frame} (hk : kccHolds c (s.k k).val = true)
    (hb : breakOut l.val s.me.stack = some (fin, rest)) : brkBody k c l s = .goto (s.setStack rest) (fin + 1) := by
  simp [brkBody, hk, hb]

theorem brkBody_illegal {k : KR} {c : Kcc} {l : Fin 8} {s : State} (hk : kccHolds c (s.k k).val = true)
    (hb : breakOut l.val s.me.stack = none) : brkBody k c l s = .illegal := by
  simp [brkBody, hk, hb]

theorem brkBody_stays {k : KR} {c : Kcc} {l : Fin 8} {s : State} (hk : kccHolds c (s.k k).val = false) :
    brkBody k c l s = .goto s (s.me.pc + 1) := by
  simp [brkBody, hk]

theorem brKBody_taken {k : KR} {c : Kcc} {o : BitVec 9} {s : State} (hk : kccHolds c (s.k k).val = true) :
    brKBody k c o s = branchBy o.toInt s := by
  simp [brKBody, hk]

theorem brKBody_stays {k : KR} {c : Kcc} {o : BitVec 9} {s : State} (hk : kccHolds c (s.k k).val = false) :
    brKBody k c o s = .goto s (s.me.pc + 1) := by
  simp [brKBody, hk]

/-! #### Every word that jumps is `runControl` of its body -/

/-- Settles O9: each word is `runControl` of its body, which goes on or answers ILLEGAL as the lemmas on the bodies say. -/
theorem jumpsCallsLoops : Obligations.JumpsCallsLoops := by
  refine ⟨fun e s => ⟨fun o h => ⟨fun h0 h1 => ?jmp, fun ho => ?jmpOutside⟩,
      fun k c o h hk => ⟨fun hc h0 h1 => ?brK, fun hc ho => ?brKOutside, fun hc hp => ?brKStays⟩,
      fun o h => ⟨fun hd h0 h1 => ?call, fun ho => ?callIllegal⟩,
      fun h => ⟨fun back rest hs hp => ?ret, fun hs => ?retIllegal⟩,
      fun h hp => ?nopa⟩,
    fun e s => ⟨fun k o h hk => ⟨fun h1 hp hw => ⟨fun hc => ?loopZero, fun hc hd => ?loop, fun hc hd => ?loopFull⟩, fun hw => ?loopNoEndl⟩,
      fun o c h => ⟨fun h1 hp hw => ⟨fun hc => ?countZero, fun hc hd => ?count, fun hc hd => ?countFull⟩, fun hw => ?countNoEndl⟩,
      fun h => ⟨fun body left rest hs => ⟨fun hl hp => ?endlAgain, fun hl hp => ?endlLast⟩, fun hs => ?endlIllegal⟩,
      fun k c l h hk => ⟨fun fin hc loops last hp => ?brk, fun hc hs => ?brkIllegal, fun hc hp => ?brkStays⟩⟩⟩
  case jmp => exact runControl_goto h (branchBy_inside h0 h1) h.act (toNat_lt_textWords h1)
  case jmpOutside => exact runControl_illegal h (branchBy_outside ho)
  case brK => exact runControl_goto h ((condK_eq hk).trans ((brKBody_taken hc).trans (branchBy_inside h0 h1))) h.act (toNat_lt_textWords h1)
  case brKOutside => exact runControl_illegal h ((condK_eq hk).trans ((brKBody_taken hc).trans (branchBy_outside ho)))
  case brKStays => exact runControl_goto h ((condK_eq hk).trans (brKBody_stays hc)) h.act hp
  case call => exact runControl_goto h (callBody_inside hd h0 h1) h.act (toNat_lt_textWords h1)
  case callIllegal => exact runControl_illegal h (callBody_illegal ho)
  case ret => exact runControl_goto h (retBody_call hs) h.act hp
  case retIllegal => exact runControl_illegal h (retBody_illegal hs)
  case nopa => exact runControl_goto (body := fun s => .goto s (s.me.pc + 1)) h rfl h.act hp
  case loopZero => exact runControl_goto h ((ctlK_eq hk).trans (loopBody_zero h1 hp hw hc)) h.act hp
  case loop => exact runControl_goto h ((ctlK_eq hk).trans (loopBody_push h1 hp hw hc hd)) h.act (by change _ < 16384; omega)
  case loopFull => exact runControl_illegal h ((ctlK_eq hk).trans (loopBody_full h1 hp hw hc hd))
  case loopNoEndl => exact runControl_illegal h ((ctlK_eq hk).trans (loopBody_noEndl (hw.imp_left fun h0 => by omega)))
  case countZero => exact runControl_goto h (loopBody_zero h1 hp hw hc) h.act hp
  case count => exact runControl_goto h (loopBody_push h1 hp hw hc hd) h.act (by change _ < 16384; omega)
  case countFull => exact runControl_illegal h (loopBody_full h1 hp hw hc hd)
  case countNoEndl => exact runControl_illegal h (loopBody_noEndl hw)
  case endlAgain => exact runControl_goto h (endlBody_again hs hl) h.act hp
  case endlLast => exact runControl_goto h (endlBody_last (hl ▸ hs)) h.act hp
  case endlIllegal => exact runControl_illegal h (endlBody_illegal hs)
  case brk => exact runControl_goto h ((condK_eq hk).trans (brkBody_out hc (breakOut_loops loops last))) h.act hp
  case brkIllegal => exact runControl_illegal h ((condK_eq hk).trans (brkBody_illegal hc (breakOut_none hs)))
  case brkStays => exact runControl_goto h ((condK_eq hk).trans (brkBody_stays hc)) h.act hp

end Sys2Proof.Machine
end

/-! ### The two-operand forms of S (R127) -/

section
namespace Sys2Proof.Machine

/-! #### The model's functions of R127, in the spec's words -/

theorem extractHigh_ofInt (z : Int) : (BitVec.ofInt 128 z).extractLsb' 64 64 = BitVec.ofInt 64 (z / 2 ^ 64) := by
  apply BitVec.eq_of_toNat_eq
  simp only [BitVec.extractLsb'_toNat, BitVec.toNat_ofInt, Nat.shiftRight_eq_div_pow]
  omega

theorem smulh_eq (x y : W64) : smulh x y = (x.signExtend 128 * y.signExtend 128).extractLsb' 64 64 := by
  have product : x.signExtend 128 * y.signExtend 128 = BitVec.ofInt 128 (x.toInt * y.toInt) := (BitVec.ofInt_mul _ _).symm
  rw [product, extractHigh_ofInt, smulh]

theorem ofInt_tdiv_eq_sdiv (x y : W64) : BitVec.ofInt 64 (x.toInt.tdiv y.toInt) = x.sdiv y := by
  apply BitVec.eq_of_toInt_eq
  rw [BitVec.toInt_ofInt, BitVec.toInt_sdiv]

theorem sdivide_eq (x y : W64) : sdivide x y = if y = 0 then -1 else x.sdiv y := by
  rw [sdivide, ofInt_tdiv_eq_sdiv]

theorem sub_mul_sdiv_eq_srem (x y : W64) : x - y * x.sdiv y = x.srem y := by
  have division : x.toInt - y.toInt * x.toInt.tdiv y.toInt = x.toInt.tmod y.toInt := (Int.tmod_def _ _).symm
  rw [← BitVec.ofInt_toInt (x := x.srem y), BitVec.toInt_srem, ← division, Int.sub_eq_add_neg, BitVec.ofInt_add, BitVec.ofInt_neg,
    BitVec.ofInt_mul, ofInt_tdiv_eq_sdiv, BitVec.ofInt_toInt, BitVec.ofInt_toInt, BitVec.sub_eq_add_neg]

theorem sremain_eq (x y : W64) : sremain x y = if y = 0 then x else x.srem y := by
  rw [sremain, sdivide_eq]
  split
  · next h => simp [h]
  · exact sub_mul_sdiv_eq_srem x y

theorem smin_eq (x y : W64) : smin x y = if x.sle y then x else y := by simp [smin, BitVec.sle_iff_toInt_le]
theorem smax_eq (x y : W64) : smax x y = if x.sle y then y else x := by simp [smax, BitVec.sle_iff_toInt_le]

theorem bool64_iff {b : Bool} {p : Prop} [Decidable p] (h : b = true ↔ p) : bool64 b = if p then 1 else 0 := by simp [bool64, h]
theorem bool64_not_iff {b : Bool} {p : Prop} [Decidable p] (h : b = true ↔ p) : bool64 (!b) = if p then 0 else 1 := by
  rw [bool64_iff (p := ¬ p) (by simp [← h]), ite_not]

/-- The functions of the two-operand forms, in the order of R127's table. -/
def twoOperandFns : List (W64 → W64 → W64) :=
  [fun a b => a + b, fun a b => a - b, fun a b => a &&& b, fun a b => a ||| b, fun a b => a ^^^ b, fun a b => a &&& ~~~b, sshl, sshr, ssra,
    fun a b => a * b, smulh, sdivide, sremain, smin, smax, fun a b => bool64 (a == b), fun a b => bool64 (a != b), fun a b => bool64 (a.slt b),
    fun a b => bool64 (!a.slt b), fun a b => bool64 (a.ult b), fun a b => bool64 (!a.ult b)]

theorem twoOperandFns_map (x y : W64) : twoOperandFns.map (fun f => f x y) =
    [x + y, x - y, x &&& y, x ||| y, x ^^^ y, x &&& ~~~y, x <<< (y.toNat % 64), x >>> (y.toNat % 64),
      x.sshiftRight (y.toNat % 64), x * y, (x.signExtend 128 * y.signExtend 128).extractLsb' 64 64, if y = 0 then -1 else x.sdiv y,
      if y = 0 then x else x.srem y, if x.sle y then x else y, if x.sle y then y else x, if x = y then 1 else 0, if x = y then 0 else 1,
      if x.toInt < y.toInt then 1 else 0, if y.toInt ≤ x.toInt then 1 else 0, if x.toNat < y.toNat then 1 else 0,
      if y.toNat ≤ x.toNat then 1 else 0] := by
  have eq : bool64 (x == y) = if x = y then 1 else 0 := bool64_iff beq_iff_eq
  have ne : bool64 (x != y) = if x = y then 0 else 1 := bool64_not_iff beq_iff_eq
  have lt : bool64 (x.slt y) = if x.toInt < y.toInt then 1 else 0 := bool64_iff BitVec.slt_iff_toInt_lt
  have ge : bool64 (!x.slt y) = if y.toInt ≤ x.toInt then 1 else 0 := bool64_iff (by simp [BitVec.slt])
  have ltu : bool64 (x.ult y) = if x.toNat < y.toNat then 1 else 0 := bool64_iff BitVec.ult_iff_lt
  have geu : bool64 (!x.ult y) = if y.toNat ≤ x.toNat then 1 else 0 := bool64_iff (by simp [BitVec.ult])
  simp only [twoOperandFns, List.map_cons, List.map_nil, sshl, sshr, ssra, smulh_eq, sdivide_eq, sremain_eq, smin_eq, smax_eq, eq, ne, lt, ge, ltu, geu]

/-! #### The words -/

/-- A word of S that may stand in the handler and writes an X register, and nothing else, is passed with that register written. -/
theorem runWord_setX {w g : Tok} {len : Nat} {s u : State} {d : XR} {f : State → State} {v : W64} {m : Mark} (h : Ready .s w g len true s u)
    (hf : f u = u.setX d v m) : ∃ t, runWord w g len true (simply f) s = .next t ∧ Passed .s g (s.me.pc + len) len (u.setX d v m) t := by
  have here : s.me = s.core.eng .s := congrArg s.core.eng h.act
  rw [here]
  exact runWord_done h (congrArg WordRes.done hf) ((State.takeWait_act h.take).trans h.act) (fun _ => rfl)

theorem aluReg_passed {w g : Tok} {d a b : XR} {s u : State} (f : W64 → W64 → W64) (h : Ready .s w g 1 true s u) :
    ∃ t, aluReg w g d a b f s = .next t ∧
      Passed .s g (s.me.pc + 1) 1 (u.setX d (f (u.x a).val (u.x b).val) ((u.x a).mark.union (u.x b).mark)) t := runWord_setX h rfl

theorem aluImm_passed {w g : Tok} {d a : XR} {i : W32} {s u : State} (f : W64 → W64 → W64) (h : Ready .s w g 2 true s u) :
    ∃ t, aluImm w g d a i f s = .next t ∧
      Passed .s g (s.me.pc + 2) 2 (u.setX d (f (u.x a).val (i.signExtend 64)) ((u.x a).mark.union Mark.empty)) t := runWord_setX h rfl

/-- Settles O11: the spec's results are those of the functions of R127, and each form runs the function of its row. -/
theorem sTwoOperandForms : Obligations.STwoOperandForms := by
  intro w g d a b i s u
  dsimp only
  rw [← twoOperandFns_map, ← twoOperandFns_map]
  simp only [twoOperandFns, List.map_cons, List.map_nil, List.zip_cons_cons, List.zip_nil_right, List.forall_mem_cons, List.not_mem_nil,
    false_implies, implies_true, and_true]
  constructor
  · intro h
    and_intros <;> exact aluReg_passed _ h
  · intro h
    and_intros <;> exact aluImm_passed _ h

end Sys2Proof.Machine
end
